-- ==== Sys2Proof/Word.lean ====
section
/-!
DEFINITION. The word types of the Priux 1024 (files 01, 03 and 12 of spec/): the 64-bit register and
instruction word, the 128-bit capability and the byte.
-/

namespace Sys2Proof

/-- A byte of memory. -/
abbrev Byte := BitVec 8

/-- The 64 bits of a vector register, and one instruction word (R56, R274). -/
abbrev Word := BitVec 64

/-- The 128 bits of a capability (R9, R10). -/
abbrev CapBits := BitVec 128

end Sys2Proof
end

