-- ==== Sys2Proof/Syntax.lean ====
section
/-!
DEFINITION. The instructions and events of the Priux 1024 as data: one constructor of `Instr` for each row of
spec/opcode_table.json. Register numbers, immediates and field values are natural numbers; what a field may
hold is said by the encoding tables of Machine/Forms.lean and by WellFormed.lean.
-/

namespace Sys2Proof

/-- The sixteen defined tag codes of a vector register (R254). -/
inductive Tag where
  | raw | u64 | s64 | u32x2 | s32x2 | u16x4 | s16x4 | u8x8 | s8x8 | m8x8 | m4x16
  | f64 | f32x2 | f16x4 | b16x4 | q8x8
deriving DecidableEq, Repr

/-- The four rounding modes (R262). -/
inductive Rnd where
  | rn | rz | ru | rd
deriving DecidableEq, Repr

/-- The five scopes, in their coded order (R109, R280). -/
inductive Scope where
  | block | quad | device | system | pool
deriving DecidableEq, Repr

/-- A well-formed guard (R283): every thread, the threads whose predicate is true, or those whose predicate
is false. -/
inductive Guard where
  | always | ifTrue (p : Nat) | ifFalse (p : Nat)
deriving DecidableEq, Repr

/-- An F-form word of the ROUNDED layout (R277, R278). -/
structure Rounded where
  guard : Guard
  d : Nat
  a : Nat
  b : Nat
  c : Nat
  tag : Tag
  rnd : Rnd
  sat : Bool
  sub : Nat
deriving DecidableEq, Repr

/-- An F-form word of the MATRIX layout (R278): `n` is the order. -/
structure MatrixW where
  guard : Guard
  d : Nat
  a : Nat
  b : Nat
  c : Nat
  tag : Tag
  mode : Nat
  n : Nat
deriving DecidableEq, Repr

/-- An F-form word of the PLAIN layout (R278). -/
structure Plain where
  guard : Guard
  d : Nat
  a : Nat
  b : Nat
  c : Nat
  tag : Tag
  opx : Nat
deriving DecidableEq, Repr

/-- An I-form word (R279): `imm` is the 29-bit field as it stands. -/
structure Imm where
  guard : Guard
  d : Nat
  a : Nat
  imm : Nat
deriving DecidableEq, Repr

/-- An M-form word (R280, R281): `off` is the 10-bit field as it stands, `width`, `scale` and `size` are the
field codes. -/
structure MemW where
  guard : Guard
  data : Nat
  cap : Nat
  index : Nat
  width : Nat
  sgn : Bool
  scale : Nat
  type : Tag
  size : Nat
  off : Nat
  scope : Scope
deriving DecidableEq, Repr

/-- One half of a P-form word without its operation (R284). -/
structure Half where
  d : Nat
  a : Nat
  tag : Tag
  rnd : Rnd
  sat : Bool
deriving DecidableEq, Repr

/-- The operations of a half of a P-form word: class A, then class B (R285). -/
inductive PairOp where
  | mov | add | sub | mul | min | max | abs | neg | and | or | xor | not | andn | shl | shr | sar
  | fadd | fsub | fmul | fmin | fmax | fabs | fneg
deriving DecidableEq, Repr

/-- A 64-byte command of the command ring without its opcode (R427, R428): byte 1, the context number, bytes
4 to 7 and the dwords W1 to W7. -/
structure Command where
  byte1 : Nat
  ctx : Nat
  upper : Nat
  w1 : Nat
  w2 : Nat
  w3 : Nat
  w4 : Nat
  w5 : Nat
  w6 : Nat
  w7 : Nat
deriving DecidableEq, Repr

/-- The choices an event takes from the agent that makes it or from the outside world: the number of
what it concerns (a block, a request, a read, a quad, a port, a queue ...), a second and a third number, a value
written, an amount of data with its length, and two flags. Each event's meaning says which of them it uses.
(DESIGN CHOICE, log entry 3.) -/
structure EventArgs where
  id : Nat := 0
  tid : Nat := 0
  sub : Nat := 0
  value : Nat := 0
  data : Nat := 0
  len : Nat := 0
  ok : Bool := false
  alt : Bool := false
deriving DecidableEq, Repr

/-- One step of the device: the 199 instruction words of files 12 to 17 (23 of them as the first half of a
paired word), and the events of its other agents (log entry 3). The choices
of an event's agent or of the outside world stand in the state while the event is performed (`EventArgs`). -/
inductive Instr where
  | mov (w : Rounded) | add (w : Rounded) | sub (w : Rounded) | mul (w : Rounded) | mulhi (w : Rounded)
  | mad (w : Rounded) | min (w : Rounded) | max (w : Rounded) | abs (w : Rounded) | neg (w : Rounded)
  | and (w : Rounded) | or (w : Rounded) | xor (w : Rounded) | not (w : Rounded) | andn (w : Rounded)
  | shl (w : Rounded) | shr (w : Rounded) | sar (w : Rounded) | rot (w : Rounded) | clz (w : Rounded)
  | popc (w : Rounded) | brev (w : Rounded) | bfx (w : Rounded) | bfi (w : Rounded) | sel (w : Rounded)
  | cmp (w : Rounded) | cvtI (w : Rounded) | fadd (w : Rounded) | fsub (w : Rounded) | fmul (w : Rounded)
  | fma (w : Rounded) | fms (w : Rounded) | fnma (w : Rounded) | fmin (w : Rounded) | fmax (w : Rounded)
  | fabs (w : Rounded) | fneg (w : Rounded) | fcmp (w : Rounded) | fclass (w : Rounded)
  | dot2 (w : Rounded) | dot4 (w : Rounded) | fscale (w : Rounded) | frint (w : Rounded)
  | cvtF (w : Rounded) | cvtFi (w : Rounded) | cvtIf (w : Rounded) | cvtQ (w : Rounded)
  | cvtM (w : Rounded) | rcp (w : Rounded) | rsqrt (w : Rounded) | sqrt (w : Rounded) | div (w : Rounded)
  | exp2 (w : Rounded) | log2 (w : Rounded) | sin (w : Rounded) | cos (w : Rounded) | tanh (w : Rounded)
  | pand (w : Plain) | por (w : Plain) | pxor (w : Plain) | pnot (w : Plain) | pmask (w : Plain)
  | pset (w : Plain) | pack (w : Plain) | unpack (w : Plain) | retag (w : Plain) | cmov (w : Plain)
  | cincoff (w : Plain) | csetoff (w : Plain) | csetbnd (w : Plain) | candperm (w : Plain)
  | cget (w : Plain) | ctest (w : Plain) | shfl (w : Plain) | bcast (w : Plain) | ballot (w : Plain)
  | vote (w : Plain) | matchLanes (w : Plain) | scan (w : Plain) | reduce (w : Plain) | sort (w : Plain)
  | rank (w : Plain) | pacq (w : Plain) | prel (w : Plain) | ppass (w : Plain) | cpy (w : Plain)
  | cpyg (w : Plain) | cpym (w : Plain) | rack (w : Plain) | qfence (w : Plain) | lbarm (w : Plain)
  | ecntAdd (w : Plain) | ecntRd (w : Plain) | exlook (w : Plain) | rbacq (w : Plain) | rbrel (w : Plain)
  | bar (w : Plain) | gbar (w : Plain) | mon (w : Plain) | mwait (w : Plain) | getsr (w : Plain)
  | setsr (w : Plain) | launch (w : Plain) | waitc (w : Plain) | yield (w : Plain) | fpop (w : Plain)
  | cancel (w : Plain) | brk (w : Plain) | xget (w : Plain) | xput (w : Plain)
  | mset (w : MatrixW) | madd (w : MatrixW) | mmul (w : MatrixW) | mmad (w : MatrixW)
  | mtrans (w : MatrixW) | mvmul (w : MatrixW) | mchol (w : MatrixW) | mlu (w : MatrixW)
  | msolve (w : MatrixW)
  | movi (w : Imm) | movhi (w : Imm) | addi (w : Imm) | andi (w : Imm) | ori (w : Imm) | cmpi (w : Imm)
  | bra (w : Imm) | call (w : Imm) | ret (w : Imm) | jmpr (w : Imm) | loop (w : Imm) | reform (w : Imm)
  | rgn (w : Imm) | exit (w : Imm) | trap (w : Imm) | assert (w : Imm) | nop (w : Imm) | rte (w : Imm)
  | ld (w : MemW) | ldacq (w : MemW) | st (w : MemW) | strel (w : MemW) | lds (w : MemW) | sts (w : MemW)
  | atomAdd (w : MemW) | atomMin (w : MemW) | atomMax (w : MemW) | atomAnd (w : MemW) | atomOr (w : MemW)
  | atomXor (w : MemW) | atomXchg (w : MemW) | atomCas (w : MemW) | redAdd (w : MemW) | redMin (w : MemW)
  | redMax (w : MemW) | redAnd (w : MemW) | redOr (w : MemW) | redXor (w : MemW) | atomsAdd (w : MemW)
  | atomsMin (w : MemW) | atomsMax (w : MemW) | atomsAnd (w : MemW) | atomsOr (w : MemW)
  | atomsXor (w : MemW) | atomsXchg (w : MemW) | atomsCas (w : MemW) | wsum (w : MemW) | wrd (w : MemW)
  | mld (w : MemW) | mst (w : MemW) | ldcap (w : MemW) | stcap (w : MemW) | fence (w : MemW)
  | prefetch (w : MemW) | cachectlWb (w : MemW) | cachectlEvict (w : MemW) | cachectlL1drop (w : MemW)
  | movPaired (h0 : Half) (op1 : PairOp) (h1 : Half)
  | addPaired (h0 : Half) (op1 : PairOp) (h1 : Half)
  | subPaired (h0 : Half) (op1 : PairOp) (h1 : Half)
  | mulPaired (h0 : Half) (op1 : PairOp) (h1 : Half)
  | minPaired (h0 : Half) (op1 : PairOp) (h1 : Half)
  | maxPaired (h0 : Half) (op1 : PairOp) (h1 : Half)
  | absPaired (h0 : Half) (op1 : PairOp) (h1 : Half)
  | negPaired (h0 : Half) (op1 : PairOp) (h1 : Half)
  | andPaired (h0 : Half) (op1 : PairOp) (h1 : Half)
  | orPaired (h0 : Half) (op1 : PairOp) (h1 : Half)
  | xorPaired (h0 : Half) (op1 : PairOp) (h1 : Half)
  | notPaired (h0 : Half) (op1 : PairOp) (h1 : Half)
  | andnPaired (h0 : Half) (op1 : PairOp) (h1 : Half)
  | shlPaired (h0 : Half) (op1 : PairOp) (h1 : Half)
  | shrPaired (h0 : Half) (op1 : PairOp) (h1 : Half)
  | sarPaired (h0 : Half) (op1 : PairOp) (h1 : Half)
  | faddPaired (h0 : Half) (op1 : PairOp) (h1 : Half)
  | fsubPaired (h0 : Half) (op1 : PairOp) (h1 : Half)
  | fmulPaired (h0 : Half) (op1 : PairOp) (h1 : Half)
  | fminPaired (h0 : Half) (op1 : PairOp) (h1 : Half)
  | fmaxPaired (h0 : Half) (op1 : PairOp) (h1 : Half)
  | fabsPaired (h0 : Half) (op1 : PairOp) (h1 : Half)
  | fnegPaired (h0 : Half) (op1 : PairOp) (h1 : Half)
  | ctxload (cmd : Command)
  | objcreate (cmd : Command)
  | objinv (cmd : Command)
  | faultans (cmd : Command)
  | preempt (cmd : Command)
  | resume (cmd : Command)
  | slotbind (cmd : Command)
  | slotunbind (cmd : Command)
  | pgm (cmd : Command)
  | erase (cmd : Command)
  | feedmap (cmd : Command)
  | pgread (cmd : Command)
  | memoryResponse | storeBufferPerform | commandEnqueue | copyUnit | commandComplete | passJoin
  | cpymPassPost | pressGrant | passComplete | reservationFree | watchTrigger | mwaitTimeout | binAgedDraw
  | slotHeadCheck | launchRelease | pageReadStart | senseDone | transferDone | correctionDone
  | pageBufferEnter | pageDelivery | blockPlace | placementOverdue | blockClearingDone | blockFinish
  | waitConditionMet | blockSave | pinnedWaitLimit | trapDelivery | faultRecordWrite | replicaLockTimeout
  | atsCompletion | atsInvalidate | hostSnoop | bisnp | poolRecoveryTimeout | poolCompletionTimeout
  | poolViralSignal | poolLinkUp | portstatWrite | swirilLinkDown | peerRequest | peerResponse
  | objinvComplete | preemptComplete | notifyKick | catcherKick | catcherReplay | exresWrite | exwridx
  | pendingWrite | catchstatWrite | feedAppend | ageingInterval | eventRecordWrite | wdkick
  | watchdogTimeout | sdcWindowBoundary | errlostWrite | cecountWrite | dbgctlWrite | dbgcmdStop
  | dbgcmdResume | dbgdataWrite | haltComplete | traceDrain | rrChunkWrite | replayGateRelease
  | replayGateTimeout | thermalThrottle | thermalTrip | supplySag | clockStepRise | powerWindow | attctlGo
  | attestDone | resetBoot | registerWrite | hostCxlMemAccess | poolLinkExitL0 | throttleRelease
  | quadUngateComplete | pgmEraseComplete
deriving DecidableEq, Repr

end Sys2Proof
end

