-- ==== Sys2Proof/Machine/Forms.lean ====
section
/-!
DEFINITION. The encoding tables of file 12 and of the reference entries (R277 to R291, R300, R301, R322): for every
opcode which fields name registers, which tags, sizes and modifiers it takes, and what makes a word ILLEGAL.
-/

namespace Sys2Proof

/-- The tag codes of R254. -/
def Tag.code : Tag → Nat
  | .raw => 0 | .u64 => 1 | .s64 => 2 | .u32x2 => 3 | .s32x2 => 4 | .u16x4 => 5 | .s16x4 => 6 | .u8x8 => 7
  | .s8x8 => 8 | .m8x8 => 9 | .m4x16 => 10 | .f64 => 11 | .f32x2 => 12 | .f16x4 => 13 | .b16x4 => 14 | .q8x8 => 15

/-- The tag of a code; none for the reserved codes 0x10 to 0x1F. -/
def Tag.ofCode : Nat → Option Tag
  | 0 => some .raw | 1 => some .u64 | 2 => some .s64 | 3 => some .u32x2 | 4 => some .s32x2 | 5 => some .u16x4
  | 6 => some .s16x4 | 7 => some .u8x8 | 8 => some .s8x8 | 9 => some .m8x8 | 10 => some .m4x16 | 11 => some .f64
  | 12 => some .f32x2 | 13 => some .f16x4 | 14 => some .b16x4 | 15 => some .q8x8 | _ => none

/-- Element count NE of a tag (R254). -/
def Tag.ne : Tag → Nat
  | .raw | .u64 | .s64 | .f64 => 1
  | .u32x2 | .s32x2 | .f32x2 => 2
  | .u16x4 | .s16x4 | .f16x4 | .b16x4 => 4
  | .u8x8 | .s8x8 | .m8x8 | .q8x8 => 8
  | .m4x16 => 16

/-- Element width W of a tag in bits (R254). -/
def Tag.width (t : Tag) : Nat := 64 / t.ne

/-- The signed integer tags. -/
def Tag.isSigned : Tag → Bool
  | .s64 | .s32x2 | .s16x4 | .s8x8 => true
  | _ => false

/-- The floating-point tags 0x0B to 0x0E. -/
def Tag.isFloat : Tag → Bool
  | .f64 | .f32x2 | .f16x4 | .b16x4 => true
  | _ => false

/-- The rounding codes of R262. -/
def Rnd.code : Rnd → Nat
  | .rn => 0 | .rz => 1 | .ru => 2 | .rd => 3

/-- The rounding mode of a two-bit code. -/
def Rnd.ofCode : Nat → Option Rnd
  | 0 => some .rn | 1 => some .rz | 2 => some .ru | 3 => some .rd | _ => none

/-- The scope codes of R109. -/
def Scope.code : Scope → Nat
  | .block => 0 | .quad => 1 | .device => 2 | .system => 3 | .pool => 4

/-- The scope of a code; 5 to 7 are reserved (R280). -/
def Scope.ofCode : Nat → Option Scope
  | 0 => some .block | 1 => some .quad | 2 => some .device | 3 => some .system | 4 => some .pool | _ => none

/-- The seven guard bits (R283). -/
def Guard.code : Guard → Nat
  | .always => 0 | .ifTrue p => 64 + p | .ifFalse p => 96 + p

/-- The guard of seven bits; none where G is 0 and another bit is not (R283). -/
def Guard.ofCode (g : Nat) : Option Guard :=
  if g = 0 then some .always
  else if g < 64 then none
  else if g < 96 then some (.ifTrue (g - 64))
  else if g < 128 then some (.ifFalse (g - 96))
  else none

/-- A flag as a bit. -/
def bit (b : Bool) : Nat := if b then 1 else 0

/-- The op of a half of a P-form word: the low 7 bits of its F opcode (R284, R285). -/
def PairOp.code : PairOp → Nat
  | .mov => 0x00
  | .add => 0x01
  | .sub => 0x02
  | .mul => 0x03
  | .min => 0x06
  | .max => 0x07
  | .abs => 0x08
  | .neg => 0x09
  | .and => 0x0A
  | .or => 0x0B
  | .xor => 0x0C
  | .not => 0x0D
  | .andn => 0x0E
  | .shl => 0x0F
  | .shr => 0x10
  | .sar => 0x11
  | .fadd => 0x40
  | .fsub => 0x41
  | .fmul => 0x42
  | .fmin => 0x46
  | .fmax => 0x47
  | .fabs => 0x48
  | .fneg => 0x49

/-- The operation of a half's op; none where R285 rule 1 gives none. -/
def PairOp.ofCode : Nat → Option PairOp
  | 0x00 => some .mov
  | 0x01 => some .add
  | 0x02 => some .sub
  | 0x03 => some .mul
  | 0x06 => some .min
  | 0x07 => some .max
  | 0x08 => some .abs
  | 0x09 => some .neg
  | 0x0A => some .and
  | 0x0B => some .or
  | 0x0C => some .xor
  | 0x0D => some .not
  | 0x0E => some .andn
  | 0x0F => some .shl
  | 0x10 => some .shr
  | 0x11 => some .sar
  | 0x40 => some .fadd
  | 0x41 => some .fsub
  | 0x42 => some .fmul
  | 0x46 => some .fmin
  | 0x47 => some .fmax
  | 0x48 => some .fabs
  | 0x49 => some .fneg
  | _ => none

/-- The fields of one half as numbers (R284). -/
structure HalfFields where
  op : Nat
  d : Nat
  a : Nat
  t : Nat
  rnd : Nat
  sat : Nat
deriving DecidableEq, Repr

/-- The fields of a word as numbers, by form (R277, R279, R280, R284). `g` is the guard, `t` the tag or type
and `x` the op-specific field. -/
inductive View where
  | f (op g d a b c t x : Nat)
  | i (op g d a imm : Nat)
  | m (op g data cap index width sgn scale t size off scope : Nat)
  | p (h0 h1 : HalfFields)
deriving DecidableEq, Repr

/-- The fields of a ROUNDED word (R278). -/
def Rounded.view (op : Nat) (w : Rounded) : View :=
  .f op w.guard.code w.d w.a w.b w.c w.tag.code (w.rnd.code * 16 + bit w.sat * 8 + w.sub)

/-- The fields of a MATRIX word (R278). -/
def MatrixW.view (op : Nat) (w : MatrixW) : View :=
  .f op w.guard.code w.d w.a w.b w.c w.tag.code (w.mode * 8 + w.n)

/-- The fields of a PLAIN word (R278). -/
def Plain.view (op : Nat) (w : Plain) : View :=
  .f op w.guard.code w.d w.a w.b w.c w.tag.code w.opx

/-- The fields of an I-form word (R279). -/
def Imm.view (op : Nat) (w : Imm) : View := .i op w.guard.code w.d w.a w.imm

/-- The fields of an M-form word (R280). -/
def MemW.view (op : Nat) (w : MemW) : View :=
  .m op w.guard.code w.data w.cap w.index w.width (bit w.sgn) w.scale w.type.code w.size w.off w.scope.code

/-- The fields of a half (R284). -/
def Half.fields (op : PairOp) (h : Half) : HalfFields :=
  { op := op.code, d := h.d, a := h.a, t := h.tag.code, rnd := h.rnd.code, sat := bit h.sat }

/-- The fields of a P-form word. -/
def Half.view (op0 op1 : PairOp) (h0 h1 : Half) : View := .p (h0.fields op0) (h1.fields op1)

/-- The fields of an instruction word, with the opcode of R287 to R289; none for an event. -/
def Instr.view : Instr → Option View
  | .mov w => some (w.view 0x00)
  | .add w => some (w.view 0x01)
  | .sub w => some (w.view 0x02)
  | .mul w => some (w.view 0x03)
  | .mulhi w => some (w.view 0x04)
  | .mad w => some (w.view 0x05)
  | .min w => some (w.view 0x06)
  | .max w => some (w.view 0x07)
  | .abs w => some (w.view 0x08)
  | .neg w => some (w.view 0x09)
  | .and w => some (w.view 0x0A)
  | .or w => some (w.view 0x0B)
  | .xor w => some (w.view 0x0C)
  | .not w => some (w.view 0x0D)
  | .andn w => some (w.view 0x0E)
  | .shl w => some (w.view 0x0F)
  | .shr w => some (w.view 0x10)
  | .sar w => some (w.view 0x11)
  | .rot w => some (w.view 0x12)
  | .clz w => some (w.view 0x13)
  | .popc w => some (w.view 0x14)
  | .brev w => some (w.view 0x15)
  | .bfx w => some (w.view 0x16)
  | .bfi w => some (w.view 0x17)
  | .sel w => some (w.view 0x18)
  | .cmp w => some (w.view 0x19)
  | .cvtI w => some (w.view 0x26)
  | .fadd w => some (w.view 0x40)
  | .fsub w => some (w.view 0x41)
  | .fmul w => some (w.view 0x42)
  | .fma w => some (w.view 0x43)
  | .fms w => some (w.view 0x44)
  | .fnma w => some (w.view 0x45)
  | .fmin w => some (w.view 0x46)
  | .fmax w => some (w.view 0x47)
  | .fabs w => some (w.view 0x48)
  | .fneg w => some (w.view 0x49)
  | .fcmp w => some (w.view 0x4A)
  | .fclass w => some (w.view 0x4B)
  | .dot2 w => some (w.view 0x4C)
  | .dot4 w => some (w.view 0x4D)
  | .fscale w => some (w.view 0x4E)
  | .frint w => some (w.view 0x4F)
  | .cvtF w => some (w.view 0x60)
  | .cvtFi w => some (w.view 0x61)
  | .cvtIf w => some (w.view 0x62)
  | .cvtQ w => some (w.view 0x63)
  | .cvtM w => some (w.view 0x64)
  | .rcp w => some (w.view 0x70)
  | .rsqrt w => some (w.view 0x71)
  | .sqrt w => some (w.view 0x72)
  | .div w => some (w.view 0x73)
  | .exp2 w => some (w.view 0x74)
  | .log2 w => some (w.view 0x75)
  | .sin w => some (w.view 0x76)
  | .cos w => some (w.view 0x77)
  | .tanh w => some (w.view 0x78)
  | .mset w => some (w.view 0xA0)
  | .madd w => some (w.view 0xA1)
  | .mmul w => some (w.view 0xA2)
  | .mmad w => some (w.view 0xA3)
  | .mtrans w => some (w.view 0xA4)
  | .mvmul w => some (w.view 0xA5)
  | .mchol w => some (w.view 0xA6)
  | .mlu w => some (w.view 0xA7)
  | .msolve w => some (w.view 0xA8)
  | .pand w => some (w.view 0x20)
  | .por w => some (w.view 0x21)
  | .pxor w => some (w.view 0x22)
  | .pnot w => some (w.view 0x23)
  | .pmask w => some (w.view 0x24)
  | .pset w => some (w.view 0x25)
  | .pack w => some (w.view 0x27)
  | .unpack w => some (w.view 0x28)
  | .retag w => some (w.view 0x29)
  | .cmov w => some (w.view 0x30)
  | .cincoff w => some (w.view 0x31)
  | .csetoff w => some (w.view 0x32)
  | .csetbnd w => some (w.view 0x33)
  | .candperm w => some (w.view 0x34)
  | .cget w => some (w.view 0x35)
  | .ctest w => some (w.view 0x36)
  | .shfl w => some (w.view 0x80)
  | .bcast w => some (w.view 0x81)
  | .ballot w => some (w.view 0x82)
  | .vote w => some (w.view 0x83)
  | .matchLanes w => some (w.view 0x84)
  | .scan w => some (w.view 0x85)
  | .reduce w => some (w.view 0x86)
  | .sort w => some (w.view 0x87)
  | .rank w => some (w.view 0x88)
  | .pacq w => some (w.view 0xC0)
  | .prel w => some (w.view 0xC1)
  | .ppass w => some (w.view 0xC2)
  | .cpy w => some (w.view 0xC3)
  | .cpyg w => some (w.view 0xC4)
  | .cpym w => some (w.view 0xC5)
  | .rack w => some (w.view 0xC6)
  | .qfence w => some (w.view 0xC7)
  | .lbarm w => some (w.view 0xC8)
  | .ecntAdd w => some (w.view 0xC9)
  | .ecntRd w => some (w.view 0xC9)
  | .exlook w => some (w.view 0xCA)
  | .rbacq w => some (w.view 0xE0)
  | .rbrel w => some (w.view 0xE1)
  | .bar w => some (w.view 0xE2)
  | .gbar w => some (w.view 0xE3)
  | .mon w => some (w.view 0xE4)
  | .mwait w => some (w.view 0xE5)
  | .getsr w => some (w.view 0xE6)
  | .setsr w => some (w.view 0xE7)
  | .launch w => some (w.view 0xE8)
  | .waitc w => some (w.view 0xE9)
  | .yield w => some (w.view 0xEA)
  | .fpop w => some (w.view 0xEB)
  | .cancel w => some (w.view 0xEC)
  | .brk w => some (w.view 0xED)
  | .xget w => some (w.view 0xEE)
  | .xput w => some (w.view 0xEF)
  | .movi w => some (w.view 0x00)
  | .movhi w => some (w.view 0x01)
  | .addi w => some (w.view 0x02)
  | .andi w => some (w.view 0x03)
  | .ori w => some (w.view 0x04)
  | .cmpi w => some (w.view 0x05)
  | .bra w => some (w.view 0x10)
  | .call w => some (w.view 0x11)
  | .ret w => some (w.view 0x12)
  | .jmpr w => some (w.view 0x13)
  | .loop w => some (w.view 0x14)
  | .reform w => some (w.view 0x15)
  | .rgn w => some (w.view 0x16)
  | .exit w => some (w.view 0x17)
  | .trap w => some (w.view 0x18)
  | .assert w => some (w.view 0x19)
  | .nop w => some (w.view 0x1A)
  | .rte w => some (w.view 0x1B)
  | .ld w => some (w.view 0x00)
  | .ldacq w => some (w.view 0x01)
  | .st w => some (w.view 0x02)
  | .strel w => some (w.view 0x03)
  | .lds w => some (w.view 0x04)
  | .sts w => some (w.view 0x05)
  | .atomAdd w => some (w.view 0x10)
  | .atomMin w => some (w.view 0x11)
  | .atomMax w => some (w.view 0x12)
  | .atomAnd w => some (w.view 0x13)
  | .atomOr w => some (w.view 0x14)
  | .atomXor w => some (w.view 0x15)
  | .atomXchg w => some (w.view 0x16)
  | .atomCas w => some (w.view 0x17)
  | .redAdd w => some (w.view 0x18)
  | .redMin w => some (w.view 0x19)
  | .redMax w => some (w.view 0x1A)
  | .redAnd w => some (w.view 0x1B)
  | .redOr w => some (w.view 0x1C)
  | .redXor w => some (w.view 0x1D)
  | .atomsAdd w => some (w.view 0x28)
  | .atomsMin w => some (w.view 0x29)
  | .atomsMax w => some (w.view 0x2A)
  | .atomsAnd w => some (w.view 0x2B)
  | .atomsOr w => some (w.view 0x2C)
  | .atomsXor w => some (w.view 0x2D)
  | .atomsXchg w => some (w.view 0x2E)
  | .atomsCas w => some (w.view 0x2F)
  | .wsum w => some (w.view 0x30)
  | .wrd w => some (w.view 0x31)
  | .mld w => some (w.view 0x32)
  | .mst w => some (w.view 0x33)
  | .ldcap w => some (w.view 0x34)
  | .stcap w => some (w.view 0x35)
  | .fence w => some (w.view 0x38)
  | .prefetch w => some (w.view 0x39)
  | .cachectlWb w => some (w.view 0x3A)
  | .cachectlEvict w => some (w.view 0x3A)
  | .cachectlL1drop w => some (w.view 0x3A)
  | .movPaired h0 op1 h1 => some (h0.view .mov op1 h1)
  | .addPaired h0 op1 h1 => some (h0.view .add op1 h1)
  | .subPaired h0 op1 h1 => some (h0.view .sub op1 h1)
  | .mulPaired h0 op1 h1 => some (h0.view .mul op1 h1)
  | .minPaired h0 op1 h1 => some (h0.view .min op1 h1)
  | .maxPaired h0 op1 h1 => some (h0.view .max op1 h1)
  | .absPaired h0 op1 h1 => some (h0.view .abs op1 h1)
  | .negPaired h0 op1 h1 => some (h0.view .neg op1 h1)
  | .andPaired h0 op1 h1 => some (h0.view .and op1 h1)
  | .orPaired h0 op1 h1 => some (h0.view .or op1 h1)
  | .xorPaired h0 op1 h1 => some (h0.view .xor op1 h1)
  | .notPaired h0 op1 h1 => some (h0.view .not op1 h1)
  | .andnPaired h0 op1 h1 => some (h0.view .andn op1 h1)
  | .shlPaired h0 op1 h1 => some (h0.view .shl op1 h1)
  | .shrPaired h0 op1 h1 => some (h0.view .shr op1 h1)
  | .sarPaired h0 op1 h1 => some (h0.view .sar op1 h1)
  | .faddPaired h0 op1 h1 => some (h0.view .fadd op1 h1)
  | .fsubPaired h0 op1 h1 => some (h0.view .fsub op1 h1)
  | .fmulPaired h0 op1 h1 => some (h0.view .fmul op1 h1)
  | .fminPaired h0 op1 h1 => some (h0.view .fmin op1 h1)
  | .fmaxPaired h0 op1 h1 => some (h0.view .fmax op1 h1)
  | .fabsPaired h0 op1 h1 => some (h0.view .fabs op1 h1)
  | .fnegPaired h0 op1 h1 => some (h0.view .fneg op1 h1)
  | .memoryResponse => none
  | .storeBufferPerform => none
  | .commandEnqueue => none
  | .copyUnit => none
  | .commandComplete => none
  | .passJoin => none
  | .cpymPassPost => none
  | .pressGrant => none
  | .passComplete => none
  | .reservationFree => none
  | .watchTrigger => none
  | .mwaitTimeout => none
  | .binAgedDraw => none
  | .slotHeadCheck => none
  | .launchRelease => none
  | .pageReadStart => none
  | .senseDone => none
  | .transferDone => none
  | .correctionDone => none
  | .pageBufferEnter => none
  | .pageDelivery => none
  | .blockPlace => none
  | .placementOverdue => none
  | .blockClearingDone => none
  | .blockFinish => none
  | .waitConditionMet => none
  | .blockSave => none
  | .pinnedWaitLimit => none
  | .trapDelivery => none
  | .faultRecordWrite => none
  | .replicaLockTimeout => none
  | .atsCompletion => none
  | .atsInvalidate => none
  | .hostSnoop => none
  | .bisnp => none
  | .poolRecoveryTimeout => none
  | .poolCompletionTimeout => none
  | .poolViralSignal => none
  | .poolLinkUp => none
  | .portstatWrite => none
  | .swirilLinkDown => none
  | .peerRequest => none
  | .peerResponse => none
  | .ctxload _ => none
  | .objcreate _ => none
  | .objinv _ => none
  | .objinvComplete => none
  | .faultans _ => none
  | .preempt _ => none
  | .preemptComplete => none
  | .resume _ => none
  | .slotbind _ => none
  | .slotunbind _ => none
  | .pgm _ => none
  | .erase _ => none
  | .feedmap _ => none
  | .pgread _ => none
  | .notifyKick => none
  | .catcherKick => none
  | .catcherReplay => none
  | .exresWrite => none
  | .exwridx => none
  | .pendingWrite => none
  | .catchstatWrite => none
  | .feedAppend => none
  | .ageingInterval => none
  | .eventRecordWrite => none
  | .wdkick => none
  | .watchdogTimeout => none
  | .sdcWindowBoundary => none
  | .errlostWrite => none
  | .cecountWrite => none
  | .dbgctlWrite => none
  | .dbgcmdStop => none
  | .dbgcmdResume => none
  | .dbgdataWrite => none
  | .haltComplete => none
  | .traceDrain => none
  | .rrChunkWrite => none
  | .replayGateRelease => none
  | .replayGateTimeout => none
  | .thermalThrottle => none
  | .thermalTrip => none
  | .supplySag => none
  | .clockStepRise => none
  | .powerWindow => none
  | .attctlGo => none
  | .attestDone => none
  | .resetBoot => none
  | .registerWrite => none
  | .hostCxlMemAccess => none
  | .poolLinkExitL0 => none
  | .throttleRelease => none
  | .quadUngateComplete => none
  | .pgmEraseComplete => none

/-! ### What makes a word ILLEGAL (R290, R291) -/

/-- One broken rule of a word: the sub-code, FIELD and REG of R291. -/
structure Viol where
  sub : Nat
  field : Nat
  reg : Nat
deriving DecidableEq, Repr

/-- What a register field of an F-form word names (R282): nothing (zero), a vector register, a predicate, a
capability register, a number, a pair r and r + 1, a lane matrix or a lane vector (R364). -/
inductive Opnd where
  | none | vec | pred | cap | num | pair | mat | mvec
deriving DecidableEq, Repr

/-- The layout of the op-specific field (R278). -/
inductive Layout where
  | rounded | matrix | plain
deriving DecidableEq, Repr

/-- One entry of the F-form map: its layout, what its four register fields name, the tag codes allowed,
whether it rounds, whether it may saturate and whether its guard must be zero. -/
structure FForm where
  layout : Layout
  d : Opnd
  a : Opnd
  b : Opnd
  c : Opnd
  tags : List Nat
  rounds : Bool := false
  sats : Bool := false
  unguarded : Bool := false
deriving DecidableEq, Repr

/-- Tag codes of the rows of R301 and R322. -/
def tagsInt : List Nat := [1, 2, 3, 4, 5, 6, 7, 8]
def tagsBits : List Nat := [0, 1, 2, 3, 4, 5, 6, 7, 8]
def tagsFloat : List Nat := [11, 12, 13, 14]
def tagsAll : List Nat := [0, 1, 2, 3, 4, 5, 6, 7, 8, 9, 10, 11, 12, 13, 14, 15]
def tagsPack : List Nat := [0, 3, 4, 5, 6, 7, 8, 9, 10, 12, 13, 14, 15]
def tagsMove : List Nat := [0, 1, 2, 3, 4, 5, 6, 7, 8, 9, 11, 12, 13, 14, 15]
def tagsWord : List Nat := [0, 1, 2]
def tagsSpan : List Nat := [1, 2, 3, 4, 5, 6, 7, 8, 11, 12, 13, 14]

/-- A ROUNDED entry. -/
def rform (d a b c : Opnd) (tags : List Nat) (rounds sats : Bool := false) : FForm :=
  { layout := .rounded, d := d, a := a, b := b, c := c, tags := tags, rounds := rounds, sats := sats }

/-- A PLAIN entry; without tags its tag field is unused. -/
def pform (d a b c : Opnd) (tags : List Nat := []) (unguarded : Bool := false) : FForm :=
  { layout := .plain, d := d, a := a, b := b, c := c, tags := tags, unguarded := unguarded }

/-- A MATRIX entry. -/
def xform (d a b c : Opnd) : FForm :=
  { layout := .matrix, d := d, a := a, b := b, c := c, tags := [11, 12] }

/-- The source or destination operand of a copy: a vector register when the bit (SSP or DSP) is set, else a
capability (R374). -/
def spadOrCap (x bitNo : Nat) : Opnd := if x / 2 ^ bitNo % 2 = 1 then .vec else .cap

/-- The control operand of a copy: a pair when NFY (OPX[4]) is set (R374). -/
def ctlOpnd (x : Nat) : Opnd := if x / 16 % 2 = 1 then .pair else .vec

/-- The F-form map (R287) with the operand columns of the entries; `x` is the op-specific field, which some
entries' operands depend on. -/
def fForm (op x : Nat) : Option FForm :=
  match op with
  | 0x00 => some (rform .vec .vec .none .none [0])
  | 0x01 => some (rform .vec .vec .vec .none tagsInt false true)
  | 0x02 => some (rform .vec .vec .vec .none tagsInt false true)
  | 0x03 => some (rform .vec .vec .vec .none tagsInt false true)
  | 0x04 => some (rform .vec .vec .vec .none tagsInt)
  | 0x05 => some (rform .vec .vec .vec .vec tagsInt false true)
  | 0x06 => some (rform .vec .vec .vec .none tagsInt)
  | 0x07 => some (rform .vec .vec .vec .none tagsInt)
  | 0x08 => some (rform .vec .vec .none .none tagsInt false true)
  | 0x09 => some (rform .vec .vec .none .none tagsInt false true)
  | 0x0A => some (rform .vec .vec .vec .none tagsBits)
  | 0x0B => some (rform .vec .vec .vec .none tagsBits)
  | 0x0C => some (rform .vec .vec .vec .none tagsBits)
  | 0x0D => some (rform .vec .vec .none .none tagsBits)
  | 0x0E => some (rform .vec .vec .vec .none tagsBits)
  | 0x0F => some (rform .vec .vec .vec .none tagsInt)
  | 0x10 => some (rform .vec .vec .vec .none tagsInt)
  | 0x11 => some (rform .vec .vec .vec .none tagsInt)
  | 0x12 => some (rform .vec .vec .vec .none tagsInt)
  | 0x13 => some (rform .vec .vec .none .none tagsBits)
  | 0x14 => some (rform .vec .vec .none .none tagsBits)
  | 0x15 => some (rform .vec .vec .none .none tagsBits)
  | 0x16 => some (rform .vec .vec .vec .none tagsInt)
  | 0x17 => some (rform .vec .vec .vec .vec tagsInt)
  | 0x18 => some (rform .vec .vec .vec .pred tagsAll)
  | 0x19 => some (rform .pred .vec .vec .none tagsInt)
  | 0x20 => some (pform .pred .pred .pred .none)
  | 0x21 => some (pform .pred .pred .pred .none)
  | 0x22 => some (pform .pred .pred .pred .none)
  | 0x23 => some (pform .pred .pred .none .none)
  | 0x24 => some (pform .pred .vec .none .none tagsBits)
  | 0x25 => some (pform .pred .none .none .none)
  | 0x26 => some (rform .vec .vec .none .none [1, 2, 3, 4, 5, 6, 7, 8, 9, 10] false true)
  | 0x27 => some (pform .vec .vec .vec .none tagsPack)
  | 0x28 => some (pform .vec .vec .none .none tagsPack)
  | 0x29 => some (pform .vec .vec .none .none tagsAll)
  | 0x30 => some (pform .cap .cap .none .none)
  | 0x31 => some (pform .cap .cap .vec .none tagsWord)
  | 0x32 => some (pform .cap .cap .vec .none tagsWord)
  | 0x33 => some (pform .cap .cap .vec .vec tagsWord)
  | 0x34 => some (pform .cap .cap .vec .none tagsWord)
  | 0x35 => some (pform .vec .cap .none .none)
  | 0x36 => some (if x = 0 ∨ x = 3 then pform .pred .cap .none .none else pform .pred .cap .vec .none tagsWord)
  | 0x40 => some (rform .vec .vec .vec .none tagsFloat true)
  | 0x41 => some (rform .vec .vec .vec .none tagsFloat true)
  | 0x42 => some (rform .vec .vec .vec .none tagsFloat true)
  | 0x43 => some (rform .vec .vec .vec .vec tagsFloat true)
  | 0x44 => some (rform .vec .vec .vec .vec tagsFloat true)
  | 0x45 => some (rform .vec .vec .vec .vec tagsFloat true)
  | 0x46 => some (rform .vec .vec .vec .none tagsFloat)
  | 0x47 => some (rform .vec .vec .vec .none tagsFloat)
  | 0x48 => some (rform .vec .vec .none .none tagsFloat)
  | 0x49 => some (rform .vec .vec .none .none tagsFloat)
  | 0x4A => some (rform .pred .vec .vec .none tagsFloat)
  | 0x4B => some (rform .vec .vec .none .none tagsFloat)
  | 0x4C => some (rform .vec .vec .vec (if x % 2 = 1 then .vec else .none) [12, 13, 14] true)
  | 0x4D => some (rform .vec .vec .vec (if x % 2 = 1 then .vec else .none) [13, 14] true)
  | 0x4E => some (rform .vec .vec .vec .none tagsFloat true)
  | 0x4F => some (rform .vec .vec .none .none tagsFloat true)
  | 0x60 => some (rform .vec .vec .none .none tagsFloat true)
  | 0x61 => some (rform .vec .vec .none .none tagsInt true)
  | 0x62 => some (rform .vec .vec .none .none tagsFloat true)
  | 0x63 => some (rform .vec .vec .vec .none [15])
  | 0x64 => some (rform .vec .vec .none .none [9, 10] true)
  | 0x70 => some (rform .vec .vec .none .none tagsFloat true)
  | 0x71 => some (rform .vec .vec .none .none tagsFloat true)
  | 0x72 => some (rform .vec .vec .none .none tagsFloat true)
  | 0x73 => some (rform .vec .vec .vec .none tagsFloat true)
  | 0x74 => some (rform .vec .vec .none .none tagsFloat true)
  | 0x75 => some (rform .vec .vec .none .none tagsFloat true)
  | 0x76 => some (rform .vec .vec .none .none tagsFloat true)
  | 0x77 => some (rform .vec .vec .none .none tagsFloat true)
  | 0x78 => some (rform .vec .vec .none .none tagsFloat true)
  | 0x80 => some (pform .vec .vec .vec .none tagsMove)
  | 0x81 => some (pform .vec .vec .num .none tagsMove)
  | 0x82 => some (pform .vec .pred .none .none [0])
  | 0x83 => some (pform .pred .pred .none .none [0])
  | 0x84 => some (pform .vec .vec .none .none [0])
  | 0x85 => some (pform .vec .vec .none .none tagsSpan)
  | 0x86 => some (pform .vec .vec .none .none tagsSpan)
  | 0x87 => some (pform .vec .vec .none .none tagsSpan)
  | 0x88 => some (pform .vec .vec .none .none tagsSpan)
  | 0xA0 => some (xform .mat .vec .none .none)
  | 0xA1 => some (xform .mat .mat .mat .none)
  | 0xA2 => some (xform .mat .mat .mat .none)
  | 0xA3 => some (xform .mat .mat .mat .mat)
  | 0xA4 => some (xform .mat .mat .none .none)
  | 0xA5 => some (xform .mvec .mat .mvec .none)
  | 0xA6 => some (xform .mat .mat .pred .none)
  | 0xA7 => some (xform .mat .mat .vec .pred)
  | 0xA8 => some (xform .mvec .mat .mvec (if x / 8 % 4 = 1 then .vec else .none))
  | 0xC0 => some (pform .pred .none .none .none)
  | 0xC1 => some (pform .none .none .none .none)
  | 0xC2 => some (pform .none .vec .none .none)
  | 0xC3 => some (pform (ctlOpnd x) (spadOrCap x 2) (spadOrCap x 3) .vec)
  | 0xC4 => some (pform (ctlOpnd x) (spadOrCap x 2) (spadOrCap x 3) .pair)
  | 0xC5 => some (pform (ctlOpnd x) (spadOrCap x 2) (spadOrCap x 3) .pair)
  | 0xC6 => some (pform (ctlOpnd x) (spadOrCap x 2) (spadOrCap x 3) .vec)
  | 0xC7 => some (pform .none .none .none .none)
  | 0xC8 => some (pform .none .vec .vec .none)
  | 0xC9 => some (if x = 1 then pform .vec .vec .none .none else pform .none .vec .vec .none)
  | 0xCA => some (pform .pair .vec .pred .none)
  | 0xE0 => some (pform .pred .none .none .none)
  | 0xE1 => some (pform .none .none .none .none)
  | 0xE2 => some (pform .none .none .none .none [] true)
  | 0xE3 => some (pform .none .none .none .none [] true)
  | 0xE4 => some (pform .none (if x = 1 then .none else .cap) .vec .none)
  | 0xE5 => some (pform .none .none .none .none)
  | 0xE6 => some (pform .vec .none .none .none)
  | 0xE7 => some (pform .none .vec .none .none)
  | 0xE8 => some (pform .pred .cap .vec .none)
  | 0xE9 => some (pform .none .vec .vec .none)
  | 0xEA => some (pform .none .none .none .none)
  | 0xEB => some (pform .vec .cap .pred .none)
  | 0xEC => some (pform .none .vec .none .none)
  | 0xED => some (pform .none .none .none .none)
  | 0xEE => some (pform (if x % 4 = 2 then .cap else .vec) .num .vec .none)
  | 0xEF => some (pform .none .num .vec (if x % 4 = 2 then .cap else .vec))
  | _ => none

/-- NE of a tag code, 1 for a reserved one. -/
def neOf (t : Nat) : Nat := match Tag.ofCode t with
  | some tg => tg.ne
  | none => 1

/-- Whether a SUB is within the bound of R310 (`keep` false) or R331 (`keep` true) for some source element
count of the list. -/
def subWithin (keep : Bool) (counts : List Nat) (ned sub : Nat) : Bool :=
  counts.any fun nes =>
    if nes ≥ ned then sub < nes / ned else if keep then sub < ned / nes else sub = 0

/-- Whether SUB is defined for a ROUNDED opcode (R278 and the entries). -/
def subOk (op t sub : Nat) : Bool :=
  match op with
  | 0x19 => sub ≤ 5
  | 0x26 => subWithin false [1, 2, 4, 8, 16] (neOf t) sub
  | 0x4A => true
  | 0x4C => sub ≤ 1
  | 0x4D => sub ≤ 1
  | 0x4F => sub ≤ 1
  | 0x60 => subWithin true [1, 2, 4] (neOf t) sub
  | 0x61 => subWithin true [1, 2, 4] (neOf t) sub
  | 0x62 => subWithin true [1, 2, 4, 8] (neOf t) sub
  | 0x63 => subWithin true [1, 2, 4] (neOf t) sub
  | 0x64 => subWithin true [1, 2, 4] (neOf t) sub
  | _ => sub = 0

/-- Whether a tag code is one of the float tags. -/
def floatCode (t : Nat) : Bool := 11 ≤ t ∧ t ≤ 14

/-- Whether OPX is defined for a PLAIN opcode (R278 and the entries). -/
def opxOk (op t x : Nat) : Bool :=
  match op with
  | 0x24 => true
  | 0x25 => x ≤ 1
  | 0x28 => x ≤ 1
  | 0x35 => x ≤ 6
  | 0x36 => x ≤ 3
  | 0x80 => x ≤ 3
  | 0x83 => x ≤ 2
  | 0x85 => x % 8 ≤ 5 ∧ x < 32 ∧ ¬ (floatCode t ∧ x % 8 ≥ 3)
  | 0x86 => x % 8 ≤ 5 ∧ x < 32 ∧ x / 8 % 2 = 0 ∧ ¬ (floatCode t ∧ x % 8 ≥ 3)
  | 0x87 => x = 0 ∨ x = 1 ∨ x = 16 ∨ x = 17
  | 0x88 => x = 0 ∨ x = 1 ∨ x = 16 ∨ x = 17
  | 0xC3 => x < 32
  | 0xC4 => x < 32
  | 0xC5 => x < 32
  | 0xC6 => x < 32
  | 0xC7 => 1 ≤ x ∧ x < 32
  | 0xC9 => x ≤ 1
  | 0xE0 => 1 ≤ x ∧ x ≤ 9
  | 0xE1 => 1 ≤ x ∧ x ≤ 9
  | 0xE4 => x ≤ 1
  | 0xE6 => x ≤ 0x1D
  | 0xE7 => x ≤ 0x1D
  | 0xE9 => x ≤ 3
  | 0xEB => x < 8
  | 0xEC => x ≤ 3
  | 0xEE => x ≤ 3
  | 0xEF => x ≤ 3
  | _ => x = 0

/-- Registers of a lane matrix of order n under a type code (R364): n² under F64, half of it rounded up under
F32x2. -/
def matRegs (t n : Nat) : Nat := if t = 12 then (n * n + 1) / 2 else n * n

/-- Registers of a lane vector of order n (R364). -/
def vecRegs (t n : Nat) : Nat := if t = 12 then (n + 1) / 2 else n

/-- The length of the run an operand names and whether its base must be a multiple of 4 (R282, R364). An order
outside 2 to 6 is judged as order 2. -/
def runOf (k : Opnd) (t n : Nat) : Nat × Bool :=
  let n := if 2 ≤ n ∧ n ≤ 6 then n else 2
  match k with
  | .pair => (2, false)
  | .mat => (matRegs t n, true)
  | .mvec => (vecRegs t n, false)
  | _ => (1, false)

/-- The broken rules of a run of registers (R282, R291). -/
def runViols (field base len : Nat) (aligned : Bool) : List Viol :=
  if base ≥ 320 then [⟨5, field, base⟩]
  else if aligned ∧ base % 4 ≠ 0 then [⟨0x0B, field, base⟩]
  else if base + len > 320 then [⟨0x0B, field, 320⟩]
  else []

/-- The broken rules of one register field of an F- or I-form word (R282). -/
def opndViols (k : Opnd) (field v t n : Nat) : List Viol :=
  match k with
  | .none => if v = 0 then [] else [⟨2, field, 0⟩]
  | .pred => if v < 32 then [] else [⟨2, field, 0⟩]
  | .cap => if v < 32 then [] else [⟨2, field, 0⟩]
  | .num => []
  | k => runViols field v (runOf k t n).1 (runOf k t n).2

/-- The vector registers a field names, with the field (R282): those whose number lies in the file.
(DEDUCED, log entry 88.) -/
def opndRegs (k : Opnd) (field v t n : Nat) : List (Nat × Nat) :=
  match k with
  | .none | .pred | .cap | .num => []
  | k => ((List.range (runOf k t n).1).map fun j => (field, v + j)).filter fun r => r.2 < 320

/-- The broken rules of a guard (R283, R386). -/
def guardViols (g : Nat) (unguarded : Bool) : List Viol :=
  if unguarded then (if g = 0 then [] else [⟨2, 7, 0⟩])
  else if g = 0 then []
  else if g ≥ 64 then []
  else if g ≥ 32 then [⟨8, 7, 0⟩]
  else [⟨2, 7, 0⟩]

/-- The broken rules of the op-specific field (R278, R301, R323, R364). -/
def modViols (f : FForm) (op t x : Nat) : List Viol :=
  match f.layout with
  | .rounded =>
    if (x / 16 ≠ 0 ∧ ¬ f.rounds) ∨ (x / 8 % 2 = 1 ∧ ¬ f.sats) ∨ ¬ subOk op t (x % 8) then [⟨9, 10, 0⟩] else []
  | .matrix =>
    (if x ≥ 32 then [⟨2, 10, 0⟩] else [])
    ++ (if x % 8 < 2 ∨ x % 8 > 6 ∨ (op ≠ 0xA8 ∧ x / 8 % 4 ≠ 0) then [⟨9, 10, 0⟩] else [])
  | .plain =>
    if op = 0xEB ∧ 5 ≤ x % 8 then [⟨4, 10, 0⟩]
    else if opxOk op t x then [] else [⟨9, 10, 0⟩]

/-- The broken rules of a tag field (R291, R301, R322); one that an entry does not use is zero (R274).
(DEDUCED, log entry 88.) -/
def tagViols (tags : List Nat) (t : Nat) : List Viol :=
  if tags.isEmpty then (if t = 0 then [] else [⟨2, 11, 0⟩])
  else if t ≥ 16 then [⟨3, 11, 0⟩] else if tags.contains t then [] else [⟨0x0A, 11, 0⟩]

/-- Values of a numbered field that an entry leaves undefined: the element address of `bcast` (R339) and the
register number of `xget` and `xput` (R408). -/
def numViols (op a b t x : Nat) : List Viol :=
  match op with
  | 0x81 => if t < 16 ∧ b ≥ 32 * neOf t then [⟨9, 3, 0⟩] else []
  | 0xEE =>
    if (x = 0 ∧ a ≥ 320) ∨ (x = 1 ∧ a ≥ 32) ∨ (x = 2 ∧ a ≥ 32) ∨ (x = 3 ∧ a ≥ 4)
    then [⟨9, 2, 0⟩] else []
  | 0xEF =>
    if (x = 0 ∧ a ≥ 320) ∨ (x = 1 ∧ a ≥ 32) ∨ (x = 2 ∧ a ≥ 32) ∨ (x = 3 ∧ a ≠ 1 ∧ a ≠ 2)
    then [⟨9, 2, 0⟩] else []
  | _ => []

/-- The I-form entries (R288, R316 to R320, R386): what d and a name, the rule of the immediate and whether the
guard must be zero. -/
inductive ImmRule where
  | any | zero | low12 | low16 | cond
deriving DecidableEq, Repr

/-- The I-form map: d, a, the immediate's rule, guard zero. The `a` field of `movi` holds six bits of the
immediate (R316). -/
def iForm (op : Nat) : Option (Opnd × Opnd × ImmRule × Bool) :=
  match op with
  | 0x00 => some (.vec, .num, .any, false)
  | 0x01 => some (.vec, .vec, .any, false)
  | 0x02 => some (.vec, .vec, .any, false)
  | 0x03 => some (.vec, .vec, .any, false)
  | 0x04 => some (.vec, .vec, .any, false)
  | 0x05 => some (.pred, .vec, .cond, false)
  | 0x10 => some (.none, .none, .any, false)
  | 0x11 => some (.vec, .none, .any, false)
  | 0x12 => some (.none, .vec, .zero, false)
  | 0x13 => some (.none, .vec, .any, false)
  | 0x14 => some (.vec, .vec, .any, false)
  | 0x15 => some (.none, .none, .zero, true)
  | 0x16 => some (.none, .none, .low12, true)
  | 0x17 => some (.none, .none, .zero, false)
  | 0x18 => some (.none, .none, .any, false)
  | 0x19 => some (.pred, .none, .low16, false)
  | 0x1A => some (.none, .none, .zero, false)
  | 0x1B => some (.none, .none, .zero, false)
  | _ => none

/-- The broken rules of an immediate (R201, R316, R318, R320, R393). (DEDUCED, log entry 88.) -/
def immViols (r : ImmRule) (imm : Nat) : List Viol :=
  match r with
  | .any => []
  | .zero => if imm = 0 then [] else [⟨2, 14, 0⟩]
  | .low12 => if imm < 4096 then [] else [⟨2, 14, 0⟩]
  | .low16 => if imm < 65536 then [] else [⟨2, 14, 0⟩]
  | .cond => if imm / 2 ^ 26 ≤ 5 then [] else [⟨9, 14, 0⟩]

/-- The classes of M-form entries that share their field rules (R281). -/
inductive MemClass where
  | load | spad | atom | atoms | wide | lane | capm | fence | prefetch | cachectl
deriving DecidableEq, Repr

/-- The M-form map (R289). -/
def mClass (op : Nat) : Option MemClass :=
  match op with
  | 0x00 | 0x01 | 0x02 | 0x03 => some .load
  | 0x04 | 0x05 => some .spad
  | 0x10 | 0x11 | 0x12 | 0x13 | 0x14 | 0x15 | 0x16 | 0x17 => some .atom
  | 0x18 | 0x19 | 0x1A | 0x1B | 0x1C | 0x1D => some .atom
  | 0x28 | 0x29 | 0x2A | 0x2B | 0x2C | 0x2D | 0x2E | 0x2F => some .atoms
  | 0x30 | 0x31 => some .wide
  | 0x32 | 0x33 => some .lane
  | 0x34 | 0x35 => some .capm
  | 0x38 => some .fence
  | 0x39 => some .prefetch
  | 0x3A => some .cachectl
  | _ => none

/-- Bits of an access of a size code (R280). -/
def sizeBits (size : Nat) : Nat := 64 / 2 ^ size

/-- Element width of a type code. -/
def widthOf (t : Nat) : Nat := 64 / neOf t

/-- The (type, size) pairs of an arithmetic or bitwise atomic (R351); `k` is the operation number 0 add, 1 min,
2 max, 3 and, 4 or, 5 xor. -/
def atomPairs (k : Nat) : List (Nat × Nat) :=
  let ints := [(3, 1), (4, 1), (1, 0), (2, 0)]
  match k with
  | 0 => ints ++ [(12, 1), (11, 0), (14, 1), (13, 1)]
  | 1 => ints ++ [(12, 1), (11, 0)]
  | 2 => ints ++ [(12, 1), (11, 0)]
  | _ => ints ++ [(0, 0)]

/-- The operation number of an atomic opcode: 0 add, 1 min, 2 max, 3 and, 4 or, 5 xor, 6 xchg, 7 cas (R289). -/
def atomOp (op : Nat) : Nat := op % 8

/-- The broken rules of the type and size of an atomic (R351). -/
def atomTypeViols (op t size : Nat) : List Viol :=
  let t := if t ≥ 16 then 0 else t
  if atomOp op ≥ 6 then
    if size ≤ 1 ∧ widthOf t ≤ sizeBits size then [] else [⟨0x0A, 12, 0⟩]
  else if (atomPairs (atomOp op)).contains (t, size) then []
  else if (atomPairs (atomOp op)).any fun p => p.1 = t then [⟨0x0A, 12, 0⟩]
  else [⟨0x0A, 11, 0⟩]

/-- A field that must be zero. -/
def zeroField (field v : Nat) : List Viol := if v = 0 then [] else [⟨2, field, 0⟩]

/-- The order n an `mld` or `mst` word holds in its index control (R356). -/
def laneOrder (width sgn : Nat) : Nat := width * 2 + sgn

/-- The length of the data run of an M-form word and whether its base must be a multiple of 4. -/
def dataRun (op : Nat) (cl : MemClass) (t width sgn : Nat) : Nat × Bool :=
  match cl with
  | .lane => runOf .mat t (laneOrder width sgn)
  | .atom | .atoms => (if op % 8 = 7 then 2 else 1, false)
  | _ => (1, false)

/-- The broken rules of an M-form word apart from its guard (R280, R281 and the entries of file 15).
(DEDUCED, log entry 88.) -/
def mViols (op : Nat) (cl : MemClass) (data cap index width sgn scale t size off scope : Nat) : List Viol :=
  (if t ≥ 16 then [⟨3, 11, 0⟩] else [])
  ++ (if scope ≥ 5 then [⟨4, 13, 0⟩] else [])
  ++ (match cl with
      | .load => if widthOf t ≤ sizeBits size then [] else [⟨0x0A, 12, 0⟩]
      | .spad => (if widthOf t ≤ sizeBits size then [] else [⟨0x0A, 12, 0⟩])
                 ++ zeroField 6 cap ++ zeroField 13 scope
      | .atom => atomTypeViols op t size
      | .atoms => atomTypeViols op t size ++ zeroField 6 (cap / 2) ++ zeroField 13 scope
                 ++ (if cap % 2 = 1 ∧ atomOp op ≥ 6 then [⟨9, 6, 0⟩] else [])
      | .wide => (if t = 11 ∨ t = 12 then [] else [⟨0x0A, 11, 0⟩])
                 ++ (if size ≤ 1 then [] else [⟨0x0A, 12, 0⟩])
                 ++ (if size = 1 then zeroField 6 cap ++ zeroField 13 scope else [])
      | .lane => (if t = 11 ∨ t = 12 then [] else [⟨0x0A, 11, 0⟩])
                 ++ (if size = 0 then [] else [⟨0x0A, 12, 0⟩])
                 ++ (if 2 ≤ laneOrder width sgn ∧ laneOrder width sgn ≤ 6 then [] else [⟨9, 5, 0⟩])
      | .capm => zeroField 11 t ++ zeroField 12 size
      | .fence => zeroField 11 t ++ zeroField 6 cap ++ zeroField 0 off ++ (if size ≤ 1 then [] else [⟨0x0A, 12, 0⟩])
      | .prefetch => zeroField 11 t ++ zeroField 12 size
      | .cachectl => zeroField 11 t ++ (if size = 3 then [⟨9, 12, 0⟩] else []))
  ++ (if cl = .lane then runViols 5 index 1 false
      else if width ≠ 0 then (if cl = .fence then [⟨2, 5, 0⟩] else runViols 5 index 1 false)
      else if index = 0 ∧ sgn = 0 ∧ scale = 0 then [] else [⟨2, 5, 0⟩])
  ++ (match cl with
      | .fence | .prefetch | .cachectl => zeroField 1 data
      | .capm => if data < 32 then [] else [⟨2, 1, 0⟩]
      | cl => runViols 1 data (dataRun op cl t width sgn).1 (dataRun op cl t width sgn).2)

/-- The vector registers an M-form word names, with their fields. -/
def mRegs (op : Nat) (cl : MemClass) (data index width sgn t : Nat) : List (Nat × Nat) :=
  (match cl with
   | .fence | .prefetch | .cachectl | .capm => []
   | cl => ((List.range (dataRun op cl t width sgn).1).map fun j => (1, data + j)).filter fun r => r.2 < 320)
  ++ (if (cl = .lane ∨ (width ≠ 0 ∧ cl ≠ .fence)) ∧ index < 320 then [(5, index)] else [])

/-- Class A of R285. -/
def pairClassA (op : Nat) : Bool := op ≤ 3 ∨ (6 ≤ op ∧ op ≤ 0x11)

/-- Class B of R285. -/
def pairClassB (op : Nat) : Bool := [0x40, 0x41, 0x42, 0x46, 0x47, 0x48, 0x49].contains op

/-- Rules 1 and 5 of R285 for one half. -/
def halfOk (h : HalfFields) : Bool :=
  if pairClassA h.op then
    h.rnd = 0
    ∧ ((1 ≤ h.t ∧ h.t ≤ 8) ∨ (h.t = 0 ∧ [0x00, 0x0A, 0x0B, 0x0C, 0x0D, 0x0E].contains h.op))
    ∧ (h.op ≠ 0 ∨ h.t = 0)
    ∧ (h.sat = 0 ∨ ((h.op = 1 ∨ h.op = 2 ∨ h.op = 3) ∧ 1 ≤ h.t ∧ h.t ≤ 8))
  else if pairClassB h.op then h.sat = 0 ∧ 11 ≤ h.t ∧ h.t ≤ 14
  else false

/-- The broken pairing rules of a P-form word (R285). (DEDUCED, log entry 88.) -/
def pairViols (h0 h1 : HalfFields) : List Viol :=
  (if halfOk h0 then [] else [⟨7, 8, 0⟩])
  ++ (if halfOk h1 then [] else [⟨7, 9, 0⟩])
  ++ (if h0.d % 4 = h1.d % 4 ∨ h0.a % 4 = h1.a % 4 then [⟨7, 9, 0⟩] else [])
  ++ (if h0.a = h1.d then [⟨7, 8, 0⟩] else [])
  ++ (if h1.a = h0.d then [⟨7, 9, 0⟩] else [])
  ++ (if h0.op = 0x42 ∧ h1.op = 0x42 then [⟨7, 9, 0⟩] else [])

/-- Every broken rule of a word, as R290 lists them. (DEDUCED, log entry 88.) -/
def View.viols : View → List Viol
  | .f op g d a b c t x =>
    match fForm op x with
    | none => guardViols g false ++ [⟨1, 0, 0⟩]
    | some e =>
      guardViols g e.unguarded
      ++ opndViols e.d 1 d t (x % 8) ++ opndViols e.a 2 a t (x % 8)
      ++ opndViols e.b 3 b t (x % 8) ++ opndViols e.c 4 c t (x % 8)
      ++ tagViols e.tags t ++ modViols e op t x ++ numViols op a b t x
  | .i op g d a imm =>
    match iForm op with
    | none => guardViols g false ++ [⟨1, 0, 0⟩]
    | some (kd, ka, r, unguarded) =>
      guardViols g unguarded ++ opndViols kd 1 d 0 0 ++ opndViols ka 2 a 0 0
      ++ (if op = 0 ∧ a ≥ 64 then [⟨2, 2, 0⟩] else []) ++ immViols r imm
  | .m op g data cap index width sgn scale t size off scope =>
    match mClass op with
    | none => guardViols g false ++ [⟨1, 0, 0⟩]
    | some cl => guardViols g false ++ mViols op cl data cap index width sgn scale t size off scope
  | .p h0 h1 => pairViols h0 h1

/-- The vector registers a word names, with the FIELD that names each (for sub-code 0x06 of R291). -/
def View.regs : View → List (Nat × Nat)
  | .f op _ d a b c t x =>
    match fForm op x with
    | none => []
    | some e => opndRegs e.d 1 d t (x % 8) ++ opndRegs e.a 2 a t (x % 8)
                ++ opndRegs e.b 3 b t (x % 8) ++ opndRegs e.c 4 c t (x % 8)
  | .i op _ d a _ =>
    match iForm op with
    | none => []
    | some (kd, ka, _, _) => opndRegs kd 1 d 0 0 ++ opndRegs ka 2 a 0 0
  | .m op _ data _ index width sgn _ t _ _ _ =>
    match mClass op with
    | none => []
    | some cl => mRegs op cl data index width sgn t
  | .p h0 h1 => [(8, h0.d), (8, h0.a), (9, h1.d), (9, h1.a)]

/-- The guard bits of a word; a P-form word has none (R284). -/
def View.guardBits : View → Nat
  | .f _ g .. => g
  | .i _ g .. => g
  | .m _ g .. => g
  | .p .. => 0

/-- The order of R291: the smallest sub-code, then the smallest FIELD, then the lowest REG. (DEDUCED, log entry 88.) -/
def Viol.lt (x y : Viol) : Bool :=
  x.sub < y.sub ∨ (x.sub = y.sub ∧ (x.field < y.field ∨ (x.field = y.field ∧ x.reg < y.reg)))

/-- The broken rule that R291 reports. (DEDUCED, log entry 88.) -/
def leastViol : List Viol → Option Viol
  | [] => none
  | v :: vs => match leastViol vs with
    | none => some v
    | some u => some (if Viol.lt v u then v else u)

/-- The broken rule of sub-code 0x06 for each register at or above an allocation of `n` registers (R58, R282). -/
def allocViols (regs : List (Nat × Nat)) (n : Nat) : List Viol :=
  (regs.filter fun r => r.2 ≥ n).map fun r => ⟨6, r.1, r.2⟩

/-- %trapaux of ILLEGAL (R291). -/
def Viol.aux (v : Viol) : Nat :=
  v.sub + v.field * 2 ^ 8 + (if v.sub = 5 ∨ v.sub = 6 ∨ v.sub = 0x0B then v.reg * 2 ^ 16 else 0)

end Sys2Proof
end

