-- ==== Sys2Proof/WellFormed.lean ====
section
/-!
DEFINITION. Which terms of `Instr` stand for a word of the device: every field within its width, and no rule of
R290 broken. An event has no word and is well formed.
-/

namespace Sys2Proof

/-- A guard names one of the 32 predicates (R283). -/
def Guard.fits : Guard → Bool
  | .always => true
  | .ifTrue p => p < 32
  | .ifFalse p => p < 32

/-- Every field of a ROUNDED word is within its width (R277, R278). -/
def Rounded.fits (w : Rounded) : Bool :=
  w.guard.fits && w.d < 512 && w.a < 512 && w.b < 512 && w.c < 512 && w.sub < 8

/-- Every field of a MATRIX word is within its width (R277, R278). -/
def MatrixW.fits (w : MatrixW) : Bool :=
  w.guard.fits && w.d < 512 && w.a < 512 && w.b < 512 && w.c < 512 && w.mode < 4 && w.n < 8

/-- Every field of a PLAIN word is within its width (R277, R278). -/
def Plain.fits (w : Plain) : Bool :=
  w.guard.fits && w.d < 512 && w.a < 512 && w.b < 512 && w.c < 512 && w.opx < 64

/-- Every field of an I-form word is within its width (R279). -/
def Imm.fits (w : Imm) : Bool := w.guard.fits && w.d < 512 && w.a < 512 && w.imm < 2 ^ 29

/-- Every field of an M-form word is within its width (R280). -/
def MemW.fits (w : MemW) : Bool :=
  w.guard.fits && w.data < 512 && w.cap < 32 && w.index < 512 && w.width < 4 && w.scale < 4 && w.size < 4
  && w.off < 1024

/-- Every field of a half is within its width (R284). -/
def Half.fits (h : Half) : Bool := h.d < 256 && h.a < 256

/-- Every field of a command is within its width (R427). -/
def Command.fits (c : Command) : Bool :=
  c.byte1 < 256 && c.ctx < 65536 && c.upper < 2 ^ 32 && c.w1 < 2 ^ 64 && c.w2 < 2 ^ 64 && c.w3 < 2 ^ 64 && c.w4 < 2 ^ 64
  && c.w5 < 2 ^ 64 && c.w6 < 2 ^ 64 && c.w7 < 2 ^ 64

/-- Every field of an instruction word is within its width; OPX of the two forms of `ecnt` and the size of the
three forms of `cachectl` are the ones that name them (R382, R360). -/
def Instr.fits : Instr → Bool
  | .mov w | .add w | .sub w | .mul w | .mulhi w | .mad w | .min w | .max w | .abs w | .neg w | .and w
  | .or w | .xor w | .not w | .andn w | .shl w | .shr w | .sar w | .rot w | .clz w | .popc w | .brev w
  | .bfx w | .bfi w | .sel w | .cmp w | .cvtI w | .fadd w | .fsub w | .fmul w | .fma w | .fms w
  | .fnma w | .fmin w | .fmax w | .fabs w | .fneg w | .fcmp w | .fclass w | .dot2 w | .dot4 w
  | .fscale w | .frint w | .cvtF w | .cvtFi w | .cvtIf w | .cvtQ w | .cvtM w | .rcp w | .rsqrt w
  | .sqrt w | .div w | .exp2 w | .log2 w | .sin w | .cos w | .tanh w => w.fits
  | .ecntAdd w => w.fits && w.opx == 0
  | .ecntRd w => w.fits && w.opx == 1
  | .pand w | .por w | .pxor w | .pnot w | .pmask w | .pset w | .pack w | .unpack w | .retag w
  | .cmov w | .cincoff w | .csetoff w | .csetbnd w | .candperm w | .cget w | .ctest w | .shfl w
  | .bcast w | .ballot w | .vote w | .matchLanes w | .scan w | .reduce w | .sort w | .rank w | .pacq w
  | .prel w | .ppass w | .cpy w | .cpyg w | .cpym w | .rack w | .qfence w | .lbarm w | .exlook w
  | .rbacq w | .rbrel w | .bar w | .gbar w | .mon w | .mwait w | .getsr w | .setsr w | .launch w
  | .waitc w | .yield w | .fpop w | .cancel w | .brk w | .xget w | .xput w => w.fits
  | .mset w | .madd w | .mmul w | .mmad w | .mtrans w | .mvmul w | .mchol w | .mlu w | .msolve w => w.fits
  | .movi w | .movhi w | .addi w | .andi w | .ori w | .cmpi w | .bra w | .call w | .ret w | .jmpr w
  | .loop w | .reform w | .rgn w | .exit w | .trap w | .assert w | .nop w | .rte w => w.fits
  | .cachectlWb w => w.fits && w.size == 0
  | .cachectlEvict w => w.fits && w.size == 1
  | .cachectlL1drop w => w.fits && w.size == 2
  | .ld w | .ldacq w | .st w | .strel w | .lds w | .sts w | .atomAdd w | .atomMin w | .atomMax w
  | .atomAnd w | .atomOr w | .atomXor w | .atomXchg w | .atomCas w | .redAdd w | .redMin w | .redMax w
  | .redAnd w | .redOr w | .redXor w | .atomsAdd w | .atomsMin w | .atomsMax w | .atomsAnd w
  | .atomsOr w | .atomsXor w | .atomsXchg w | .atomsCas w | .wsum w | .wrd w | .mld w | .mst w
  | .ldcap w | .stcap w | .fence w | .prefetch w => w.fits
  | .movPaired h0 _ h1 | .addPaired h0 _ h1 | .subPaired h0 _ h1 | .mulPaired h0 _ h1
  | .minPaired h0 _ h1 | .maxPaired h0 _ h1 | .absPaired h0 _ h1 | .negPaired h0 _ h1
  | .andPaired h0 _ h1 | .orPaired h0 _ h1 | .xorPaired h0 _ h1 | .notPaired h0 _ h1
  | .andnPaired h0 _ h1 | .shlPaired h0 _ h1 | .shrPaired h0 _ h1 | .sarPaired h0 _ h1
  | .faddPaired h0 _ h1 | .fsubPaired h0 _ h1 | .fmulPaired h0 _ h1 | .fminPaired h0 _ h1
  | .fmaxPaired h0 _ h1 | .fabsPaired h0 _ h1 | .fnegPaired h0 _ h1 => h0.fits && h1.fits
  | .memoryResponse => true
  | .storeBufferPerform => true
  | .commandEnqueue => true
  | .copyUnit => true
  | .commandComplete => true
  | .passJoin => true
  | .cpymPassPost => true
  | .pressGrant => true
  | .passComplete => true
  | .reservationFree => true
  | .watchTrigger => true
  | .mwaitTimeout => true
  | .binAgedDraw => true
  | .slotHeadCheck => true
  | .launchRelease => true
  | .pageReadStart => true
  | .senseDone => true
  | .transferDone => true
  | .correctionDone => true
  | .pageBufferEnter => true
  | .pageDelivery => true
  | .blockPlace => true
  | .placementOverdue => true
  | .blockClearingDone => true
  | .blockFinish => true
  | .waitConditionMet => true
  | .blockSave => true
  | .pinnedWaitLimit => true
  | .trapDelivery => true
  | .faultRecordWrite => true
  | .replicaLockTimeout => true
  | .atsCompletion => true
  | .atsInvalidate => true
  | .hostSnoop => true
  | .bisnp => true
  | .poolRecoveryTimeout => true
  | .poolCompletionTimeout => true
  | .poolViralSignal => true
  | .poolLinkUp => true
  | .portstatWrite => true
  | .swirilLinkDown => true
  | .peerRequest => true
  | .peerResponse => true
  | .ctxload cmd => cmd.fits
  | .objcreate cmd => cmd.fits
  | .objinv cmd => cmd.fits
  | .objinvComplete => true
  | .faultans cmd => cmd.fits
  | .preempt cmd => cmd.fits
  | .preemptComplete => true
  | .resume cmd => cmd.fits
  | .slotbind cmd => cmd.fits
  | .slotunbind cmd => cmd.fits
  | .pgm cmd => cmd.fits
  | .erase cmd => cmd.fits
  | .feedmap cmd => cmd.fits
  | .pgread cmd => cmd.fits
  | .notifyKick => true
  | .catcherKick => true
  | .catcherReplay => true
  | .exresWrite => true
  | .exwridx => true
  | .pendingWrite => true
  | .catchstatWrite => true
  | .feedAppend => true
  | .ageingInterval => true
  | .eventRecordWrite => true
  | .wdkick => true
  | .watchdogTimeout => true
  | .sdcWindowBoundary => true
  | .errlostWrite => true
  | .cecountWrite => true
  | .dbgctlWrite => true
  | .dbgcmdStop => true
  | .dbgcmdResume => true
  | .dbgdataWrite => true
  | .haltComplete => true
  | .traceDrain => true
  | .rrChunkWrite => true
  | .replayGateRelease => true
  | .replayGateTimeout => true
  | .thermalThrottle => true
  | .thermalTrip => true
  | .supplySag => true
  | .clockStepRise => true
  | .powerWindow => true
  | .attctlGo => true
  | .attestDone => true
  | .resetBoot => true
  | .registerWrite => true
  | .hostCxlMemAccess => true
  | .poolLinkExitL0 => true
  | .throttleRelease => true
  | .quadUngateComplete => true
  | .pgmEraseComplete => true

/-- A well-formed instruction: an event, or a word whose fields fit and that breaks no rule of R290. -/
def Instr.wf (i : Instr) : Bool :=
  i.fits && match i.view with
    | none => true
    | some v => v.viols.isEmpty

end Sys2Proof
end

