-- ==== Sys2Proof/Decode.lean ====
section
/-!
DEFINITION. The decoder and the encoder of the 64-bit words (R276 to R290) and of the 64-byte commands (R427, R428).
`decode` is total: a word that is no instruction comes back as its fields, from which the ILLEGAL cause is read.
-/

namespace Sys2Proof

/-- The fields of a word (R276, R277, R279, R280, R284). -/
def View.parse (w : Nat) : View :=
  match w / 2 ^ 62 % 4 with
  | 0 => .f (w / 2 ^ 54 % 256) (w / 2 ^ 47 % 128) (w / 2 ^ 38 % 512) (w / 2 ^ 29 % 512) (w / 2 ^ 20 % 512)
           (w / 2 ^ 11 % 512) (w / 2 ^ 6 % 32) (w % 64)
  | 1 => .p { op := w / 2 ^ 55 % 128, d := w / 2 ^ 47 % 256, a := w / 2 ^ 39 % 256, t := w / 2 ^ 34 % 32,
              rnd := w / 2 ^ 32 % 4, sat := w / 2 ^ 31 % 2 }
            { op := w / 2 ^ 24 % 128, d := w / 2 ^ 16 % 256, a := w / 2 ^ 8 % 256, t := w / 2 ^ 3 % 32,
              rnd := w / 2 % 4, sat := w % 2 }
  | 2 => .i (w / 2 ^ 54 % 256) (w / 2 ^ 47 % 128) (w / 2 ^ 38 % 512) (w / 2 ^ 29 % 512) (w % 2 ^ 29)
  | _ => .m (w / 2 ^ 55 % 128) (w / 2 ^ 48 % 128) (w / 2 ^ 39 % 512) (w / 2 ^ 34 % 32) (w / 2 ^ 25 % 512)
           (w / 2 ^ 23 % 4) (w / 2 ^ 22 % 2) (w / 2 ^ 20 % 4) (w / 2 ^ 15 % 32) (w / 2 ^ 13 % 4)
           (w / 2 ^ 3 % 1024) (w % 8)

/-- The 31 bits of a half (R284). -/
def HalfFields.pack (h : HalfFields) : Nat :=
  h.op * 2 ^ 24 + h.d * 2 ^ 16 + h.a * 2 ^ 8 + h.t * 2 ^ 3 + h.rnd * 2 + h.sat

/-- The word with given fields (R276, R277, R279, R280, R284). -/
def View.pack : View → Nat
  | .f op g d a b c t x =>
    op * 2 ^ 54 + g * 2 ^ 47 + d * 2 ^ 38 + a * 2 ^ 29 + b * 2 ^ 20 + c * 2 ^ 11 + t * 2 ^ 6 + x
  | .p h0 h1 => 2 ^ 62 + h0.pack * 2 ^ 31 + h1.pack
  | .i op g d a imm => 2 * 2 ^ 62 + op * 2 ^ 54 + g * 2 ^ 47 + d * 2 ^ 38 + a * 2 ^ 29 + imm
  | .m op g data cap index width sgn scale t size off scope =>
    3 * 2 ^ 62 + op * 2 ^ 55 + g * 2 ^ 48 + data * 2 ^ 39 + cap * 2 ^ 34 + index * 2 ^ 25 + width * 2 ^ 23
    + sgn * 2 ^ 22 + scale * 2 ^ 20 + t * 2 ^ 15 + size * 2 ^ 13 + off * 2 ^ 3 + scope

/-- The instruction of an F-form opcode (R287). -/
def fBuild (op : Nat) (r : Rounded) (m : MatrixW) (p : Plain) : Option Instr :=
  match op with
  | 0x00 => some (.mov r)
  | 0x01 => some (.add r)
  | 0x02 => some (.sub r)
  | 0x03 => some (.mul r)
  | 0x04 => some (.mulhi r)
  | 0x05 => some (.mad r)
  | 0x06 => some (.min r)
  | 0x07 => some (.max r)
  | 0x08 => some (.abs r)
  | 0x09 => some (.neg r)
  | 0x0A => some (.and r)
  | 0x0B => some (.or r)
  | 0x0C => some (.xor r)
  | 0x0D => some (.not r)
  | 0x0E => some (.andn r)
  | 0x0F => some (.shl r)
  | 0x10 => some (.shr r)
  | 0x11 => some (.sar r)
  | 0x12 => some (.rot r)
  | 0x13 => some (.clz r)
  | 0x14 => some (.popc r)
  | 0x15 => some (.brev r)
  | 0x16 => some (.bfx r)
  | 0x17 => some (.bfi r)
  | 0x18 => some (.sel r)
  | 0x19 => some (.cmp r)
  | 0x26 => some (.cvtI r)
  | 0x40 => some (.fadd r)
  | 0x41 => some (.fsub r)
  | 0x42 => some (.fmul r)
  | 0x43 => some (.fma r)
  | 0x44 => some (.fms r)
  | 0x45 => some (.fnma r)
  | 0x46 => some (.fmin r)
  | 0x47 => some (.fmax r)
  | 0x48 => some (.fabs r)
  | 0x49 => some (.fneg r)
  | 0x4A => some (.fcmp r)
  | 0x4B => some (.fclass r)
  | 0x4C => some (.dot2 r)
  | 0x4D => some (.dot4 r)
  | 0x4E => some (.fscale r)
  | 0x4F => some (.frint r)
  | 0x60 => some (.cvtF r)
  | 0x61 => some (.cvtFi r)
  | 0x62 => some (.cvtIf r)
  | 0x63 => some (.cvtQ r)
  | 0x64 => some (.cvtM r)
  | 0x70 => some (.rcp r)
  | 0x71 => some (.rsqrt r)
  | 0x72 => some (.sqrt r)
  | 0x73 => some (.div r)
  | 0x74 => some (.exp2 r)
  | 0x75 => some (.log2 r)
  | 0x76 => some (.sin r)
  | 0x77 => some (.cos r)
  | 0x78 => some (.tanh r)
  | 0x20 => some (.pand p)
  | 0x21 => some (.por p)
  | 0x22 => some (.pxor p)
  | 0x23 => some (.pnot p)
  | 0x24 => some (.pmask p)
  | 0x25 => some (.pset p)
  | 0x27 => some (.pack p)
  | 0x28 => some (.unpack p)
  | 0x29 => some (.retag p)
  | 0x30 => some (.cmov p)
  | 0x31 => some (.cincoff p)
  | 0x32 => some (.csetoff p)
  | 0x33 => some (.csetbnd p)
  | 0x34 => some (.candperm p)
  | 0x35 => some (.cget p)
  | 0x36 => some (.ctest p)
  | 0x80 => some (.shfl p)
  | 0x81 => some (.bcast p)
  | 0x82 => some (.ballot p)
  | 0x83 => some (.vote p)
  | 0x84 => some (.matchLanes p)
  | 0x85 => some (.scan p)
  | 0x86 => some (.reduce p)
  | 0x87 => some (.sort p)
  | 0x88 => some (.rank p)
  | 0xC0 => some (.pacq p)
  | 0xC1 => some (.prel p)
  | 0xC2 => some (.ppass p)
  | 0xC3 => some (.cpy p)
  | 0xC4 => some (.cpyg p)
  | 0xC5 => some (.cpym p)
  | 0xC6 => some (.rack p)
  | 0xC7 => some (.qfence p)
  | 0xC8 => some (.lbarm p)
  | 0xC9 => some (if p.opx = 1 then .ecntRd p else .ecntAdd p)
  | 0xCA => some (.exlook p)
  | 0xE0 => some (.rbacq p)
  | 0xE1 => some (.rbrel p)
  | 0xE2 => some (.bar p)
  | 0xE3 => some (.gbar p)
  | 0xE4 => some (.mon p)
  | 0xE5 => some (.mwait p)
  | 0xE6 => some (.getsr p)
  | 0xE7 => some (.setsr p)
  | 0xE8 => some (.launch p)
  | 0xE9 => some (.waitc p)
  | 0xEA => some (.yield p)
  | 0xEB => some (.fpop p)
  | 0xEC => some (.cancel p)
  | 0xED => some (.brk p)
  | 0xEE => some (.xget p)
  | 0xEF => some (.xput p)
  | 0xA0 => some (.mset m)
  | 0xA1 => some (.madd m)
  | 0xA2 => some (.mmul m)
  | 0xA3 => some (.mmad m)
  | 0xA4 => some (.mtrans m)
  | 0xA5 => some (.mvmul m)
  | 0xA6 => some (.mchol m)
  | 0xA7 => some (.mlu m)
  | 0xA8 => some (.msolve m)
  | _ => none

/-- The instruction of an I-form opcode (R288). -/
def iBuild (op : Nat) (w : Imm) : Option Instr :=
  match op with
  | 0x00 => some (.movi w)
  | 0x01 => some (.movhi w)
  | 0x02 => some (.addi w)
  | 0x03 => some (.andi w)
  | 0x04 => some (.ori w)
  | 0x05 => some (.cmpi w)
  | 0x10 => some (.bra w)
  | 0x11 => some (.call w)
  | 0x12 => some (.ret w)
  | 0x13 => some (.jmpr w)
  | 0x14 => some (.loop w)
  | 0x15 => some (.reform w)
  | 0x16 => some (.rgn w)
  | 0x17 => some (.exit w)
  | 0x18 => some (.trap w)
  | 0x19 => some (.assert w)
  | 0x1A => some (.nop w)
  | 0x1B => some (.rte w)
  | _ => none

/-- The instruction of an M-form opcode (R289); the size of `cachectl` names its operation (R360). -/
def mBuild (op : Nat) (w : MemW) : Option Instr :=
  match op with
  | 0x00 => some (.ld w)
  | 0x01 => some (.ldacq w)
  | 0x02 => some (.st w)
  | 0x03 => some (.strel w)
  | 0x04 => some (.lds w)
  | 0x05 => some (.sts w)
  | 0x10 => some (.atomAdd w)
  | 0x11 => some (.atomMin w)
  | 0x12 => some (.atomMax w)
  | 0x13 => some (.atomAnd w)
  | 0x14 => some (.atomOr w)
  | 0x15 => some (.atomXor w)
  | 0x16 => some (.atomXchg w)
  | 0x17 => some (.atomCas w)
  | 0x18 => some (.redAdd w)
  | 0x19 => some (.redMin w)
  | 0x1A => some (.redMax w)
  | 0x1B => some (.redAnd w)
  | 0x1C => some (.redOr w)
  | 0x1D => some (.redXor w)
  | 0x28 => some (.atomsAdd w)
  | 0x29 => some (.atomsMin w)
  | 0x2A => some (.atomsMax w)
  | 0x2B => some (.atomsAnd w)
  | 0x2C => some (.atomsOr w)
  | 0x2D => some (.atomsXor w)
  | 0x2E => some (.atomsXchg w)
  | 0x2F => some (.atomsCas w)
  | 0x30 => some (.wsum w)
  | 0x31 => some (.wrd w)
  | 0x32 => some (.mld w)
  | 0x33 => some (.mst w)
  | 0x34 => some (.ldcap w)
  | 0x35 => some (.stcap w)
  | 0x38 => some (.fence w)
  | 0x39 => some (.prefetch w)
  | 0x3A => some (if w.size = 0 then .cachectlWb w else if w.size = 1 then .cachectlEvict w else .cachectlL1drop w)
  | _ => none

/-- The paired instruction whose first half has operation `op0` (R285, R286). -/
def pBuild (op0 : PairOp) (h0 : Half) (op1 : PairOp) (h1 : Half) : Instr :=
  match op0 with
  | .mov => .movPaired h0 op1 h1
  | .add => .addPaired h0 op1 h1
  | .sub => .subPaired h0 op1 h1
  | .mul => .mulPaired h0 op1 h1
  | .min => .minPaired h0 op1 h1
  | .max => .maxPaired h0 op1 h1
  | .abs => .absPaired h0 op1 h1
  | .neg => .negPaired h0 op1 h1
  | .and => .andPaired h0 op1 h1
  | .or => .orPaired h0 op1 h1
  | .xor => .xorPaired h0 op1 h1
  | .not => .notPaired h0 op1 h1
  | .andn => .andnPaired h0 op1 h1
  | .shl => .shlPaired h0 op1 h1
  | .shr => .shrPaired h0 op1 h1
  | .sar => .sarPaired h0 op1 h1
  | .fadd => .faddPaired h0 op1 h1
  | .fsub => .fsubPaired h0 op1 h1
  | .fmul => .fmulPaired h0 op1 h1
  | .fmin => .fminPaired h0 op1 h1
  | .fmax => .fmaxPaired h0 op1 h1
  | .fabs => .fabsPaired h0 op1 h1
  | .fneg => .fnegPaired h0 op1 h1

/-- A half from its fields. -/
def HalfFields.build (h : HalfFields) : Option (PairOp × Half) :=
  match PairOp.ofCode h.op, Tag.ofCode h.t, Rnd.ofCode h.rnd with
  | some op, some t, some r => some (op, { d := h.d, a := h.a, tag := t, rnd := r, sat := h.sat == 1 })
  | _, _, _ => none

/-- The instruction with given fields, where its codes name one. -/
def View.build : View → Option Instr
  | .f op g d a b c t x =>
    match Guard.ofCode g, Tag.ofCode t, Rnd.ofCode (x / 16) with
    | some g, some t, some r =>
      fBuild op { guard := g, d := d, a := a, b := b, c := c, tag := t, rnd := r, sat := x / 8 % 2 == 1, sub := x % 8 }
        { guard := g, d := d, a := a, b := b, c := c, tag := t, mode := x / 8 % 4, n := x % 8 }
        { guard := g, d := d, a := a, b := b, c := c, tag := t, opx := x }
    | _, _, _ => none
  | .i op g d a imm =>
    match Guard.ofCode g with
    | some g => iBuild op { guard := g, d := d, a := a, imm := imm }
    | none => none
  | .m op g data cap index width sgn scale t size off scope =>
    match Guard.ofCode g, Tag.ofCode t, Scope.ofCode scope with
    | some g, some t, some sc =>
      mBuild op { guard := g, data := data, cap := cap, index := index, width := width, sgn := sgn == 1,
                  scale := scale, type := t, size := size, off := off, scope := sc }
    | _, _, _ => none
  | .p h0 h1 =>
    match h0.build, h1.build with
    | some (op0, h0), some (op1, h1) => some (pBuild op0 h0 op1 h1)
    | _, _ => none

/-- The instruction of a 64-bit word, or the fields of a word that is none (R290). -/
def decode (w : Nat) : Except View Instr :=
  let v := View.parse w
  if v.viols.isEmpty then
    match v.build with
    | some i => .ok i
    | none => .error v
  else .error v

/-- The opcode and the operands of a command of the command ring (R427); none for a word or an event. -/
def Instr.command : Instr → Option (Nat × Command)
  | .ctxload c => some (0x01, c)
  | .objcreate c => some (0x02, c)
  | .objinv c => some (0x03, c)
  | .faultans c => some (0x04, c)
  | .preempt c => some (0x05, c)
  | .resume c => some (0x06, c)
  | .slotbind c => some (0x07, c)
  | .slotunbind c => some (0x08, c)
  | .pgm c => some (0x09, c)
  | .erase c => some (0x0A, c)
  | .feedmap c => some (0x0B, c)
  | .pgread c => some (0x0C, c)
  | _ => none

/-- The 64 bytes of a command with an opcode (R427, R428). -/
def Command.pack (op : Nat) (c : Command) : Nat :=
  op + c.byte1 * 2 ^ 8 + c.ctx * 2 ^ 16 + c.upper * 2 ^ 32 + c.w1 * 2 ^ 64 + c.w2 * 2 ^ 128 + c.w3 * 2 ^ 192
  + c.w4 * 2 ^ 256 + c.w5 * 2 ^ 320 + c.w6 * 2 ^ 384 + c.w7 * 2 ^ 448

/-- The word of an instruction, or the 64 bytes of a command (0 for an event, which has none). -/
def encode (i : Instr) : Nat :=
  match i.view, i.command with
  | some v, _ => v.pack
  | none, some (op, c) => c.pack op
  | none, none => 0

/-- The number whose little-endian bytes are given (R4). -/
def bytesToNat : List Byte → Nat
  | [] => 0
  | b :: bs => b.toNat + 256 * bytesToNat bs

/-- The `n` little-endian bytes of a number (R4). -/
def natToBytes : Nat → Nat → List Byte
  | 0, _ => []
  | n + 1, v => BitVec.ofNat 8 v :: natToBytes n (v / 256)

/-- The instruction of the first eight bytes of a list, with the rest; none where fewer than eight stand there. -/
def decodeBytes (bs : List Byte) : Option (Except View Instr × List Byte) :=
  if bs.length < 8 then none else some (decode (bytesToNat (bs.take 8)), bs.drop 8)

/-- The operands of a 64-byte command (R427, R428). -/
def Command.ofNat (w : Nat) : Command :=
  { byte1 := w / 2 ^ 8 % 256, ctx := w / 2 ^ 16 % 65536, upper := w / 2 ^ 32 % 2 ^ 32,
    w1 := w / 2 ^ 64 % 2 ^ 64, w2 := w / 2 ^ 128 % 2 ^ 64, w3 := w / 2 ^ 192 % 2 ^ 64, w4 := w / 2 ^ 256 % 2 ^ 64,
    w5 := w / 2 ^ 320 % 2 ^ 64, w6 := w / 2 ^ 384 % 2 ^ 64, w7 := w / 2 ^ 448 % 2 ^ 64 }

/-- The command of 64 bytes; none for an opcode outside R427, which completes MALFORMED. -/
def decodeCommand (w : Nat) : Option Instr :=
  match w % 256 with
  | 0x01 => some (.ctxload (Command.ofNat w))
  | 0x02 => some (.objcreate (Command.ofNat w))
  | 0x03 => some (.objinv (Command.ofNat w))
  | 0x04 => some (.faultans (Command.ofNat w))
  | 0x05 => some (.preempt (Command.ofNat w))
  | 0x06 => some (.resume (Command.ofNat w))
  | 0x07 => some (.slotbind (Command.ofNat w))
  | 0x08 => some (.slotunbind (Command.ofNat w))
  | 0x09 => some (.pgm (Command.ofNat w))
  | 0x0A => some (.erase (Command.ofNat w))
  | 0x0B => some (.feedmap (Command.ofNat w))
  | 0x0C => some (.pgread (Command.ofNat w))
  | _ => none

/-- The instruction read from a table word: a 64-bit word, or a 64-byte command where the table gives more bits. -/
def decodeTableWord (nbits w : Nat) : Option Instr :=
  if nbits ≤ 64 then
    match decode (w % 2 ^ 64) with
    | .ok i => some i
    | .error _ => none
  else decodeCommand (w % 2 ^ 512)

end Sys2Proof
end

