-- ==== Sys2Proof/Config.lean ====
section
/-!
DEFINITION. What an implementation fixes and the spec leaves open: the free values. None of them has a
body, so nothing can evaluate one or prove a value of it (log entries 4 and 5).
-/

namespace Sys2Proof

/-- What %cycle of a core reads when the machine starts (R400: it counts from that core's own reset, and no two cores can be
compared). (DESIGN CHOICE, log entry 4.) -/
opaque Config.freeStart : Nat → Word

/-- The stage counts of a contact sheet (R453: clocks a request queued, which the model does not follow), as a function
of the counter `State.fresh`. (DESIGN CHOICE, log entry 4.) -/
opaque Config.freeStages : Nat → Word

/-- A byte whose value the spec leaves open: overlapping copies (R147), a row of a poisoned index (R166),
as a function of the counter `State.fresh` and the place of the byte.
(DESIGN CHOICE, log entry 5; DEDUCED, log entry 47.) -/
opaque Config.freeByte : Nat → Nat → Byte

/-- A choice the spec leaves to the device: a hit in an extent cache or in L1 that still holds older data
(R54, R70), as a function of the counter `State.fresh`.
(DESIGN CHOICE, log entries 5 and 6; DEDUCED, log entry 79.) -/
opaque Config.freeChoice : Nat → Bool

/-- The rounding direction of a function value that the model's intervals never separate from a rounding
boundary (R334; log entry 8): operation number, operand and mode. (DESIGN CHOICE, log entry 8.) -/
opaque Config.freeRound : Nat → Nat → Nat → Bool

/-- A 64-bit part of an attestation signature (R473: made with a private key the spec does not give), as a
function of the counter `State.fresh` and the part's number. (DESIGN CHOICE, log entries 5 and 83.) -/
opaque Config.freeSignature : Nat → Nat → Word

end Sys2Proof
end

