-- ==== Sys2Proof/Machine/State.lean ====
section
/-!
DEFINITION. The state of the device as plain data: everything the spec names (INVENTORY.md, '## State'), the
agenda that says which agent moves next (log entry 3), why a step can stop, and the state after reset.
-/

namespace Sys2Proof.Machine

open Sys2Proof

/-- The 64 bits of a vector register with its tag and poison bit (R56). -/
structure VReg where
  val : Word := 0
  tag : Tag := .raw
  psn : Bool := false
deriving DecidableEq, Repr

/-- A capability register: 128 bits, validity tag and poison bit (R9, R56). -/
structure CapReg where
  bits : CapBits := 0
  tag : Bool := false
  psn : Bool := false
deriving DecidableEq, Repr

/-- The code space of a PC: the launch's code capability or the handler code (R177). -/
inductive Space where
  | kernel | handler
deriving DecidableEq, Repr

/-- Where a thread is (R175). `atBar` and `atGbar` are the two ways to be ASLEEP on a barrier (R396); `trapWait`
is a thread whose trap waits for a free save slot (R247); HALTED is `Thread.halted`, which keeps the state below. -/
inductive TState where
  | running | filed | asleep | atBar | atGbar | trapWait | saved | exited
deriving DecidableEq, Repr

/-- A condition of `waitc`, or a dependence of a launch record: level, handle and target (R182, R233). -/
structure WaitCond where
  level : Nat
  handle : Nat
  target : Nat
deriving DecidableEq, Repr

/-- A watch armed by `mon` (R156, R157): a scratch word of a block or a line of memory; whether it has one of the
core's 64 entries, and whether it has triggered. -/
structure Watch where
  scratch : Option Nat
  addr : Nat
  hasEntry : Bool
  triggered : Bool
deriving DecidableEq, Repr

/-- A trap on its way to its handler (R241, R247): cause, pc, %trapaux, for a group-mode trap the masks, and whether the
thread ran pinned when it trapped. -/
structure PendTrap where
  cause : Nat
  pc : Int
  aux : Nat
  tmask : Nat
  gmask : Nat
  pinned : Bool
deriving DecidableEq, Repr

/-- One translated piece of an access (R46): scratch of a block, or memory with its ordering kind (0 SO, 1 RC,
2 UN), cacheability, home die and replica set. `msg` marks a piece that lies at a peer (R107). -/
structure Piece where
  scratch : Option Nat := none
  addr : Nat := 0
  len : Nat := 0
  ord : Nat := 1
  cached : Bool := false
  home : Nat := 0
  repl : Option Nat := none
  peer : Option Nat := none
  ctx : Nat := 0
  obj : Nat := 0
  off : Nat := 0
deriving DecidableEq, Repr

/-- What a commit-class word keeps in a thread between its commit and its performance: numbers and places. -/
structure Kept where
  nums : List Nat := []
  pieces : List Piece := []
deriving DecidableEq, Repr

/-- A thread of a block with all it carries from group to group (R56, R175, R176, R199, R200, R237, R246, R456). -/
structure Thread where
  tid : Nat
  v : List VReg := []
  p : List Bool := []
  c : List CapReg := []
  pc : Int := 0
  space : Space := .kernel
  h : Nat := 1
  emerg : Nat := 0
  st : TState := .filed
  halted : Bool := false
  rdi : Option Nat := none
  desc : List Nat := []
  rgnpc : Int := 0
  inst : Nat := 0
  dirtyV : List Nat := []
  dirtyP : List Nat := []
  dirtyC : List Nat := []
  fpsnap : BitVec 32 := 0
  mssnap : BitVec 32 := 0
  count : Nat := 0
  pinned : Bool := false
  perf : Bool := false
  fpflags : BitVec 32 := 0
  mstat : BitVec 32 := 0
  sf : Bool := false
  cause : Nat := 0
  trappc : Nat := 0
  aux : Nat := 0
  syndrome : Nat := 0
  unit : Nat := 0
  tilexy : Nat := 0
  pass : Bool := false
  handler : Option Nat := none
  pend : Option PendTrap := none
  /-- the word at pc is the `rgn` that follows a performed commit-class word (R215), or has not been fetched yet -/
  bound : Bool := false
  /-- the word after the barrier on which it sleeps is `rgn` (R397) -/
  rgnNext : Bool := false
  waitOn : Option WaitCond := none
  cancels : List (Nat × Nat) := []
  watch : Option Watch := none
  sleptAt : Nat := 0
  /-- sequence numbers of the fault records its own access met (R51), lower offsets first, with the object number of one
  answered with FAIL -/
  faults : List (Nat × Option Nat) := []
  retired : Nat := 0
  shash : Nat := 0
  retSnap : Nat := 0
  hashSnap : Nat := 0
  /-- a commit-class word has committed and still waits to perform itself (R206), with what it keeps -/
  mid : Bool := false
  kept : Kept := {}
deriving DecidableEq, Repr

/-- The states of a block after its launch has left WAITING (R180). -/
inductive BState where
  | pending | clearing | resident | saved | finished
deriving DecidableEq, Repr

/-- What a block save is for: the REASON of R249, and the end by `cancel` (R187), by a context stop (R252) or by
poison (R218), which save nothing. A migration names its target core and the base of the scratch there. -/
inductive SaveFor where
  | preempt | yield | waitc | migrate (core base : Nat) | relocate | poison | cancel | kill
deriving DecidableEq, Repr

/-- A block (R180, R185, R199, R218, R226 to R228). -/
structure Block where
  uid : Nat
  launch : Nat
  ctx : Nat
  blk : Nat
  gang : Nat := 0
  gangRank : Nat := 0
  gangSize : Nat := 1
  core : Nat := 0
  st : BState := .pending
  threads : List Thread := []
  scrBase : Nat := 0
  scrSize : Nat := 0
  scr : List Host.Cell := []
  scrPoison : List Nat := []
  bphase : Nat := 0
  gphase : Nat := 0
  reloc : Bool := false
  failcmd : Nat := 0
  quota : Nat := 0
  /-- the store-buffer entries that overflows of its groups have freed, and the clock in which they did (R83) -/
  freed : Nat × Nat := (0, 0)
  ageSeq : Nat := 0
  ageKey : Nat := 0
  pendSince : Nat := 0
  overdue : Bool := false
  /-- the core, or for a gang the quad, that is held for an overdue candidate (R227) -/
  holds : Option Nat := none
  /-- the cores that blocks leave to make room for an overdue candidate (R227) -/
  awaits : List Nat := []
  page : Nat := 0
  pgno : Nat := 0
  pgstat : Nat := 0
  pgretry : Nat := 0
  arrank : Nat := 0
  arrived : Bool := false
  /-- the channel on which its page was sensed, 64 for a page that was not, and the clock of its arrival (R91) -/
  channel : Nat := 65
  arrivedAt : Nat := 0
  landed : Bool := true
  /-- a save under way, since when (R212), and the save record's slots (R247, R249) -/
  save : Option SaveFor := none
  saveSince : Nat := 0
  slots : List Nat := []
  /-- the conditions a yield on a wait recorded (R233) -/
  waits : List WaitCond := []
  fromQuad : Option Nat := none
  sdc : Option (List Nat × Nat × Nat × Nat) := none
  /-- a debug stop: its REASON, and whether the stop record is written (R450) -/
  halt : Option (Nat × Bool) := none
  haltTid : Nat := 0
  haltLog : Nat × Nat := (0, 0)
  /-- why the block ends: the STATUS of its exit record (R184) -/
  status : Nat := 0
  /-- fault records that its save or its exit record waits on, and the (object, unit) of those answered with FAIL (R184,
  R202) -/
  exitWait : List Nat := []
  lost : List (Nat × Nat) := []
  /-- messages that carry its exit record to a peer (R138) -/
  recSent : List Nat := []
  /-- its save record ends with the counters of R456 -/
  counted : Bool := false
  /-- it has ended and holds nothing of its core any more, and its exit record is still to be written (R390) -/
  vacated : Bool := false
deriving DecidableEq, Repr

/-- The state of an issue group (R178); a group that ENDED is no longer listed. -/
inductive GState where
  | ready | stalled | parked | frozen
deriving DecidableEq, Repr

/-- An issue group (R176, R178, R222, R243). `waits` are the fault records it is parked on, `runner` the thread
that runs the handler of a group-mode trap. -/
structure Group where
  gid : Nat
  blk : Nat
  core : Nat
  part : Nat
  space : Space
  pc : Int
  tids : List Nat
  st : GState := .ready
  formed : Nat := 0
  lastIssue : Nat := 0
  readyAt : Nat := 0
  waits : List Nat := []
  pinnedFault : Bool := false
  faultPc : Int := 0
  runner : Option Nat := none
  /-- it is FROZEN and the word of its runner cannot issue now -/
  stuck : Bool := false
  tmask : Nat := 0
  gmask : Nat := 0
  /-- home lanes of the threads that ran pinned when a group-mode trap froze the group -/
  pmask : Nat := 0
deriving DecidableEq, Repr

/-- A reform bin that holds threads (R177). -/
structure Bin where
  core : Nat
  part : Nat
  idx : Nat
  blk : Nat
  space : Space
  pc : Int
  tids : List Nat
  first : Nat
deriving DecidableEq, Repr

/-- A group whose `rbacq` has failed, by its block, its threads and the clock at which it was formed (R230).
(DESIGN CHOICE, log entry 24.) -/
structure Claim where
  blk : Nat
  tids : List Nat
  formed : Nat
deriving DecidableEq, Repr

/-- The issue selector of a partition and the claimants of its emergency allotment (R230, R231).
(DESIGN CHOICE, log entry 2.) -/
structure Part where
  core : Nat
  part : Nat
  cur : Nat := 0
  run : Nat := 0
  ovd : Bool := false
  claimants : List Claim := []
deriving DecidableEq, Repr

/-- A place a command reads or writes: an object from an offset, with the capability it came through, or scratch
as a 21-bit address of a block (R31, R147). -/
inductive Loc where
  | object (cap : CapReg) (off : Nat)
  | spad (blk : Nat) (addr : Nat)
deriving DecidableEq, Repr

/-- The kinds of asynchronous commands (R142, R147, R170). -/
inductive CmdKind where
  | cpy | cpyg | cpym | rack | ppass | qfence
deriving DecidableEq, Repr

/-- A page that a copy from the cellar has asked for (R94): the object page, its read while one is under way, the outcome
and the non-zero bytes. (DEDUCED, log entry 38.) -/
structure CmdPage where
  page : Nat
  read : Option Nat
  code : Nat := 0
  data : List Host.Cell := []
deriving DecidableEq, Repr

/-- An asynchronous command with its parameters and its progress (R141 to R155, R170 to R173). `queue` is the set of
queues it is in (bits 0 to 3 for q0 to q3, bit 4 for qp), `unit` the next unit of 128 bytes. -/
structure Cmd where
  id : Nat := 0
  core : Nat := 0
  blk : Nat := 0
  /-- the leader that issued it -/
  tid : Nat := 0
  ctx : Nat := 0
  kind : CmdKind
  queue : Nat := 0
  src : Loc := .spad 0 0
  dst : Loc := .spad 0 0
  len : Nat := 0
  rows : Nat := 0
  stride : Nat := 0
  idx : Nat := 0
  experts : Nat := 0
  cbase : Nat := 0
  pdesc : Nat := 0
  lbar : Option Nat := none
  notify : Option Loc := none
  value : Nat := 0
  keepTags : Bool := false
  unit : Nat := 0
  /-- writes to a peer that it has not acknowledged, the bytes to be credited once it has (R107, R144), and whether its notify
  is one of them -/
  acks : List Nat := []
  owed : Nat := 0
  notified : Bool := false
  failed : Bool := false
  done : Bool := false
  credited : Bool := false
  posted : Bool := false
  /-- a `rack` whose parameters are out of range (R171) -/
  invalid : Bool := false
  /-- fault records this command waits on, translation units (object, unit) answered with FAIL, and the pages of a copy
  from the cellar (R94, R145, R149) -/
  waits : List Nat := []
  lost : List (Nat × Nat) := []
  pages : List CmdPage := []
  /-- the pairs a `rack` has read, none for a dropped one (R171) -/
  pairs : List (Option (Nat × Nat)) := []
deriving DecidableEq, Repr

/-- What a store-buffer entry, or a pinned thread's access, does when it is performed (R79, R82); a `wsum` also carries the
operand that SHASH takes (R456). -/
inductive Effect where
  | store (ps : List Piece) (data : Nat)
  | cap (p : Piece) (bits : Nat) (tag : Bool)
  | red (p : Piece) (op : Nat) (t : Tag) (opnd : Nat)
  | wsum (p : Piece) (q : Nat) (opnd : Nat)
  | arm (p : Piece) (expected : Nat)
  | count (idx amount : Nat)
  | release (ps : List Piece) (data : Nat) (scope : Scope)
  | command (c : Cmd)
deriving DecidableEq, Repr

/-- A buffered effect of one lane (R78, R79): the issue it belongs to, its thread and instance, and its place in the
order of commits once committed (R82). `gate` is what a replay holds it for (R457). -/
structure Item where
  id : Nat
  core : Nat
  blk : Nat
  tid : Nat
  gid : Nat
  inst : Nat
  issue : Nat
  committed : Option Nat := none
  gateSince : Nat := 0
  ret : Nat := 0
  hash : Nat := 0
  /-- its data has met an uncorrectable error (R441 code 6) -/
  psn : Bool := false
  /-- the PC of its word, for contact sheets (R453) -/
  pc : Nat := 0
  /-- a replay that stopped leaves it unperformed until its block is resumed (R457) -/
  shut : Bool := false
  /-- messages to a peer that perform it and that the peer has not acknowledged (R107, note 11 of R132) -/
  sent : List Nat := []
  /-- an earlier lane of its word has been performed on its location, and nothing else is before it (R121) -/
  locked : Bool := false
  eff : Effect
deriving DecidableEq, Repr

/-- What an outstanding request returns (R348, R352, R355 to R357). -/
inductive ReqKind where
  | load (d : Nat) (t : Tag) (n : Nat) (acquire : Bool)
  | lane (d : Nat) (t : Tag) (n : Nat)
  | cap (d : Nat) (keepTag : Bool)
  | wide (d : Nat) (t : Tag)
  | atom (d : Nat) (op : Nat) (t : Tag) (n : Nat) (opnd new : Nat)
deriving DecidableEq, Repr

/-- What the access to one piece has returned: bytes, which of them are poisoned, and the tag of its first granule. -/
structure Share where
  bytes : List Byte
  psn : List Bool
  tag : Bool
deriving DecidableEq, Repr

/-- An outstanding request of a thread (R72, R81): the pieces it reads, each an access of its own (R46, R115), the bytes
forwarded from its own stores by place, and a forwarded capability tag. `got` are the pieces that have been performed, by
their place in the list. -/
structure Req where
  id : Nat
  core : Nat
  blk : Nat
  tid : Nat
  gid : Nat
  inst : Nat
  issue : Nat
  kind : ReqKind
  scope : Scope
  pieces : List Piece
  got : List (Nat × Share) := []
  fwd : List (Nat × Byte) := []
  fwdTag : Option Bool := none
  fwdPsn : Bool := false
  /-- the PC of its word, and whether it is sampled for a contact sheet (R453) -/
  pc : Nat := 0
  sheet : Bool := false
  gateSince : Nat := 0
  ret : Nat := 0
  hash : Nat := 0
  /-- a replay that stopped leaves it unperformed until its block is resumed (R457) -/
  shut : Bool := false
  /-- an earlier lane of its word has been performed on its location, and nothing else is before it (R121) -/
  locked : Bool := false
deriving DecidableEq, Repr

/-- A pass posted to a reservation (R163, R164, R168), with its descriptor once granted. -/
structure Pass where
  id : Nat
  blk : Nat
  tid : Nat
  core : Nat
  addr : Nat
  srcFail : Bool := false
  nores : Bool := false
  headAt : Nat := 0
  desc : Option (List Nat) := none
  descBad : Bool := false
deriving DecidableEq, Repr

/-- A reservation of a quad's Press (R160, R161): its owner is the block, or the first block of the gang; `marked` is
the number of the first command after the `prel` that marked it (R376). -/
structure Resv where
  quad : Nat
  idx : Nat
  owner : Nat
  prio : Nat
  marked : Option Nat := none
  passes : List Pass := []
deriving DecidableEq, Repr

/-- Data with one canonical form: bytes by address, strictly rising and none zero; the granules whose tag is set and
the sectors that are poisoned, strictly rising (R22, R62; log entry 1). (DESIGN CHOICE, log entry 1.) -/
structure Mem where
  cells : List Host.Cell := []
  tags : List Nat := []
  poison : List Nat := []
deriving DecidableEq, Repr

/-- A sector an L1 holds (R69, R70): under core, context, object and offset, with the physical sector it came from. -/
structure L1Sector where
  core : Nat
  ctx : Nat
  obj : Nat
  sector : Nat
  phys : Nat
  ord : Nat
  data : List Byte
  tags : Nat
  poison : Bool
deriving DecidableEq, Repr

/-- A line of a home cache with the masks of its filled sectors and of its dirty bytes (R69, R74).
(DESIGN CHOICE, log entry 20.) -/
structure HomeLine where
  die : Nat
  line : Nat
  dirty : Nat
  sectors : Nat := 0
deriving DecidableEq, Repr

/-- A line of a remote-data cache with the mask of its filled sectors (R69, R74). A line of a peer's object (R75) carries
its bytes and the mask of its poisoned sectors, since memory of this device does not hold them; its number is that of
`Piece.addr` / 128. (DESIGN CHOICE, log entry 20; DEDUCED, log entry 66.) -/
structure RemoteLine where
  die : Nat
  line : Nat
  sectors : Nat
  peer : Option Nat := none
  data : List Byte := []
  poison : Nat := 0
deriving DecidableEq, Repr

/-- A copy of a line of this device's memory that a peer holds, by the object and offset it was asked for (R75). -/
structure Lent where
  peer : Nat
  obj : Nat
  off : Nat
  line : Nat
deriving DecidableEq, Repr

/-- An entry of an extent cache (R49): `unit` is a core, or 1,024 + die; the object entry's four dwords and the frame
descriptor, the host frame or the page-map entry, whose index is `frame`. -/
structure Extent where
  unit : Nat
  ctx : Nat
  obj : Nat
  frame : Nat
  entry : List Nat
  desc : Nat
  lost : Bool := false
deriving DecidableEq, Repr

/-- A frame, or a page of the host, that a walk has given an object's offset: `len` bytes at `addr`. It is kept so that a
flush finds the lines of a frame that the object's map no longer names (R53). (DEDUCED, log entry 62.) -/
structure Walked where
  ctx : Nat
  obj : Nat
  off : Nat
  addr : Nat
  len : Nat
deriving DecidableEq, Repr

/-- A translation asked of the host, or a check asked of a peer (R49, R107), with the answer that waits to be used: what
the host is asked for is the address `va` under `pasid`, on behalf of the object entry `entry`; `units` are the extent caches
that a grant fills, and `askers` the groups that wait for the answer, or 2^64 and the number of an agent.
(DEDUCED, log entry 70.) -/
structure Ask where
  id : Nat
  peer : Option Nat
  ctx : Nat
  obj : Nat
  off : Nat
  len : Nat := 0
  write : Bool
  /-- the operation that the host or the peer is to allow, as `AccOp.code` gives it -/
  op : Nat := 0
  pasid : Nat := 0
  va : Nat := 0
  entry : List Nat := []
  units : List Nat := []
  askers : List Nat := []
  /-- 0 outstanding, 1 granted, 2 denied, 3 no translation available, 4 failed at the peer, 5 a translation fault at the
  peer that is not answered, 6 denied by the host where R49 calls it no fault -/
  state : Nat := 0
  /-- the sub-code of a denial, and above it the right bit that is missing -/
  sub : Nat := 0
  /-- the asker is an agent of the device, which a granted check that writes nothing answers with what it reads -/
  agent : Bool := false
  data : Nat := 0
  psn : Bool := false
deriving DecidableEq, Repr

/-- A message this device has sent to a peer (R107); `id` is what an acknowledgement names, 0 where none is awaited.
(DESIGN CHOICE, log entry 65.) -/
structure PeerMsg where
  peer : Nat
  obj : Nat
  off : Nat
  len : Nat
  op : Nat
  data : Nat
  id : Nat := 0
  /-- the die whose remote-data cache takes the line that it asks for, for a `prefetch` (R359) -/
  fill : Option Nat := none
deriving DecidableEq, Repr

/-- A fault record (R51, R52) until it is answered. (DEDUCED, log entry 67.) -/
structure FaultRec where
  seq : Nat
  ctx : Nat
  obj : Nat
  unit : Nat
  off : Nat
  src : Nat
  write : Bool
  host : Bool
  unitNo : Nat
  written : Bool
  /-- the check at a peer that met the fault there: the record stands in the peer's ring, and the peer answers it (R107) -/
  peer : Option Nat := none
  /-- peers whose requests met it, with the object, the offset and the length each asked for: they take its answer (R107) -/
  remote : List (Nat × Nat × Nat × Nat) := []
deriving DecidableEq, Repr

/-- A loaded context descriptor and what the device keeps for the context (R38, R241, R250, R252, R429). SEQ of its first
fault record is 1. (DESIGN CHOICE, log entry 96.) -/
structure Ctx where
  n : Nat
  otb : Nat := 0
  otn : Nat := 1
  binage : Nat := 32
  relimit : Nat := 8
  pinwait : Nat := 16
  placewait : Nat := 14
  noresv : Bool := false
  tmode : Bool := false
  slotsz : Nat := 1
  lowmark : Nat := 0
  saveobj : Nat := 0
  hcode : CapReg := {}
  frbase : Nat := 0
  frlog2 : Nat := 0
  preempted : Bool := false
  /-- the PREEMPT commands that have not completed, by their index -/
  preempts : List Nat := []
  saved : Nat := 0
  frseq : Nat := 1
  lordNext : Nat := 0
deriving DecidableEq, Repr

/-- An object-invalidate under way (R53): the frames of 64 KiB it covers, and the physical lines of 128 bytes that FLUSH has
still to drop. One of the host (`ats`) covers the host pages it names, by context, object and page, and `cmd` is its tag. -/
structure ObjInv where
  id : Nat
  cmd : Nat
  ctx : Nat
  obj : Nat
  first : Nat
  count : Nat
  flush : Bool
  ats : Bool := false
  pages : List (Nat × Nat × Nat) := []
  lines : List Nat := []
deriving DecidableEq, Repr

/-- The progress of a launch (R180, R221, R186). -/
inductive LState where
  | waiting | released | completed
deriving DecidableEq, Repr

/-- A launch with the launch unit's copy of its record: 32 dwords and the tags of its 16 granules (R182, R203). -/
structure Launch where
  id : Nat
  ctx : Nat
  slot : Nat
  prio : Nat
  record : List Nat
  tags : List Bool
  st : LState := .waiting
  seq : Nat := 0
  lord : Nat := 0
  finished : Nat := 0
  ranks : Nat := 0
  nextEntry : Nat := 0
  held : List (Nat × Nat) := []
  /-- entries held on their page-map entry, whose page number has been read (R36) -/
  read : List Nat := []
  invalid : Bool := false
  coresSeen : List Nat := []
  cancelled : Bool := false
deriving DecidableEq, Repr

/-- The stages of a page read (R87). -/
inductive RStage where
  | queued | sensing | sensed | transferred | corrected | buffered
deriving DecidableEq, Repr

/-- A page read (R87 to R92): the physical page, its levels, its stage, its order of arrival at the controller and at
its stage, and who waits for it: entries of launches, commands, or a PGREAD. -/
structure PageRead where
  id : Nat
  page : Nat
  hint : Nat
  level : Nat
  tried : Nat := 1
  stage : RStage := .queued
  order : Nat
  stamp : Nat := 0
  code : Nat := 0
  data : List Host.Cell := []
  users : List Nat := []
  cmds : List Nat := []
  pgread : Option (Nat × Nat) := none
deriving DecidableEq, Repr

/-- A PGM or ERASE under way (R95, R96). -/
structure FlashOp where
  id : Nat
  cmd : Nat
  program : Bool
  target : Nat
  source : Nat
  order : Nat
deriving DecidableEq, Repr

/-- A cellar page that is not erased: its non-zero payload bytes, or unreadable (R95). -/
structure CellarPage where
  page : Nat
  readable : Bool
  data : List Host.Cell
deriving DecidableEq, Repr

/-- A hardware queue slot (R220, R430, R431). -/
structure Slot where
  bound : Bool := false
  queue : Nat := 0
  ctx : Nat := 0
  prio : Nat := 0
  ring : Nat := 0
  log2n : Nat := 0
  head : Nat := 0
  tail : Nat := 0
  eff : Nat := 0
  /-- the ageing intervals for which it has been bound, and the clock since which (R432) -/
  boundFor : Nat := 0
  since : Nat := 0
  launch : Option Nat := none
deriving DecidableEq, Repr

/-- An entry of a completion counter table (R433). -/
structure Counter where
  value : Nat := 0
  owner : Nat := 0
  granted : Bool := false
deriving DecidableEq, Repr

/-- A feed page (R435); `mapped` says that FEEDMAP has bound it to a header. -/
structure Feed where
  page : Nat
  mapped : Bool := true
  ctx : Nat
  obj : Nat
  off : Nat
  stage : List Host.Cell := []
  status : Nat := 0
  appends : Nat := 0
  tail : Nat := 0
deriving DecidableEq, Repr

/-- A debug record that waits in a quad's trace buffer, or in the unit: its dwords from byte 0, D0 [63:32] to be filled
as it drains (R449, R454). `held` names the thread and instance whose commit makes the execution final (R122, R452). -/
structure TraceRec where
  quad : Nat
  words : List Nat
  stop : Bool
  held : Option (Nat × Nat × Nat) := none
deriving DecidableEq, Repr

/-- A chunk of the replay log that is open or waits to be written (R457). (DEDUCED, log entry 35.) -/
structure Chunk where
  ctx : Nat
  obj : Nat
  first : Nat
  closed : Bool
  entries : List (Nat × Nat × Nat × Nat × Nat × Nat)
deriving DecidableEq, Repr

/-- What moves next: time passes, a partition issues the word that its selector chooses (R231), an event
happens, the next command of the command ring is performed, another agent writes memory of the host or of the pool, a
storage error strikes (R441), or an error of a datapath waits for a partition's next word (R444).
(DESIGN CHOICE, log entry 3.) -/
inductive Turn where
  | wait (clocks : Nat)
  | issue (core part : Nat)
  | event (e : Instr) (args : EventArgs)
  | command
  | outsideWrite (addr : Nat) (data : List Byte) (poisoned : Bool)
  | upset (code : Nat) (unit : Nat) (a b : Nat) (corrected : Bool)
  | glitch (lane : Nat) (special : Bool)
deriving DecidableEq, Repr

/-- The schedule: clocks passed, the agenda, the arguments of the present event, the group that issues, an error of a
datapath that the next issue meets (R444), and the counters that number things and feed the free values.
(DESIGN CHOICE, log entry 3.) -/
structure Sched where
  now : Nat := 0
  agenda : List Turn := []
  args : EventArgs := {}
  cur : Nat := 0
  /-- CUR, RUN and OVD of the selector that issues, as they were before -/
  before : Option (Nat × Nat × Bool) := none
  glitch : Option (Nat × Bool) := none
  fresh : Nat := 0
  nextId : Nat := 1
  commits : Nat := 0
deriving DecidableEq, Repr

/-- The units present, fixed at reset (R2, R403, R434): bit masks of cores, quads, cellar channels, dies, HBM stacks,
Swiril links and pool ports. -/
structure Presence where
  cores : Nat
  quads : Nat
  channels : Nat
  dies : Nat
  hbms : Nat
  links : Nat
  ports : Nat
deriving DecidableEq, Repr

/-- The core's storage beside the blocks: caches, translations and what they wait for (R49, R69, R70, R107).
(DESIGN CHOICE, log entry 2.) -/
structure Caches where
  l1 : List L1Sector := []
  home : List HomeLine := []
  rdc : List RemoteLine := []
  lent : List Lent := []
  extents : List Extent := []
  walked : List Walked := []
  asks : List Ask := []
  peerOut : List PeerMsg := []
  replicas : List (List Nat) := List.replicate 64 (List.replicate 8 0)
deriving DecidableEq, Repr

/-- The engines (R141 to R173): commands in their queues, round-robin pointers of the copy engines by quad,
reservations and granted passes, and passes that wait in qp through their commands. (DESIGN CHOICE, log entry 2.) -/
structure Engines where
  cmds : List Cmd := []
  rr : List (Nat × Nat) := []
  resv : List Resv := []
  granted : List Pass := []
deriving DecidableEq, Repr

/-- The cellar and its controller (R85 to R96). -/
structure Cellar where
  pages : List CellarPage := []
  reads : List PageRead := []
  ops : List FlashOp := []
  order : Nat := 0
deriving DecidableEq, Repr

/-- The completion counters, the expert activity counters and the expert residency table (R186, R382, R383, R433):
entries not listed are zero. -/
structure Tables where
  launch : List (Nat × Counter) := []
  graph : List (Nat × Counter) := []
  phase : List (Nat × Counter) := []
  job : List (Nat × Counter) := []
  act : List (Nat × Nat) := []
  exres : List (Nat × Nat × Nat) := []
  exstg0 : Nat := 0
  exstg1 : Nat := 0
deriving DecidableEq, Repr

/-- Queues (R220, R426, R430 to R432): the slots, QMAP entries that name a slot or another value than 0xFFFF, and the
PENDING bits that are set. -/
structure Queues where
  slots : List Slot := List.replicate 64 {}
  qmap : List (Nat × Nat) := []
  pending : List Nat := []
  lseqNext : Nat := 0
deriving DecidableEq, Repr

/-- The host link (R425 to R438): ring registers, events that wait, MSI-X vectors raised, the catcher and the feeds.
(DESIGN CHOICE, log entry 112.) -/
structure HostLink where
  cmdbase : Nat := 0
  cmdlog2 : Nat := 0
  cmdtail : Nat := 0
  cmdhead : Nat := 0
  cplbase : Nat := 0
  qcbbase : Nat := 0
  evbase : Nat := 0
  evlog2 : Nat := 0
  evprod : Nat := 0
  evcons : Nat := 0
  ctxtb : Nat := 0
  events : List (Nat × Nat × Nat) := []
  evseq : Nat := 0
  msix : List Nat := []
  /-- the tags of the invalidation-completion messages sent to the host (R53) -/
  atsDone : List Nat := []
  gated : Bool := false
  catcher : List (Nat × Nat) := []
  ovf : Bool := false
  feeds : List Feed := []
deriving DecidableEq, Repr

/-- The firmware core, its watchdog, boot and attestation (R426, R437, R440, R471 to R473).
(DESIGN CHOICE, log entry 2.) -/
structure Firmware where
  running : Bool := false
  inReset : Bool := true
  wdmin : Nat := 0
  wdmax : Nat := 0
  wdkick : Nat := 0
  wdlast : Nat := 0
  wdresets : Nat := 0
  tcm : List Host.Cell := []
  verified : Bool := false
  failed : Bool := false
  rollback : Bool := false
  minVersion : Nat := 0
  version : Nat := 0
  measurement : Nat := 0
  attbuf : Nat := 0
  attnonce : Nat := 0
  attbusy : Bool := false
  attdone : Bool := false
  attsnap : Nat := 0
deriving DecidableEq, Repr

/-- The error log and the checking registers (R441 to R447): corrected-error counts, fenced cores and quads as bit
masks, and for each unit its mismatch count with the window it was counted in. (DESIGN CHOICE, log entries 111 and 112.) -/
structure Reliab where
  errbase : Nat := 0
  errlog2 : Nat := 0
  errprod : Nat := 0
  errcons : Nat := 0
  errlost : Nat := 0
  errseq : Nat := 0
  sdcwin : Nat := 24
  sdclimit : Nat := 3
  cecount : List (Nat × Nat) := []
  fencedCores : Nat := 0
  fencedPress : Nat := 0
  mismatches : List (Nat × Nat × Nat) := []
deriving DecidableEq, Repr

/-- The debug unit (R448 to R457). (DESIGN CHOICE, log entry 112.) -/
structure Debug where
  dbgctl : Nat := 0
  dbglord : Nat := 0
  dbgsel : Nat := 0
  /-- BLK of the last DBGCMD, which names the block of DBGDATA's thread -/
  dbgblk : Nat := 0
  trbase : Nat := 0
  trlog2 : Nat := 0
  trprod : Nat := 0
  trcons : Nat := 0
  rrbase : Nat := 0
  rrlog2 : Nat := 0
  rrprod : Nat := 0
  rrcons : Nat := 0
  rrobj : List Nat := [0, 0, 0, 0]
  rrwait : Nat := 20
  /-- the first of two accesses to DBGDATA has been made: the low word that it wrote; or it was a read -/
  capHalf : Option Nat := none
  capRead : Bool := false
  seq : Nat := 1
  buffer : List TraceRec := []
  lost : List (Nat × Nat) := []
  chunks : List Chunk := []
  counts : List (Nat × Nat) := []
  replayPos : List (Nat × Nat) := []
  cseq : Nat := 0
  sampled : List (Nat × Nat) := []
deriving DecidableEq, Repr

/-- Power (R464 to R469): CLKSTEP and KMAX as four bits a die, gated quads, throttled dies and whether the module has
tripped; quads being ungated. (DESIGN CHOICE, log entry 2.) -/
structure Power where
  pwrcap : Nat := 1800
  clkstep : Nat := 0x88888888
  kmax : Nat := 0x88888888
  qgate : Nat := 0
  throttled : Nat := 0
  tripped : Bool := false
  ungating : List Nat := []
  /-- the sixteenths of a clock of 1.05 GHz by which the arithmetic clock of each die has advanced since reset (R400, R465) -/
  beats : List Nat := List.replicate 8 0
deriving DecidableEq, Repr

/-- A pool port (R104); `left` says that its link has left L0, at the clock `leftAt`, and may return within the recovery
limit (R101). `lostSegs` are the POOL objects, by context, that no object-invalidate has covered since the loss (R105).
The limits of R101 are in clocks. (DESIGN CHOICE, log entries 2, 97, 106 and 107.) -/
structure Port where
  up : Bool := false
  left : Bool := false
  leftAt : Nat := 0
  recLimit : Nat := 10500000
  cplLimit : Nat := 16800000
  lostSegs : List (Nat × Nat) := []
  lost : Bool := false
  salvfull : Bool := false
  lostlines : Nat := 0
  salvbase : Nat := 0
  salvlen : Nat := 0
  salvhead : Nat := 0
  salvseq : Nat := 0
deriving DecidableEq, Repr

/-- Why the machine stops with a fault. Raised by fixed-function accesses that the spec gives no outcome for. -/
inductive Fault where
  /-- A ring, table or buffer that firmware placed at a physical address no memory of the part has (R43): raised by
  every event that reads or writes such a place. Safe: the spec gives the access no outcome. -/
  | noSuchAddress (addr : Nat)
deriving DecidableEq, Repr

/-- Why a step has no meaning. -/
inductive Refusal where
  /-- No meaning has been written yet for the instruction of this mnemonic: raised by its arm of `exec`. Safe: the step
  stops. -/
  | notModelled (mnemonic : String)
  /-- `exec` was asked for a word while no group is issuing; `step` never asks so. Safe: the step stops. -/
  | noGroup
  /-- An event was put on the agenda whose condition does not hold: the device cannot make that move. Raised by the
  events, with the condition that fails. Safe: the step stops. -/
  | notEnabled (why : String)
deriving DecidableEq, Repr

/-- The whole state: every piece that INVENTORY.md lists, and the model's own fields in `sched`. -/
structure State where
  sched : Sched
  presence : Presence
  mem : Mem
  caches : Caches
  ctxs : List Ctx
  invs : List ObjInv
  launches : List Launch
  blocks : List Block
  groups : List Group
  bins : List Bin
  parts : List Part
  items : List Item
  reqs : List Req
  faults : List FaultRec
  engines : Engines
  cellar : Cellar
  tables : Tables
  queues : Queues
  link : HostLink
  fw : Firmware
  rel : Reliab
  dbg : Debug
  power : Power
  ports : List Port
  linksUp : Nat
  routes : List (Nat × Nat)
deriving DecidableEq, Repr

/-- The full part of R1. (DESIGN CHOICE, log entry 2.) -/
def Presence.full : Presence where
  cores := 2 ^ 1024 - 1
  quads := 2 ^ 256 - 1
  channels := 2 ^ 64 - 1
  dies := 2 ^ 8 - 1
  hbms := 2 ^ 8 - 1
  links := 2 ^ 12 - 1
  ports := 3

/-- The machine right after reset: the values of R426, R433, R443, R448 and R468 where they are given, else the values
of log entries 1 and 2. (DESIGN CHOICE, log entries 1 and 2.) -/
def State.reset : State where
  sched := {}
  presence := Presence.full
  mem := {}
  caches := {}
  ctxs := []
  invs := []
  launches := []
  blocks := []
  groups := []
  bins := []
  parts := []
  items := []
  reqs := []
  faults := []
  engines := {}
  cellar := {}
  tables := {}
  queues := {}
  link := {}
  fw := {}
  rel := {}
  dbg := {}
  power := {}
  ports := [{}, {}]
  linksUp := 2 ^ 12 - 1
  routes := []

end Sys2Proof.Machine
end

