-- ==== Sys2Proof/Machine/Bits.lean ====
section
/-!
DEFINITION. Bit fields, packed elements, sign extension and byte order (R4, R254, R256), and the sorted lists in
which bytes of memory, tags and poison are held.
-/

namespace Sys2Proof.Machine

open Sys2Proof

/-- Bits lo .. lo + n − 1 of a number. -/
def bits (x lo n : Nat) : Nat := x / 2 ^ lo % 2 ^ n

/-- Bit i of a number. -/
def bitAt (x i : Nat) : Bool := x / 2 ^ i % 2 == 1

/-- A number with bit i set. -/
def setBit (x i : Nat) : Nat := if bitAt x i then x else x + 2 ^ i

/-- A number with bit i clear. -/
def clearBit (x i : Nat) : Nat := if bitAt x i then x - 2 ^ i else x

/-- The number of bits set among the lowest n. -/
def popcount : Nat → Nat → Nat
  | 0, _ => 0
  | n + 1, x => x % 2 + popcount n (x / 2)

/-- The value of n bits read as two's complement. -/
def sext (n v : Nat) : Int := if v < 2 ^ (n - 1) then (v : Int) else (v : Int) - (2 ^ n : Nat)

/-- An exact integer modulo 2^w (R256). -/
def wrap (w : Nat) (z : Int) : Nat := (z % ((2 ^ w : Nat) : Int)).toNat

/-- An exact integer clamped to the range of w unsigned or signed bits, as w bits (R256). -/
def clamp (w : Nat) (signed : Bool) (z : Int) : Nat :=
  if signed then
    if z < -((2 ^ (w - 1) : Nat) : Int) then 2 ^ (w - 1)
    else if z ≥ ((2 ^ (w - 1) : Nat) : Int) then 2 ^ (w - 1) - 1 else wrap w z
  else if z < 0 then 0
  else if z ≥ ((2 ^ w : Nat) : Int) then 2 ^ w - 1 else wrap w z

/-- Element i of 64 bits under elements of w bits (R4, R254). -/
def elem (w : Nat) (x : Word) (i : Nat) : Nat := bits x.toNat (w * i) w

/-- The elements of 64 bits under a tag, element 0 first. -/
def elems (t : Tag) (x : Word) : List Nat := (List.range t.ne).map fun i => elem t.width x i

/-- The number whose elements of w bits are given, element 0 lowest. -/
def packNat (w : Nat) : List Nat → Nat
  | [] => 0
  | e :: es => e % 2 ^ w + 2 ^ w * packNat w es

/-- The 64 bits whose elements of w bits are given. -/
def packWord (w : Nat) (es : List Nat) : Word := BitVec.ofNat 64 (packNat w es)

/-- The value of an integer element: signed for the S tags, unsigned otherwise (R303). -/
def intVal (t : Tag) (e : Nat) : Int := if t.isSigned then sext t.width e else (e : Int)

/-- n reduced to 48 bits, as the trap registers hold a code offset (R237). -/
def pc48 (pc : Int) : Nat := wrap 48 pc

/-- The number of the first element of a list that meets a test, from a given number. -/
def findIdxFrom {α : Type} (f : α → Bool) : List α → Nat → Option Nat
  | [], _ => none
  | x :: xs, i => if f x then some i else findIdxFrom f xs (i + 1)


/-- The elements without repeats; of equal ones the last stands. -/
def distinct {α : Type} [BEq α] : List α → List α
  | [] => []
  | x :: xs => if (distinct xs).contains x then distinct xs else x :: distinct xs

/-- The least number of a list, or a default for an empty one. -/
def leastOf (d : Nat) : List Nat → Nat
  | [] => d
  | x :: xs => xs.foldl (fun m y => if y < m then y else m) x

/-! ### Sorted lists -/

/-- The byte a list of cells holds at an address; an unlisted address reads as 0.
(DESIGN CHOICE, log entry 1.) -/
def cellAt (a : Nat) : List Host.Cell → Byte
  | [] => 0
  | (b, v) :: cs => if b = a then v else if b < a then cellAt a cs else 0

/-- A list of cells with one byte set: kept sorted, a zero byte is not listed. -/
def setCell (a : Nat) (v : Byte) : List Host.Cell → List Host.Cell
  | [] => if v = 0 then [] else [(a, v)]
  | (b, u) :: cs =>
    if b < a then (b, u) :: setCell a v cs
    else if b = a then (if v = 0 then cs else (a, v) :: cs)
    else if v = 0 then (b, u) :: cs else (a, v) :: (b, u) :: cs

/-- Cells with a run of bytes set. -/
def setCells (a : Nat) : List Byte → List Host.Cell → List Host.Cell
  | [], cs => cs
  | b :: bs, cs => setCells (a + 1) bs (setCell a b cs)

/-- n bytes of a list of cells from an address. -/
def cellsAt (cs : List Host.Cell) : Nat → Nat → List Byte
  | _, 0 => []
  | a, n + 1 => cellAt a cs :: cellsAt cs (a + 1) n

/-- The canonical form of cells: addresses strictly rising from a bound, no byte zero. -/
def cellsFrom : Nat → List Host.Cell → Bool
  | _, [] => true
  | lo, (a, v) :: cs => decide (lo ≤ a) && (v != 0) && cellsFrom (a + 1) cs

/-- A sorted list of numbers with one more. -/
def insertNat (a : Nat) : List Nat → List Nat
  | [] => [a]
  | b :: bs => if b < a then b :: insertNat a bs else if b = a then b :: bs else a :: b :: bs

/-- A sorted list of numbers without one. -/
def eraseNat (a : Nat) : List Nat → List Nat
  | [] => []
  | b :: bs => if b = a then bs else b :: eraseNat a bs

/-- Numbers strictly rising from a bound. -/
def risingFrom : Nat → List Nat → Bool
  | _, [] => true
  | lo, a :: as => decide (lo ≤ a) && risingFrom (a + 1) as

/-- The numbers lo, lo + 1, .. of a given count. -/
def span (lo n : Nat) : List Nat := (List.range n).map fun i => lo + i

/-- The value listed for a number, or a default. -/
def lookupD {α : Type} (d : α) (k : Nat) : List (Nat × α) → α
  | [] => d
  | (j, v) :: r => if j = k then v else lookupD d k r

/-- A list of numbered values with one of them set, kept sorted by number. -/
def setAt {α : Type} (k : Nat) (v : α) : List (Nat × α) → List (Nat × α)
  | [] => [(k, v)]
  | (j, u) :: r => if j < k then (j, u) :: setAt k v r else if j = k then (k, v) :: r else (k, v) :: (j, u) :: r

end Sys2Proof.Machine
end

