-- ==== Sys2Proof/Machine/Fp.lean ====
section
/-!
DEFINITION. Floating point (R261 to R273, R326, R334): values of codes, one rounding of an exact value, exact sums and
products, division, square roots, conversions, and the correctly rounded elementary functions.
-/

namespace Sys2Proof.Machine

open Sys2Proof

/-- A binary format: exponent bits and fraction bits (R261). -/
structure Fmt where
  ebits : Nat
  mbits : Nat
deriving DecidableEq, Repr

/-- The formats F64, F32, F16 and BF16. -/
def fmt64 : Fmt := ⟨11, 52⟩
def fmt32 : Fmt := ⟨8, 23⟩
def fmt16 : Fmt := ⟨5, 10⟩
def fmtB16 : Fmt := ⟨8, 7⟩

/-- The format of the elements of a float tag (R254). -/
def fmtOf : Tag → Fmt
  | .f64 => fmt64
  | .f32x2 => fmt32
  | .f16x4 => fmt16
  | _ => fmtB16

/-- The exponent bias. -/
def Fmt.bias (f : Fmt) : Nat := 2 ^ (f.ebits - 1) - 1

/-- The code of +∞. -/
def Fmt.infCode (f : Fmt) : Nat := (2 ^ f.ebits - 1) * 2 ^ f.mbits

/-- The weight of the sign bit. -/
def Fmt.signBit (f : Fmt) : Nat := 2 ^ (f.ebits + f.mbits)

/-- The default NaN (R261). -/
def Fmt.nan (f : Fmt) : Nat := f.infCode + 2 ^ (f.mbits - 1)

/-- The exponent of the least significant bit of a subnormal number. -/
def Fmt.qmin (f : Fmt) : Int := 1 - (f.bias : Int) - (f.mbits : Int)

/-- A code with a sign. -/
def Fmt.signed (f : Fmt) (neg : Bool) (mag : Nat) : Nat := if neg then f.signBit + mag else mag

/-- What a code means: a NaN, an infinity, or (−1)^neg · m · 2^e. -/
inductive FV where
  | nan (signalling : Bool)
  | inf (neg : Bool)
  | fin (neg : Bool) (m : Nat) (e : Int)
deriving DecidableEq, Repr

/-- The value of a code (R261, R262: subnormals in full). -/
def Fmt.value (f : Fmt) (c : Nat) : FV :=
  let neg := c / f.signBit % 2 == 1
  let ex := c / 2 ^ f.mbits % 2 ^ f.ebits
  let fr := c % 2 ^ f.mbits
  if ex = 2 ^ f.ebits - 1 then
    if fr = 0 then .inf neg else .nan (fr < 2 ^ (f.mbits - 1))
  else if ex = 0 then .fin neg fr f.qmin
  else .fin neg (2 ^ f.mbits + fr) (f.qmin + (ex - 1 : Nat))

/-- The flags of R265 by bit. -/
def flagIV : Nat := 1
def flagDZ : Nat := 2
def flagOF : Nat := 4
def flagUF : Nat := 8
def flagNX : Nat := 16
def flagRange : Nat := 32
def flagWsumInv : Nat := 64

/-- A result code with the flags it sets. -/
abbrev FRes := Nat × Nat

/-- 2^e of an exponent that is not negative; 1 otherwise. -/
def pow2 (e : Int) : Nat := 2 ^ e.toNat

/-- An overflowing result (R262). -/
def overflowCode (f : Fmt) (r : Rnd) (neg : Bool) : Nat :=
  let up := match r with
    | .rn => true
    | .rz => false
    | .ru => !neg
    | .rd => neg
  f.signed neg (if up then f.infCode else f.infCode - 1)

/-- Whether a magnitude with remainder `rem` of 2·`half` above `mant` rounds away from zero (R262). -/
def roundsUp (r : Rnd) (neg : Bool) (mant rem half : Nat) : Bool :=
  match r with
  | .rn => rem > half || (rem == half && mant % 2 == 1)
  | .rz => false
  | .ru => rem > 0 && !neg
  | .rd => rem > 0 && neg

/-- One rounding of the value (−1)^neg · (m + s) · 2^e to a format, where s is 0, or lies strictly between 0 and 1 when
`sticky` is set; m then has more bits than the format. Tininess is judged after rounding (R262). -/
def roundTo (f : Fmt) (r : Rnd) (neg : Bool) (m : Nat) (e : Int) (sticky : Bool := false) : FRes :=
  if m = 0 ∧ sticky = false then (f.signed neg 0, 0)
  else
    let mm := m * 4 + bit sticky
    let e4 := e - 2
    let top := e4 + (mm.log2 : Int)
    let qn := top - (f.mbits : Int)
    let q := if qn < f.qmin then f.qmin else qn
    let sh := q - e4
    if sh ≤ 0 then
      let code := mm * pow2 (-sh) + (q - f.qmin).toNat * 2 ^ f.mbits
      if code ≥ f.infCode then (overflowCode f r neg, flagOF ||| flagNX) else (f.signed neg code, 0)
    else
      let d := pow2 sh
      let mant := mm / d
      let rem := mm % d
      let mant' := mant + bit (roundsUp r neg mant rem (d / 2))
      let code := mant' + (q - f.qmin).toNat * 2 ^ f.mbits
      let inexact := rem ≠ 0
      if code ≥ f.infCode then (overflowCode f r neg, flagOF ||| flagNX)
      else
        -- tiny: rounded with an unbounded exponent it stays below the least normal number
        let dn := pow2 (qn - e4)
        let un := mm / dn + bit (roundsUp r neg (mm / dn) (mm % dn) (dn / 2))
        let tiny := qn < f.qmin ∧ ¬ (qn + 1 = f.qmin ∧ un = 2 ^ (f.mbits + 1))
        (f.signed neg code, if inexact then (if tiny then flagUF ||| flagNX else flagNX) else 0)

/-- IV for a signalling NaN. -/
def FV.snan : FV → Nat
  | .nan true => flagIV
  | _ => 0

/-- Whether a value is a NaN. -/
def FV.isNan : FV → Bool
  | .nan _ => true
  | _ => false

/-- A value with its sign inverted. -/
def FV.neg : FV → FV
  | .nan s => .nan s
  | .inf n => .inf (!n)
  | .fin n m e => .fin (!n) m e

/-- The exact product of two values with the flags of the multiplication itself (R263, R267, R325). -/
def FV.mul : FV → FV → FV × Nat
  | .nan s, y => (.nan false, (FV.nan s).snan ||| y.snan)
  | x, .nan s => (.nan false, (FV.nan s).snan ||| x.snan)
  | .inf a, .inf b => (.inf (a != b), 0)
  | .inf a, .fin b m _ => if m = 0 then (.nan false, flagIV) else (.inf (a != b), 0)
  | .fin a m _, .inf b => if m = 0 then (.nan false, flagIV) else (.inf (a != b), 0)
  | .fin a m e, .fin b n k => (.fin (a != b) (m * n) (e + k), 0)

/-- The least exponent among finite terms. -/
def minExp : List FV → Int → Int
  | [], d => d
  | .fin _ _ e :: ts, d => minExp ts (if e < d then e else d)
  | _ :: ts, d => minExp ts d

/-- The exact sum of the finite terms in units of 2^q. -/
def sumUnits (q : Int) : List FV → Int
  | [] => 0
  | .fin n m e :: ts =>
    let u : Int := (m * pow2 (e - q) : Nat)
    (if n then -u else u) + sumUnits q ts
  | _ :: ts => sumUnits q ts

/-- Whether every term is a zero of the given sign. -/
def allZeros (neg : Bool) (ts : List FV) : Bool :=
  ts.all fun t => match t with
    | .fin n 0 _ => n == neg
    | _ => false

/-- The exact sum of terms, rounded once, with the zero, infinity and NaN rules of R267. -/
def sumRound (f : Fmt) (r : Rnd) (ts : List FV) : FRes :=
  let fl := ts.foldl (fun a t => a ||| t.snan) 0
  if ts.any FV.isNan then (f.nan, fl)
  else
    let pi := ts.contains (.inf false)
    let ni := ts.contains (.inf true)
    if pi && ni then (f.nan, fl ||| flagIV)
    else if pi then (f.signed false f.infCode, fl)
    else if ni then (f.signed true f.infCode, fl)
    else
      let q := minExp ts 5000
      let z := sumUnits q ts
      if z = 0 then
        let neg := if allZeros false ts then false else if allZeros true ts then true else r == .rd
        (f.signed neg 0, fl)
      else
        let x := roundTo f r (z < 0) z.natAbs q
        (x.1, fl ||| x.2)

/-- x + y (R325). -/
def fpAdd (f : Fmt) (r : Rnd) (x y : Nat) : FRes := sumRound f r [f.value x, f.value y]

/-- x − y (R325). -/
def fpSub (f : Fmt) (r : Rnd) (x y : Nat) : FRes := sumRound f r [f.value x, (f.value y).neg]

/-- A value rounded to a format (R262, R263). -/
def roundFV (f : Fmt) (r : Rnd) : FV → FRes
  | .nan s => (f.nan, (FV.nan s).snan)
  | .inf n => (f.signed n f.infCode, 0)
  | .fin n m e => roundTo f r n m e

/-- x · y (R325). -/
def fpMul (f : Fmt) (r : Rnd) (x y : Nat) : FRes :=
  let p := (f.value x).mul (f.value y)
  let z := roundFV f r p.1
  (z.1, z.2 ||| p.2)

/-- ±(x · y) ± z, rounded once (R325). -/
def fpFma (f : Fmt) (r : Rnd) (negProd negZ : Bool) (x y z : Nat) : FRes :=
  let p := (f.value x).mul (f.value y)
  let t := if negProd then p.1.neg else p.1
  let c := if negZ then (f.value z).neg else f.value z
  let s := sumRound f r [t, c]
  (s.1, s.2 ||| p.2)

/-- The magnitude bits of a code. -/
def Fmt.mag (f : Fmt) (x : Nat) : Nat := x % f.signBit

/-- The sign of a code. -/
def Fmt.isNeg (f : Fmt) (x : Nat) : Bool := x / f.signBit % 2 == 1

/-- Whether a code is a NaN. -/
def Fmt.isNan (f : Fmt) (x : Nat) : Bool := f.mag x > f.infCode

/-- The place of a code in the order −∞ < … < −0 < +0 < … < +∞ < every NaN (R343). -/
def Fmt.orderKey (f : Fmt) (x : Nat) : Int :=
  if f.isNan x then (2 ^ 70 : Nat) else if f.isNeg x then -(f.mag x : Int) - 1 else (f.mag x : Int)

/-- `fmin` and `fmax` (R326). -/
def fpMinMax (f : Fmt) (max : Bool) (x y : Nat) : FRes :=
  let fl := (f.value x).snan ||| (f.value y).snan
  if f.isNan x && f.isNan y then (f.nan, fl)
  else if f.isNan x then (y, fl)
  else if f.isNan y then (x, fl)
  else if (f.orderKey x ≤ f.orderKey y) != max then (x, fl) else (y, fl)

/-- The order of two codes that are no NaN, with −0 equal to +0 (R327). -/
def Fmt.cmpKey (f : Fmt) (x : Nat) : Int := if f.isNeg x then -(f.mag x : Int) else (f.mag x : Int)

/-- One element of `fcmp` (R327): conditions 0 eq, 1 ne, 2 lt, 3 le, 4 gt, 5 ge, 6 un, 7 or. -/
def fpCmp (f : Fmt) (cond x y : Nat) : Bool × Nat :=
  let un := f.isNan x || f.isNan y
  let s := (f.value x).snan ||| (f.value y).snan
  let fl := if 2 ≤ cond ∧ cond ≤ 5 then (if un then flagIV else 0) else s
  let a := f.cmpKey x
  let b := f.cmpKey y
  let res := match cond with
    | 0 => !un && a == b
    | 1 => un || a != b
    | 2 => !un && a < b
    | 3 => !un && a ≤ b
    | 4 => !un && a > b
    | 5 => !un && a ≥ b
    | 6 => un
    | _ => !un
  (res, fl)

/-- One element of `fclass` (R328): exactly one bit set. -/
def fpClass (f : Fmt) (x : Nat) : Nat :=
  let m := f.mag x
  if m > f.infCode then (if bitAt x (f.mbits - 1) then 2 ^ 9 else 2 ^ 8)
  else if f.isNeg x then
    if m = f.infCode then 1 else if m ≥ 2 ^ f.mbits then 2 else if m > 0 then 4 else 8
  else
    if m = f.infCode then 128 else if m ≥ 2 ^ f.mbits then 64 else if m > 0 then 32 else 16

/-- x · 2^n (R329). -/
def fpScale (f : Fmt) (r : Rnd) (x : Nat) (n : Int) : FRes :=
  match f.value x with
  | .nan s => (f.nan, (FV.nan s).snan)
  | .inf _ => (x, 0)
  | .fin neg m e =>
    if m = 0 then (x, 0)
    else
      -- beyond these bounds the result is the same for every n
      let n := if n > 5000 then 5000 else if n < -5000 then -5000 else n
      roundTo f r neg m (e + n)

/-- A magnitude m · 2^e rounded to an integer in a mode, and whether that was inexact. -/
def roundInt (r : Rnd) (neg : Bool) (m : Nat) (e : Int) : Nat × Bool :=
  if 0 ≤ e then (m * pow2 e, false)
  else
    let d := pow2 (-e)
    (m / d + bit (roundsUp r neg (m / d) (m % d) (d / 2)), m % d ≠ 0)

/-- `frint` (R329). -/
def fpRint (f : Fmt) (r : Rnd) (exactFlag : Bool) (x : Nat) : FRes :=
  match f.value x with
  | .nan s => (f.nan, (FV.nan s).snan)
  | .inf _ => (x, 0)
  | .fin neg m e =>
    let k := roundInt r neg m e
    ((roundTo f .rn neg k.1 0).1, if exactFlag && k.2 then flagNX else 0)

/-- A float element converted to an integer range (R264): the result and its flags. -/
def fpToInt (f : Fmt) (r : Rnd) (lo hi : Int) (x : Nat) : Int × Nat :=
  match f.value x with
  | .nan _ => (0, flagIV)
  | .inf neg => (if neg then lo else hi, flagIV)
  | .fin neg m e =>
    let k := roundInt r neg m e
    let z : Int := if neg then -(k.1 : Int) else k.1
    if z < lo then (lo, flagIV) else if z > hi then (hi, flagIV) else (z, if k.2 then flagNX else 0)

/-- An integer converted to a float (R264, R332). -/
def fpFromInt (f : Fmt) (r : Rnd) (z : Int) : FRes := roundTo f r (z < 0) z.natAbs 0

/-- A float element converted to another float format (R263, R332). -/
def fpConvert (src dst : Fmt) (r : Rnd) (x : Nat) : FRes := roundFV dst r (src.value x)

/-! ### Division and roots -/

/-- x / y (R334). -/
def fpDiv (f : Fmt) (r : Rnd) (x y : Nat) : FRes :=
  match f.value x, f.value y with
  | .nan s, b => (f.nan, (FV.nan s).snan ||| b.snan)
  | a, .nan s => (f.nan, (FV.nan s).snan ||| a.snan)
  | .inf _, .inf _ => (f.nan, flagIV)
  | .inf a, .fin b _ _ => (f.signed (a != b) f.infCode, 0)
  | .fin a _ _, .inf b => (f.signed (a != b) 0, 0)
  | .fin a m e, .fin b n k =>
    if n = 0 then
      if m = 0 then (f.nan, flagIV) else (f.signed (a != b) f.infCode, flagDZ)
    else if m = 0 then (f.signed (a != b) 0, 0)
    else
      let num := m * 2 ^ 130
      roundTo f r (a != b) (num / n) (e - k - 130) (num % n ≠ 0)

/-- The integer square root by bits: `k` bits are still to be tried. -/
def isqrtLoop (n : Nat) : Nat → Nat → Nat
  | 0, r => r
  | k + 1, r => let c := r + 2 ^ k; isqrtLoop n k (if c * c ≤ n then c else r)

/-- The integer square root. -/
def isqrt (n : Nat) : Nat := isqrtLoop n (n.log2 / 2 + 1) 0

/-- √x (R334). -/
def fpSqrt (f : Fmt) (r : Rnd) (x : Nat) : FRes :=
  match f.value x with
  | .nan s => (f.nan, (FV.nan s).snan)
  | .inf neg => if neg then (f.nan, flagIV) else (x, 0)
  | .fin neg m e =>
    if m = 0 then (x, 0)
    else if neg then (f.nan, flagIV)
    else
      let m' := if e % 2 = 0 then m else 2 * m
      let e' := if e % 2 = 0 then e else e - 1
      let big := m' * 2 ^ 128
      let s := isqrt big
      roundTo f r false s (e' / 2 - 64) (s * s ≠ big)

/-- 1 / x (R334). -/
def fpRcp (f : Fmt) (r : Rnd) (x : Nat) : FRes :=
  match f.value x with
  | .nan s => (f.nan, (FV.nan s).snan)
  | .inf neg => (f.signed neg 0, 0)
  | .fin neg m e =>
    if m = 0 then (f.signed neg f.infCode, flagDZ)
    else roundTo f r neg (2 ^ 130 / m) (-e - 130) (2 ^ 130 % m ≠ 0)

/-- 1 / √x (R334). -/
def fpRsqrt (f : Fmt) (r : Rnd) (x : Nat) : FRes :=
  match f.value x with
  | .nan s => (f.nan, (FV.nan s).snan)
  | .inf neg => if neg then (f.nan, flagIV) else (f.signed false 0, 0)
  | .fin neg m e =>
    if m = 0 then (f.signed neg f.infCode, flagDZ)
    else if neg then (f.nan, flagIV)
    else
      let m' := if e % 2 = 0 then m else 2 * m
      let e' := if e % 2 = 0 then e else e - 1
      let s := isqrt (2 ^ 256 / m')
      roundTo f r false s (-(e' / 2) - 128) (s * s * m' ≠ 2 ^ 256)

/-! ### Elementary functions

A function value is enclosed between two integers in units of 2^−P, at rising precision, until both ends round to the
same code. Every step below is off by at most a few units of 2^−P, and `slack` covers them all. No value that
reaches this path is a rational number, so no rounding boundary is met exactly. -/

/-- Σ over k of (±1)^k / ((2k + 1) · x^(2k+1)) in units of 1/one, by at most `fuel` terms: arctangent (alternating) or
its hyperbolic twin, of 1/x. -/
def atanInv (alt : Bool) (x2 : Nat) : Nat → Nat → Nat → Bool → Int → Int
  | 0, _, _, _, acc => acc
  | fuel + 1, k, p, neg, acc =>
    if p = 0 then acc
    else atanInv alt x2 fuel (k + 2) (p / x2) (alt && !neg) (if neg then acc - (p / k : Nat) else acc + (p / k : Nat))

/-- ln 2 in units of 2^−P. -/
def ln2Fix (P : Nat) : Nat := (2 * atanInv false 9 (P + 4) 1 (2 ^ (P + 8) / 3) false 0).toNat / 2 ^ 8

/-- π in units of 2^−P. -/
def piFix (P : Nat) : Nat :=
  (16 * atanInv true 25 (P + 4) 1 (2 ^ (P + 8) / 5) false 0
    - 4 * atanInv true 57121 (P + 4) 1 (2 ^ (P + 8) / 239) false 0).toNat / 2 ^ 8

/-- Σ of r^k / k! in units of 2^−P, r in the same units and not negative. -/
def expSeries (P r : Nat) : Nat → Nat → Nat → Nat → Nat
  | 0, _, _, acc => acc
  | fuel + 1, k, t, acc => if t = 0 then acc else expSeries P r fuel (k + 1) (t * r / (2 ^ P * k)) (acc + t)

/-- The alternating series of sine (t = r, k = 1) and cosine (t = 1, k = 0), in units of 2^−P. -/
def sinSeries (P r : Nat) : Nat → Nat → Nat → Bool → Int → Int
  | 0, _, _, _, acc => acc
  | fuel + 1, k, t, neg, acc =>
    if t = 0 then acc
    else sinSeries P r fuel (k + 2) (t * r * r / (2 ^ (2 * P) * ((k + 1) * (k + 2)))) (!neg)
      (if neg then acc - (t : Int) else acc + (t : Int))

/-- Σ of z^(2k+1) / (2k + 1) in units of 2^−P. -/
def atanhSeries (P z2 : Nat) : Nat → Nat → Nat → Nat → Nat
  | 0, _, _, acc => acc
  | fuel + 1, k, t, acc => if t = 0 then acc else atanhSeries P z2 fuel (k + 2) (t * z2 / 2 ^ P) (acc + t / k)

/-- The value m · 2^e in units of 2^−P, rounded down. -/
def fixOf (P m : Nat) (e : Int) : Nat :=
  let s := e + (P : Int)
  if 0 ≤ s then m * pow2 s else m / pow2 (-s)

/-- The elementary functions that need an enclosure. -/
inductive Elem where
  | exp2 | log2 | sin | cos | tanh
deriving DecidableEq, Repr

/-- How far, in units of 2^−P, an enclosure reaches on each side. -/
def slack : Nat := 2 ^ 28

/-- An approximation of the function of (−1)^neg · m · 2^e: sign, units of 2^−P and a further power of two, off by less
than `slack` units. For `exp2` the argument is below 2^17 in magnitude, for `sin` and `cos` at most 2^18, for `tanh`
below 32. (DESIGN CHOICE, log entry 8.) -/
def approx (fn : Elem) (P : Nat) (neg : Bool) (m : Nat) (e : Int) : Bool × Int × Int :=
  match fn with
  | .exp2 =>
    let x : Int := if neg then -(fixOf P m e : Int) else fixOf P m e
    let n := x / (2 ^ P : Nat)
    let f := (x % (2 ^ P : Nat)).toNat
    (false, (expSeries P (f * ln2Fix P / 2 ^ P) (P + 8) 1 (2 ^ P) 0 : Nat), n)
  | .log2 =>
    let k := (m.log2 : Int) + e
    let y := fixOf P m (-(m.log2 : Int))
    let z := (y - 2 ^ P) * 2 ^ P / (y + 2 ^ P)
    let l := 2 * atanhSeries P (z * z / 2 ^ P) (P + 8) 1 z 0 * 2 ^ P / ln2Fix P
    let v := k * (2 ^ P : Nat) + (l : Int)
    (v < 0, (v.natAbs : Int), 0)
  | .sin | .cos =>
    let x := fixOf P m e
    let h := piFix P / 2
    let k := (x + h / 2) / h
    let r : Int := (x : Int) - (k * piFix P / 2 : Nat)
    let q := if fn = .sin then k % 4 else (k + 1) % 4
    let s := if q % 2 = 0 then sinSeries P r.natAbs (P + 8) 1 r.natAbs false 0
             else sinSeries P r.natAbs (P + 8) 0 (2 ^ P) false 0
    let minus := (q % 2 = 0 ∧ r < 0)
    let flip := (decide (q ≥ 2) != decide minus) != (neg && fn == .sin)
    (flip, s, 0)
  | .tanh =>
    let x := 2 * fixOf P m e
    let l := ln2Fix P
    let n := x / l
    let big := expSeries P (x - n * l) (P + 8) 1 (2 ^ P) 0 * 2 ^ n
    (neg, (2 ^ P : Nat) - (2 ^ (2 * P + 1) / (big + 2 ^ P) : Nat), 0)

/-- The correctly rounded function value: the enclosure at precision P, then at twice that, `fuel` times; where none
decides, the free value of log entry 8 does. (DESIGN CHOICE, log entry 8.) -/
def enclose (f : Fmt) (r : Rnd) (fn : Elem) (opNo code : Nat) (neg : Bool) (m : Nat) (e : Int) : Nat → Nat → FRes
  | 0, P =>
    let a := approx fn P neg m e
    let lo := roundTo f r a.1 (a.2.1 - (slack : Int)).toNat (a.2.2 - (P : Int)) true
    let hi := roundTo f r a.1 (a.2.1 + (slack : Int)).toNat (a.2.2 - (P : Int)) true
    if Config.freeRound opNo code (r.code) then hi else lo
  | fuel + 1, P =>
    let a := approx fn P neg m e
    let lo := roundTo f r a.1 (a.2.1 - (slack : Int)).toNat (a.2.2 - (P : Int)) true
    let hi := roundTo f r a.1 (a.2.1 + (slack : Int)).toNat (a.2.2 - (P : Int)) true
    if a.2.1 > 2 ^ 90 ∧ lo = hi then lo else enclose f r fn opNo code neg m e fuel (2 * P)

/-- A value that differs from m · 2^e by less than any rounding can see: a little less, or a little more. -/
def justBelow (f : Fmt) (r : Rnd) (neg : Bool) (m : Nat) (e : Int) : FRes :=
  roundTo f r neg (m * 2 ^ 80 - 1) (e - 80) true
def justAbove (f : Fmt) (r : Rnd) (neg : Bool) (m : Nat) (e : Int) : FRes :=
  roundTo f r neg (m * 2 ^ 80) (e - 80) true

/-- 2^x (R334). (DESIGN CHOICE, log entry 8.) -/
def fpExp2 (f : Fmt) (r : Rnd) (x : Nat) : FRes :=
  match f.value x with
  | .nan s => (f.nan, (FV.nan s).snan)
  | .inf neg => (if neg then f.signed false 0 else f.signed false f.infCode, 0)
  | .fin neg m e =>
    if m = 0 then roundTo f r false 1 0
    else
      let top := (m.log2 : Int) + e
      if top ≥ 16 then
        if neg then roundTo f r false (2 ^ 90) (-20000) true else roundTo f r false 1 20000
      else if (roundInt .rz neg m e).2 = false then
        let k := (roundInt .rz neg m e).1
        roundTo f r false 1 (if neg then -(k : Int) else k)
      else if top < -70 then (if neg then justBelow f r false 1 0 else justAbove f r false 1 0)
      else enclose f r .exp2 0x74 x neg m e 4 192

/-- log₂ x (R334). (DESIGN CHOICE, log entry 8.) -/
def fpLog2 (f : Fmt) (r : Rnd) (x : Nat) : FRes :=
  match f.value x with
  | .nan s => (f.nan, (FV.nan s).snan)
  | .inf neg => if neg then (f.nan, flagIV) else (x, 0)
  | .fin neg m e =>
    if m = 0 then (f.signed true f.infCode, flagDZ)
    else if neg then (f.nan, flagIV)
    else if m = 2 ^ m.log2 then
      let k := (m.log2 : Int) + e
      roundTo f r (k < 0) k.natAbs 0
    else enclose f r .log2 0x75 x false m e 4 256

/-- sin x and cos x (R273, R334, R335). (DESIGN CHOICE, log entry 8.) -/
def fpSinCos (f : Fmt) (r : Rnd) (cos : Bool) (x : Nat) : FRes :=
  match f.value x with
  | .nan s => (f.nan, (FV.nan s).snan)
  | .inf _ => (f.nan, flagIV)
  | .fin neg m e =>
    let top := (m.log2 : Int) + e
    if m = 0 then (if cos then roundTo f r false 1 0 else (x, 0))
    else if top > 18 ∨ (top = 18 ∧ m ≠ 2 ^ m.log2) then (f.nan, flagRange)
    else if top < -30 then (if cos then justBelow f r false 1 0 else justBelow f r neg m e)
    else enclose f r (if cos then .cos else .sin) (if cos then 0x77 else 0x76) x neg m e 4 256

/-- tanh x (R334). (DESIGN CHOICE, log entry 8.) -/
def fpTanh (f : Fmt) (r : Rnd) (x : Nat) : FRes :=
  match f.value x with
  | .nan s => (f.nan, (FV.nan s).snan)
  | .inf neg => roundTo f r neg 1 0
  | .fin neg m e =>
    let top := (m.log2 : Int) + e
    if m = 0 then (x, 0)
    else if top ≥ 5 then justBelow f r neg 1 0
    else if top < -30 then justBelow f r neg m e
    else enclose f r .tanh 0x78 x neg m e 4 256

/-! ### Wide sums and other formats -/

/-- The addend of a `wsum` (R270): none for a rejected one, else q modulo 2^128, with the flags set at issue. -/
def wsumAddend (f : Fmt) (x : Nat) : Option Nat × Nat :=
  match f.value x with
  | .nan _ => (none, flagWsumInv)
  | .inf _ => (none, flagWsumInv)
  | .fin neg m e =>
    let k := roundInt .rn neg m (e + 80)
    let q : Int := if neg then -(k.1 : Int) else k.1
    let big := (m * pow2 (e + 2000)) ≥ 2 ^ 2047
    (some (wrap 128 q), (if k.2 then flagNX else 0) ||| (if big then flagOF else 0))

/-- The value of a wide-sum cell rounded rn to a format (R271). -/
def wsumRead (f : Fmt) (c : Nat) : FRes :=
  let z := sext 128 c
  roundTo f .rn (z < 0) z.natAbs (-80)

/-- The value of an M8 (w = 8) or M4 (w = 4) element (R257). (DEDUCED, log entry 45.) -/
def mValue (w e : Nat) : Int := if bitAt e (w - 1) then -((e % 2 ^ (w - 1) : Nat) : Int) else (e : Int)

/-- The element of w bits with a value of magnitude below 2^(w−1); zero is all zeros (R257). -/
def mCode (w : Nat) (z : Int) : Nat := if z < 0 then 2 ^ (w - 1) + z.natAbs else z.natAbs

/-- One power term of PP8 in units of 2^−6 (R258). -/
def ppTerm (t : Nat) : Int :=
  let k := t % 8
  let m : Int := if k = 7 then 0 else (2 ^ (6 - k) : Nat)
  if t / 8 % 2 = 1 then -m else m

/-- The value of a PP8 element in units of 2^−6 (R258). (DEDUCED, log entry 45.) -/
def ppValue (c : Nat) : Int := ppTerm (c / 16) + ppTerm (c % 16)

/-- The code of 0x00 to 0xFF with a value and the largest |t_a|, among those of a list (R259). -/
def ppSearch (v : Int) : List Nat → Option Nat → Option Nat
  | [], best => best
  | c :: cs, best =>
    let better : Bool := ppValue c == v && match best with
      | none => true
      | some b => (ppTerm (b / 16)).natAbs < (ppTerm (c / 16)).natAbs
    ppSearch v cs (if better then some c else best)

/-- Whether a magnitude in units of 2^−6 is one nonzero term. -/
def ppOneTerm (v : Int) : Option Nat :=
  findIdxFrom (fun k => v.natAbs == 2 ^ (6 - k)) [0, 1, 2, 3, 4, 5, 6] 0

/-- The canonical PP8 code of a representable value (R259). -/
def ppCode (v : Int) : Nat :=
  if v = 0 then 0x77
  else match ppOneTerm v with
    | some k => (if v < 0 then 0x80 else 0) + k * 16 + 7
    | none => (ppSearch v (List.range 256) none).getD 0x77

/-- Whether a magnitude in units of 2^−6 is the value of some PP8 code. -/
def ppRepresentable (n : Nat) : Bool := (List.range 256).any fun c => ppValue c == (n : Int)

/-- The nearest of rising magnitudes to num / den, ties to the smaller. -/
def ppNearest (num den : Nat) : List Nat → Nat → Nat
  | [], best => best
  | n :: ns, best =>
    let d (k : Nat) : Nat := ((k * den : Nat) - (num : Int)).natAbs
    ppNearest num den ns (if d n < d best then n else best)

/-- One element of `cvt.q` (R260): the PP8 code and the flags. -/
def ppConvert (f : Fmt) (x s : Nat) : FRes :=
  match f.value x, f.value s with
  | .nan _, _ => (0x77, flagIV)
  | xv, .fin false (sm + 1) se =>
    match xv with
    | .inf neg => (if neg then 0x88 else 0x00, flagOF ||| flagNX)
    | .fin neg m e =>
      -- |x / s| in units of 2^−6 is num / den
      let k := e - se + 6
      let num := m * pow2 k
      let den := (sm + 1) * pow2 (-k)
      if num > 128 * den then (if neg then 0x88 else 0x00, flagOF ||| flagNX)
      else
        let n := ppNearest num den ((List.range 129).filter ppRepresentable) 0
        (ppCode (if neg then -(n : Int) else n), if n * den = num then 0 else flagNX)
    | .nan _ => (0x77, flagIV)
  | _, _ => (0x77, flagIV)

end Sys2Proof.Machine
end

