-- ==== Sys2Proof/Machine/Mem.lean ====
section
/-!
DEFINITION. Memory by physical address: bytes, one tag per 16-byte granule (R22, R23) and poison per 32-byte sector
(R62). Device physical addresses are those of R43; host memory stands above them (log entry 1).
-/

namespace Sys2Proof.Machine

open Sys2Proof

/-- Where the byte of host physical address a stands in `State.mem`. (DESIGN CHOICE, log entry 1.) -/
def hostKey (a : Nat) : Nat := 2 ^ 80 + a

/-- The form that makes equal memories equal data. -/
def Mem.wf (m : Mem) : Bool := cellsFrom 0 m.cells && risingFrom 0 m.tags && risingFrom 0 m.poison

/-- One byte. (DESIGN CHOICE, log entry 1.) -/
def Mem.byte (m : Mem) (a : Nat) : Byte := cellAt a m.cells

/-- n bytes from an address. -/
def Mem.bytes (m : Mem) (a n : Nat) : List Byte := cellsAt m.cells a n

/-- n bytes from an address as a little-endian number (R4). -/
def Mem.read (m : Mem) (a n : Nat) : Nat := bytesToNat (m.bytes a n)

/-- The sectors or granules of g bytes that n bytes from a touch. -/
def touched (g a n : Nat) : List Nat := if n = 0 then [] else span (a / g) ((a + n - 1) / g - a / g + 1)

/-- The sectors of g bytes that n bytes from a cover whole. -/
def covered (g a n : Nat) : List Nat := (touched g a n).filter fun k => a ≤ k * g && k * g + g ≤ a + n

/-- Whether a byte of the range lies in a poisoned sector (R62). -/
def Mem.poisoned (m : Mem) (a n : Nat) : Bool := (touched 32 a n).any fun k => m.poison.contains k

/-- The tag of the granule that holds an address (R22). -/
def Mem.tagAt (m : Mem) (a : Nat) : Bool := m.tags.contains (a / 16)

/-- Marks sectors poisoned. -/
def Mem.addPoison (m : Mem) (ks : List Nat) : Mem := { m with poison := ks.foldl (fun l k => insertNat k l) m.poison }

/-- Clears the poison of sectors. -/
def Mem.dropPoison (m : Mem) (ks : List Nat) : Mem := { m with poison := ks.foldl (fun l k => eraseNat k l) m.poison }

/-- Clears the tags of granules. -/
def Mem.dropTags (m : Mem) (ks : List Nat) : Mem := { m with tags := ks.foldl (fun l k => eraseNat k l) m.tags }

/-- An ordinary write of bytes (R23, R62): tags of the granules it touches clear, and a poisoned sector it covers whole
is clean again. -/
def Mem.write (m : Mem) (a : Nat) (bs : List Byte) : Mem :=
  let m := { m with cells := setCells a bs m.cells }
  (m.dropTags (touched 16 a bs.length)).dropPoison (covered 32 a bs.length)

/-- A write of a number of n bytes, little-endian. -/
def Mem.store (m : Mem) (a n v : Nat) : Mem := m.write a (natToBytes n v)

/-- A write of one granule with its tag: `stcap`, and the copies of R26 (R22, R25). -/
def Mem.writeTagged (m : Mem) (a : Nat) (bs : List Byte) (tag : Bool) : Mem :=
  let m := m.write a bs
  if tag then { m with tags := insertNat (a / 16) m.tags } else m

end Sys2Proof.Machine
end

