-- ==== Sys2Proof/Machine/Access.lean ====
section
/-!
DEFINITION. Reading and updating the parts of the state: threads, blocks, groups, contexts, launches, registers, and
the numbers of cores, quads and dies (R1, R56, R174).
-/

namespace Sys2Proof.Machine

open Sys2Proof

/-! ### Places (R1, R174) -/

/-- The quad of a core: four cores a quad. -/
def quadOf (core : Nat) : Nat := core / 4

/-- The die of a core: 32 quads a die. -/
def dieOf (core : Nat) : Nat := core / 128

/-- Home lane, partition and block slot of a thread (R174). -/
def laneOf (tid : Nat) : Nat := tid / 8 % 32
def partOf (tid : Nat) : Nat := tid % 8

/-! ### Counters -/

/-- The state with the counter of free values moved on. (DESIGN CHOICE, log entry 5.) -/
def State.tick (s : State) : State := { s with sched := { s.sched with fresh := s.sched.fresh + 1 } }

/-- The state with the counter of numbers moved on; the number used is `s.sched.nextId`.
(DESIGN CHOICE, log entry 5.) -/
def State.bump (s : State) : State := { s with sched := { s.sched with nextId := s.sched.nextId + 1 } }

/-! ### Blocks and threads -/

/-- The block of a number. -/
def State.block? (s : State) (uid : Nat) : Option Block := s.blocks.find? fun b => b.uid == uid

/-- One block changed. -/
def State.updBlock (s : State) (uid : Nat) (f : Block → Block) : State :=
  { s with blocks := s.blocks.map fun b => if b.uid = uid then f b else b }

/-- The thread of an index. -/
def Block.thread? (b : Block) (tid : Nat) : Option Thread := b.threads.find? fun x => x.tid == tid

/-- One thread changed. -/
def Block.updThread (b : Block) (tid : Nat) (f : Thread → Thread) : Block :=
  { b with threads := b.threads.map fun x => if x.tid = tid then f x else x }

/-- Every thread changed. -/
def Block.updThreads (b : Block) (f : Thread → Thread) : Block := { b with threads := b.threads.map f }

/-- The thread of a block and an index. -/
def State.thread? (s : State) (uid tid : Nat) : Option Thread := (s.block? uid).bind fun b => b.thread? tid

/-- One thread of one block changed. -/
def State.updThread (s : State) (uid tid : Nat) (f : Thread → Thread) : State :=
  s.updBlock uid fun b => b.updThread tid f

/-! ### Groups -/

/-- The group of a number. -/
def State.group? (s : State) (gid : Nat) : Option Group := s.groups.find? fun g => g.gid == gid

/-- One group changed. -/
def State.updGroup (s : State) (gid : Nat) (f : Group → Group) : State :=
  { s with groups := s.groups.map fun g => if g.gid = gid then f g else g }

/-- A group that ends (R176). -/
def State.dropGroup (s : State) (gid : Nat) : State := { s with groups := s.groups.filter fun g => g.gid != gid }

/-- The group that holds a thread. -/
def State.groupOf (s : State) (uid tid : Nat) : Option Group :=
  s.groups.find? fun g => g.blk == uid && g.tids.contains tid

/-- Whether any thread of a list of the block runs a handler or is pinned: the group then issues as pinned (R209, R244).
(DEDUCED, log entry 11.) -/
def groupPinned (ths : List Thread) : Bool := ths.any fun x => x.pinned || x.handler.isSome

/-- The threads of a block with given indices, in ascending home lane, which within a group is the order of the
indices' lanes (R176). -/
def Block.members (b : Block) (tids : List Nat) : List Thread := b.threads.filter fun x => tids.contains x.tid

/-- The order of threads by home lane. -/
def insertByLane (x : Thread) : List Thread → List Thread
  | [] => [x]
  | y :: ys => if laneOf x.tid < laneOf y.tid then x :: y :: ys else y :: insertByLane x ys

/-- Threads in ascending home lane. -/
def sortByLane : List Thread → List Thread
  | [] => []
  | x :: xs => insertByLane x (sortByLane xs)

/-! ### Contexts, launches, slots -/

/-- The loaded context of a number. -/
def State.ctx? (s : State) (n : Nat) : Option Ctx := s.ctxs.find? fun c => c.n == n

/-- One context changed. -/
def State.updCtx (s : State) (n : Nat) (f : Ctx → Ctx) : State :=
  { s with ctxs := s.ctxs.map fun c => if c.n = n then f c else c }

/-- The launch of a number. -/
def State.launch? (s : State) (id : Nat) : Option Launch := s.launches.find? fun l => l.id == id

/-- One launch changed. -/
def State.updLaunch (s : State) (id : Nat) (f : Launch → Launch) : State :=
  { s with launches := s.launches.map fun l => if l.id = id then f l else l }

/-- A dword of a launch record (R182). -/
def Launch.dword (l : Launch) (k : Nat) : Nat := l.record.getD k 0

/-- Whether 128 bits are a well-formed capability of an object (R13): only such bits ever carry a set tag. -/
def wellFormedCap (b : Nat) : Bool := bits b 48 16 == 0 && decide (bits b 82 6 ≤ 39) && bits b 96 32 != 0

/-- A capability register from 128 bits that stood outside a register, with their tag: it stays clear where the bits are no
well-formed capability of an object (R13). -/
def capFrom (n : Nat) (tag : Bool) (psn : Bool := false) : CapReg :=
  { bits := BitVec.ofNat 128 n, tag := tag && wellFormedCap n, psn := psn }

/-- The capability slot at a byte offset of a launch record, a multiple of 16 (R182). -/
def Launch.capAt (l : Launch) (off : Nat) : CapReg :=
  capFrom (l.dword (off / 8) + 2 ^ 64 * l.dword (off / 8 + 1)) (l.tags.getD (off / 16) false)

/-- Fields of the launch record (R182). -/
def Launch.paged (l : Launch) : Bool := bitAt (l.dword 0) 0
def Launch.ucskip (l : Launch) : Bool := bitAt (l.dword 0) 1
def Launch.checked (l : Launch) : Bool := bitAt (l.dword 0) 2
def Launch.gangSize (l : Launch) : Nat := bits (l.dword 0) 3 2 + 1
def Launch.nthreads (l : Launch) : Nat := bits (l.dword 0) 16 10 + 1
def Launch.nrb (l : Launch) : Nat := bits (l.dword 0) 32 4
def Launch.scrk (l : Launch) : Nat := bits (l.dword 0) 40 10
def Launch.quota (l : Launch) : Nat := bits (l.dword 0) 50 7 * 32
def Launch.nblk (l : Launch) : Nat := bits (l.dword 1) 0 32

/-- Bytes of scratch of a block of the launch (R64, R188). -/
def Launch.scratchSize (l : Launch) : Nat := l.scrk * 1024 + (if l.paged then 16384 else 0)

/-- The code capability of a thread's code space (R177, R241). -/
def State.codeCap (s : State) (b : Block) : Space → CapReg
  | .kernel => match s.launch? b.launch with
    | some l => l.capAt 48
    | none => {}
  | .handler => match s.ctx? b.ctx with
    | some c => c.hcode
    | none => {}

/-! ### Registers (R56, R58) -/

/-- How many vector registers a thread holds (R58). -/
def Thread.nregs (x : Thread) : Nat := 32 * x.h

/-- A vector register. -/
def Thread.vreg (x : Thread) (n : Nat) : VReg := x.v.getD n {}

/-- A predicate. -/
def Thread.pred (x : Thread) (n : Nat) : Bool := x.p.getD n false

/-- A capability register. -/
def Thread.creg (x : Thread) (n : Nat) : CapReg := x.c.getD n {}

/-- A vector register written: a register beyond those the thread holds does not exist (R56). -/
def Thread.setV (x : Thread) (n : Nat) (r : VReg) : Thread := { x with v := x.v.set n r }

/-- A predicate written. -/
def Thread.setP (x : Thread) (n : Nat) (b : Bool) : Thread := { x with p := x.p.set n b }

/-- A capability register written. -/
def Thread.setC (x : Thread) (n : Nat) (r : CapReg) : Thread := { x with c := x.c.set n r }

/-- A register written by an instruction: it joins DIRTY (R199). -/
def Thread.putV (x : Thread) (n : Nat) (r : VReg) : Thread := { x.setV n r with dirtyV := insertNat n x.dirtyV }
def Thread.putP (x : Thread) (n : Nat) (b : Bool) : Thread := { x.setP n b with dirtyP := insertNat n x.dirtyP }
def Thread.putC (x : Thread) (n : Nat) (r : CapReg) : Thread := { x.setC n r with dirtyC := insertNat n x.dirtyC }

/-- Whether a guard lets the thread act (R283). -/
def Thread.active (x : Thread) : Guard → Bool
  | .always => true
  | .ifTrue p => x.pred p
  | .ifFalse p => !(x.pred p)

/-! ### Capabilities (R9 to R14) -/

def CapReg.nat (c : CapReg) : Nat := c.bits.toNat
def CapReg.cursor (c : CapReg) : Nat := Machine.bits c.nat 0 48
def CapReg.obj (c : CapReg) : Nat := Machine.bits c.nat 96 32
def CapReg.rights (c : CapReg) : Nat := Machine.bits c.nat 88 8
def CapReg.expo (c : CapReg) : Nat := Machine.bits c.nat 82 6
def CapReg.lo (c : CapReg) : Nat := Machine.bits c.nat 73 9
def CapReg.hi (c : CapReg) : Nat := if Machine.bits c.nat 64 9 = 0 then 512 else Machine.bits c.nat 64 9
def CapReg.base (c : CapReg) : Nat := c.lo * 2 ^ c.expo
def CapReg.top (c : CapReg) : Nat := c.hi * 2 ^ c.expo

/-- A capability from its fields (R9). -/
def capOf (obj rights e lo hi cursor : Nat) (tag : Bool) : CapReg :=
  { bits := BitVec.ofNat 128 (obj % 2 ^ 32 * 2 ^ 96 + rights % 256 * 2 ^ 88 + e % 64 * 2 ^ 82 + lo % 512 * 2 ^ 73
      + hi % 512 * 2 ^ 64 + cursor % 2 ^ 48),
    tag := tag }

/-- The check of R14 for n bytes at an offset: the sub-code and the missing right bit of the first test that fails.
`any` is the case of R15 in which one of the rights is enough. -/
def CapReg.check (c : CapReg) (o : Int) (n : Nat) (rights : List Nat) (any : Bool := false) : Option (Nat × Nat) :=
  if c.tag = false then some (1, 0)
  else if Machine.bits c.nat 48 16 ≠ 0 then some (2, 0)
  else if c.expo > 39 then some (3, 0)
  else
    let missing := rights.filter fun r => !(bitAt c.rights (r - 24))
    let lacking := if any then (if missing.length = rights.length then missing else []) else missing
    match lacking with
    | r :: _ => some (4, r)
    | [] => if o < 0 ∨ o < (c.base : Int) ∨ o + (n : Int) > (c.top : Int) then some (5, 0) else none

/-- The bounds that `csetbnd` finds for base b and length len ≥ 1 by rising exponent (R20). -/
def boundsFrom (b len : Nat) : Nat → Nat → Option (Nat × Nat × Nat)
  | 0, _ => none
  | fuel + 1, e =>
    let lo := b / 2 ^ e
    let hi := (b + len + 2 ^ e - 1) / 2 ^ e
    if lo ≤ 511 ∧ hi ≤ 512 then some (e, lo, hi) else boundsFrom b len fuel (e + 1)

/-- `csetbnd` (R20). -/
def CapReg.setBounds (p : CapReg) (b len : Nat) : CapReg :=
  let cleared : CapReg := { bits := BitVec.ofNat 128 (p.nat / 2 ^ 48 * 2 ^ 48 + b % 2 ^ 48) }
  if p.tag = false then cleared
  else if b < p.base ∨ b + len > p.top then cleared
  else if len = 0 then
    { bits := BitVec.ofNat 128 (p.obj * 2 ^ 96 + p.rights * 2 ^ 88 + 2 ^ 73 + 2 ^ 64 + Machine.bits p.nat 48 16 * 2 ^ 48
        + b % 2 ^ 48), tag := true }
  else match boundsFrom b len 40 0 with
    | some (e, lo, hi) =>
      { bits := BitVec.ofNat 128 (p.obj * 2 ^ 96 + p.rights * 2 ^ 88 + e * 2 ^ 82 + lo * 2 ^ 73 + hi % 512 * 2 ^ 64
          + Machine.bits p.nat 48 16 * 2 ^ 48 + b % 2 ^ 48), tag := true }
    | none => cleared

/-! ### Room in a cache (R49, R69) -/

/-- The line that a set of `ways` lines gives up for one that is not in it, by a free number: none where there is room.
(DESIGN CHOICE, log entry 20.) -/
def victim {α : Type} [BEq α] (ways pick : Nat) (new : α) (set : List α) : Option α :=
  if set.contains new || decide (set.length < ways) then none else set[pick % set.length]?

/-- A number the spec leaves to the device: which line of a full set makes room. (DESIGN CHOICE, log entry 20.) -/
def State.pick (s : State) : Nat := (Config.freeByte s.sched.fresh 0).toNat

/-! ### Physical memory (R43) -/

/-- Whether the compute dies have lost their power: the module has tripped, and every context has stopped (R464). -/
def State.powerless (s : State) : Bool := s.power.tripped && s.blocks.all fun b => b.st == .finished

/-- Whether a die is present and has power. -/
def State.diePowered (s : State) (die : Nat) : Bool := decide (die < 8) && bitAt s.presence.dies die && !s.powerless

/-- Whether a frame number names a frame of an HBM stack that is present. -/
def State.hbmFrame (s : State) (pfn : Nat) : Bool :=
  pfn / 2 ^ 20 < 8 && pfn % 2 ^ 20 < 786432 && bitAt s.presence.hbms (pfn / 2 ^ 20)

/-- The pool port of a frame number. -/
def poolPort (pfn : Nat) : Option Nat :=
  if 2 ^ 38 ≤ pfn ∧ pfn < 2 ^ 38 + 2 ^ 37 then some 0
  else if 2 ^ 38 + 2 ^ 37 ≤ pfn ∧ pfn < 2 ^ 39 then some 1 else none

/-- Whether n bytes of HBM from a physical address exist: what the fixed functions of the device may reach.
(DEDUCED, log entry 29.) -/
def State.hbmHas (s : State) (a n : Nat) : Bool := (touched 65536 a n).all fun f => s.hbmFrame f

/-- Whether n bytes from a physical address lie in HBM or in the pools of ports that are present (R43), as a ring may whose register
names no kind of memory. (DEDUCED, log entry 29.) -/
def State.memHas (s : State) (a n : Nat) : Bool :=
  (touched 65536 a n).all fun f => s.hbmFrame f || (poolPort f).any fun p => bitAt s.presence.ports p

/-- Whether some of them lie in a pool whose link is down. (DEDUCED, log entry 29.) -/
def State.poolDown (s : State) (a n : Nat) : Bool :=
  (touched 65536 a n).any fun f => (poolPort f).any fun p => !((s.ports.getD p {}).up)

/-- The launch that names a block's grid. -/
def State.launchOf (s : State) (b : Block) : Option Launch := s.launch? b.launch

end Sys2Proof.Machine
end

