-- ==== Sys2Proof/Machine/Walk.lean ====
section
/-!
DEFINITION. The object table, frame descriptors, extent caches and the walk (R38 to R50, R45, R101, R105, R107).
-/

namespace Sys2Proof.Machine

open Sys2Proof

/-- What an operation asks of the object's kind (R29). -/
inductive OpKind where
  | access | tagged | fetch | copySrc | copyDst
deriving DecidableEq, Repr

/-- An operation as the walk sees it: the rights it needs (R15), whether one is enough, what it asks of the kind, and
whether it needs write. -/
structure AccOp where
  rights : List Nat
  any : Bool := false
  kind : OpKind := .access
  write : Bool := false
deriving DecidableEq, Repr

/-- The operations of R15. -/
def opLoad : AccOp := { rights := [24] }
def opStore : AccOp := { rights := [25], write := true }
def opAtomic : AccOp := { rights := [26], write := true }
def opStcap (tag : Bool) : AccOp :=
  { rights := if tag then [25, 28] else [25], kind := if tag then .tagged else .access, write := true }
def opCachectl : AccOp := { rights := [24, 25], any := true }
def opFetch : AccOp := { rights := [29], kind := .fetch }
def opCopySrc : AccOp := { rights := [30], kind := .copySrc }
def opCopyDst : AccOp := { rights := [31], kind := .copyDst, write := true }

/-- A kind of operation as a number, and back. -/
def OpKind.code : OpKind → Nat
  | .access => 0
  | .tagged => 1
  | .fetch => 2
  | .copySrc => 3
  | .copyDst => 4
def OpKind.ofCode (n : Nat) : OpKind :=
  if n = 1 then .tagged else if n = 2 then .fetch else if n = 3 then .copySrc else if n = 4 then .copyDst else .access

/-- An operation as a number, in which a peer is asked to check it, and back: the rights it needs, whether one is enough,
its kind and whether it writes. (DESIGN CHOICE, log entry 65.) -/
def AccOp.code (op : AccOp) : Nat :=
  op.rights.foldl (fun n r => setBit n (r - 24)) 0 + bit op.any * 2 ^ 8 + op.kind.code * 2 ^ 9 + bit op.write * 2 ^ 12
def AccOp.ofCode (n : Nat) : AccOp :=
  { rights := ((List.range 8).filter fun i => bitAt n i).map fun i => 24 + i, any := bitAt n 8,
    kind := OpKind.ofCode (bits n 9 3), write := bitAt n 12 }

/-- One translation unit that a fault reports (R51); `peer` is the check that met it at a peer (R107).
(DEDUCED, log entry 67.) -/
structure FaultAt where
  ctx : Nat
  obj : Nat
  unit : Nat
  off : Nat
  write : Bool
  host : Bool
  peer : Option Nat := none
deriving DecidableEq, Repr

/-- The outcome of the walk of one piece (R46): a place, a CELLAR object's entry with the map entry of the page, a trap with
cause and %trapaux, a translation fault, a wait for the host or a peer, or a table at an address that does not exist. -/
inductive WalkOut where
  | ok (p : Piece)
  | cellar (entry : List Nat) (map : Nat)
  | trap (cause aux : Nat)
  | tfault (f : FaultAt)
  | wait
  | noMem (addr : Nat)
deriving DecidableEq, Repr

/-- Trap causes (R237). -/
def cIllegal : Nat := 0x01
def cFormat : Nat := 0x02
def cCapability : Nat := 0x03
def cPermission : Nat := 0x04
def cFatal : Nat := 0x05
def cRegion : Nat := 0x07
def cAssert : Nat := 0x08
def cUser : Nat := 0x09
def cSdc : Nat := 0x0A
def cPoolLost : Nat := 0x0B
def cAlign : Nat := 0x0C
def cBreak : Nat := 0x0D

/-- %trapaux of PERMISSION and of TRANSLATION_FATAL (R47), and of POOL_LOST (R102). -/
def auxDeny (sub right obj : Nat) : Nat := sub + right * 2 ^ 8 + obj * 2 ^ 32
def auxFatal (sub obj : Nat) : Nat := obj + sub * 2 ^ 32
def auxLost (obj port : Nat) (unknown : Bool) : Nat := obj + port * 2 ^ 32 + bit unknown * 2 ^ 33

/-! ### Object entries (R40, R41) -/

/-- Fields of an object entry given as its four dwords. -/
def entryKind (e : List Nat) : Nat := bits (e.getD 0 0) 1 3
def entryRights (e : List Nat) : Nat := bits (e.getD 0 0) 4 8
def entryLost (e : List Nat) : Bool := bitAt (e.getD 0 0) 12
def entryLen (e : List Nat) : Nat := bits (e.getD 0 0) 16 48 + 1
def entryMap (e : List Nat) : Nat := bits (e.getD 1 0) 0 52
def entryTarget (e : List Nat) : Nat := e.getD 2 0
def entryPasid (e : List Nat) : Nat := bits (e.getD 3 0) 20 20
def entryOrd (e : List Nat) : Nat := bits (e.getD 3 0) 0 2
def entryCached (e : List Nat) : Bool := bitAt (e.getD 3 0) 2

/-- Bytes of a translation unit of an object: a host page, a cellar page, else a frame (R51). -/
def entryUnit (e : List Nat) : Nat := if entryKind e = 1 then 4096 else if entryKind e = 4 then 16384 else 65536

/-- Whether an entry is invalid (R41). MAP of a CELLAR object must be 8-byte aligned, as that of HBM and POOL objects.
(DESIGN CHOICE, log entry 94.) -/
def entryInvalid (e : List Nat) : Bool :=
  let d0 := e.getD 0 0
  let d1 := e.getD 1 0
  let d2 := e.getD 2 0
  let d3 := e.getD 3 0
  let k := entryKind e
  !(bitAt d0 0) || k ≥ 5 || bits d0 13 3 != 0 || bits d1 52 12 != 0 || bits d3 3 17 != 0 || bits d3 40 24 != 0
  || (if k = 1 ∨ k = 3 then d1 != 0 else bits d1 0 3 != 0)
  || (match k with
      | 1 => bits d2 0 12 != 0
      | 2 => bits d2 1 63 != 0
      | 3 => bits d2 48 16 != 0
      | _ => d2 != 0)
  || (if k = 1 ∨ k = 3 then entryOrd e == 3 else bits d3 0 3 != 0)
  || (k != 1 && bits d3 20 20 != 0)

/-- The four dwords of an object entry in memory. -/
def readEntry (m : Mem) (a : Nat) : List Nat := [m.read a 8, m.read (a + 8) 8, m.read (a + 16) 8, m.read (a + 24) 8]

/-- Whether the kind allows the operation (R29). -/
def kindAllows (k : Nat) : OpKind → Bool
  | .access => k != 4
  | .tagged => k != 4
  | .fetch => k == 0
  | .copySrc => true
  | .copyDst => k != 4

/-! ### Frame descriptors (R42 to R45) -/

/-- The word of a replica set for a die (R45). (DEDUCED, log entry 68.) -/
def State.replica (s : State) (set d : Nat) : Nat := (s.caches.replicas.getD set []).getD d 0

/-- The dies whose copy of a set is present. -/
def State.replicaDies (s : State) (set : Nat) : List Nat := (List.range 8).filter fun d => bitAt (s.replica set d) 0

/-- The frame number of a frame's copy on a die. -/
def State.replicaFrame (s : State) (set d pfn : Nat) : Nat := bits (s.replica set d) 1 40 + pfn

/-- Whether a descriptor whose V is 1 is malformed, in an object of kind HBM (`port` none) or POOL (R43, R45). -/
def State.malformed (s : State) (fd : Nat) (port : Option Nat) : Bool :=
  let pfn := bits fd 16 40
  let home := bits fd 11 3
  bits fd 14 2 != 0 || bits fd 56 8 != 0 || bits fd 1 2 == 3
  || (if bitAt fd 4 then
        port.isSome || (s.replicaDies (bits fd 5 6)).isEmpty
        || (s.replicaDies (bits fd 5 6)).any fun d =>
            !(s.hbmFrame (s.replicaFrame (bits fd 5 6) d pfn)) || s.replicaFrame (bits fd 5 6) d pfn / 2 ^ 20 != d
      else
        bits fd 5 6 != 0
        || match port with
           | none => !(s.hbmFrame pfn) || home != pfn / 2 ^ 20
           | some p => poolPort pfn != some p)

/-- The place a valid descriptor gives; a replicated frame is read at the copy of the reading die, else at the present
copy of the lowest die (R45). (DEDUCED, log entry 69.) -/
def State.placeOf (s : State) (die fd ctx obj o n : Nat) : Piece :=
  let pfn := bits fd 16 40
  let set := bits fd 5 6
  let here := if (s.replicaDies set).contains die then die else leastOf 0 (s.replicaDies set)
  let frame := if bitAt fd 4 then s.replicaFrame set here pfn else pfn
  { addr := frame * 65536 + o % 65536, len := n, ord := bits fd 1 2, cached := bitAt fd 3, home := bits fd 11 3,
    repl := if bitAt fd 4 then some (set * 2 ^ 40 + pfn) else none, ctx := ctx, obj := obj, off := o }

/-- The addresses at which a piece is written: every present copy of a replicated frame (R76), else its own. -/
def State.writeAddrs (s : State) (p : Piece) : List Nat :=
  match p.repl with
  | none => [p.addr]
  | some r => (s.replicaDies (r / 2 ^ 40)).map fun d =>
      s.replicaFrame (r / 2 ^ 40) d (r % 2 ^ 40) * 65536 + p.off % 65536

/-! ### Hosts and peers -/

/-- The die that homes a HOST object (R75). (DEDUCED, log entry 69.) -/
def State.hostDie (s : State) (obj : Nat) : Nat :=
  let ds := (List.range 8).filter fun d => bitAt s.presence.dies d
  ds.getD (obj % ds.length) 0

/-- Whether a live link reaches a peer (R106, R108). -/
def State.peerReached (s : State) (peer : Nat) : Bool :=
  (List.range 12).any fun l => bitAt (lookupD 0 peer s.routes) l && bitAt s.linksUp l && bitAt s.presence.links l

/-- The units whose extent caches serve a walk: the core of a thread with its die, or the die of an engine (R49). -/
def unitsOf (core : Option Nat) (die : Nat) : List Nat :=
  match core with
  | some c => [c, 1024 + die]
  | none => [1024 + die]

/-- The extents held for the translation unit of an offset. (DESIGN CHOICE, log entry 6.) -/
def State.extentsAt (s : State) (units : List Nat) (ctx obj o : Nat) : List Extent :=
  s.caches.extents.filter fun x => units.contains x.unit && x.ctx == ctx && x.obj == obj && x.frame == o / entryUnit x.entry

/-- Entries of an extent cache: 256 of a core, 4,096 of a die (R49). (DESIGN CHOICE, log entry 20.) -/
def extentRoom (unit : Nat) : Nat := if unit < 1024 then 256 else 4096

/-- An extent entered in its cache in place of an older one of its unit; a full cache gives one up (R49).
(DESIGN CHOICE, log entry 20.) -/
def State.fillExtent (s : State) (x : Extent) : State :=
  let old := s.caches.extents.filter fun y => !(y.unit == x.unit && y.ctx == x.ctx && y.obj == x.obj && y.frame == x.frame
    && entryUnit y.entry == entryUnit x.entry)
  match victim (extentRoom x.unit) s.pick x (old.filter fun y => y.unit == x.unit) with
  | none => { s with caches := { s.caches with extents := old ++ [x] } }
  | some v => { s.tick with caches := { s.caches with extents := (old.filter fun y => y != v) ++ [x] } }

/-- The frames, or the host's page, that an extent translates to: one for each copy of a replicated frame; none of a page of
the cellar. -/
def State.walkedOf (s : State) (x : Extent) : List Walked :=
  let w (a n : Nat) : Walked := { ctx := x.ctx, obj := x.obj, off := x.frame * n, addr := a, len := n }
  match entryKind x.entry with
  | 1 => [w (hostKey (x.desc / 4096 * 4096)) 4096]
  | 4 => []
  | _ => (s.writeAddrs (s.placeOf 0 x.desc x.ctx x.obj (x.frame * 65536) 65536)).map fun a => w a 65536

/-- A translation enters the extent cache of each unit, and what it gives is kept. -/
def State.enterExtent (s : State) (units : List Nat) (ctx obj frame : Nat) (entry : List Nat) (desc : Nat) : State :=
  let x : Extent := { unit := 0, ctx := ctx, obj := obj, frame := frame, entry := entry, desc := desc }
  let s1 := { s with caches := { s.caches with walked := distinct (s.caches.walked ++ s.walkedOf x) } }
  units.foldl (fun s u => s.fillExtent { x with unit := u }) s1

/-- The extents of an offset's translation unit leave the caches: those a predicate names. -/
def State.dropExtents (s : State) (units : List Nat) (ctx obj o : Nat) (f : Extent → Bool) : State :=
  { s with caches := { s.caches with extents := s.caches.extents.filter fun x =>
      !(units.contains x.unit && x.ctx == ctx && x.obj == obj && x.frame == o / entryUnit x.entry && f x) } }

/-- The object-level tests of R46 that an entry decides: a trap, or none. -/
def judgeEntry (e : List Nat) (obj o n : Nat) (op : AccOp) : Option (Nat × Nat) :=
  if entryInvalid e then some (cFatal, auxFatal 1 obj)
  else
    let missing := op.rights.filter fun r => !(bitAt (entryRights e) (r - 24))
    let lacking := if op.any then (if missing.length = op.rights.length then missing else []) else missing
    match lacking with
    | r :: _ => some (cPermission, auxDeny 1 r obj)
    | [] =>
      if kindAllows (entryKind e) op.kind = false then some (cPermission, auxDeny 2 0 obj)
      else if op.kind = .tagged ∧ entryKind e ≠ 0 then some (cPermission, auxDeny 4 0 obj)
      else if o + n > entryLen e then some (cPermission, auxDeny 3 0 obj)
      else none

/-! ### What is asked of the host and of peers (R49, R107) -/

/-- Who waits for an answer: the group that issues, or the agent that the present event concerns. -/
def State.asker (s : State) (core : Option Nat) : Nat := if core.isSome then s.sched.cur else 2 ^ 64 + s.sched.args.id

/-- An asker and its caches wait for what is asked already. (DEDUCED, log entry 70.) -/
def State.joinAsk (s : State) (id asker : Nat) (units : List Nat) : State :=
  let join (a : Ask) : Ask :=
    if a.id = id then { a with askers := distinct (a.askers ++ [asker]), units := distinct (a.units ++ units) } else a
  { s with caches := { s.caches with asks := s.caches.asks.map join } }

/-- The answers that an asker has waited for go once its instruction's checks have combined, or its unit has been served:
one that somebody else waits for stays (R50). (DEDUCED, log entry 70.) -/
def State.dropAsks (s : State) (asker : Nat) : State :=
  let left (a : Ask) : Ask := { a with askers := a.askers.filter fun k => k != asker }
  { s with caches := { s.caches with asks := (s.caches.asks.map left).filter fun a =>
      a.state == 0 || a.state == 5 || !a.askers.isEmpty } }

/-- Whether an operation reads memory: all do that write nothing, and atomics. -/
def AccOp.reads (op : AccOp) : Bool := !op.write || op.rights.contains 26

/-- Whether a host translation grants an operation: bit 0 read, bit 1 write. -/
def hostGrants (op : AccOp) (desc : Nat) : Bool := (!op.write || bitAt desc 1) && (!op.reads || bitAt desc 0)

/-- How a host's answer that grants an operation not is held: 3 malformed, which a `sub` above 1 says; 2 a translation fault,
where it grants no access or denies write for an operation that writes (R49); else 6, a denial that R47 calls PERMISSION
0x05. (DEDUCED, log entry 15.) -/
def hostRefusal (op : AccOp) (sub desc : Nat) : Nat :=
  if sub > 1 then 3 else if sub = 0 ∧ desc % 4 ≠ 0 ∧ (op.write = false ∨ bitAt desc 1) then 6 else 2

/-- Bytes of an access at offset o, n of them in its frame, that lie on its first host page. -/
def hostRun (o n : Nat) : Nat := min n (4096 - o % 4096)

/-- The place that a host translation gives, up to the end of its page (R46, R75). -/
def State.hostPlace (s : State) (ctx obj o n : Nat) (e : List Nat) (desc : Nat) : Piece :=
  { addr := hostKey (desc / 4096 * 4096 + o % 4096), len := hostRun o n, ord := entryOrd e,
    cached := entryCached e, home := s.hostDie obj, ctx := ctx, obj := obj, off := o }

/-- The walk of a HOST object's page (R49): a translation held for this very entry, an answer that waits, or a request to
the host for TARGET and the page under the entry's PASID. (DEDUCED, log entries 15 and 70.) -/
def walkHost (s : State) (asker : Nat) (units : List Nat) (ctx obj o n : Nat) (op : AccOp) (e : List Nat) : State × WalkOut :=
  let page := o / 4096
  match (s.extentsAt units ctx obj o).find? fun x => x.entry == e && hostGrants op x.desc with
  | some x => (s, .ok (s.hostPlace ctx obj o n e x.desc))
  | none =>
    match s.caches.asks.find? fun a => a.peer.isNone && a.ctx == ctx && a.obj == obj && a.off == page && a.op == op.code
        && a.entry == e && (a.state == 0 || a.askers.contains asker) with
    | some a =>
      if a.state = 0 then (s.joinAsk a.id asker units, .wait)
      else if a.state = 3 then (s, .trap cFatal (auxFatal 4 obj))
      else if a.state = 6 then (s, .trap cPermission (auxDeny 5 0 obj))
      else (s, .tfault { ctx := ctx, obj := obj, unit := page, off := o, write := op.write, host := true })
    | none =>
      let a : Ask := { id := s.sched.nextId, peer := none, ctx := ctx, obj := obj, off := page, write := op.write,
                       op := op.code, pasid := entryPasid e, va := (entryTarget e + page * 4096) % 2 ^ 64, entry := e, units := units,
                       askers := [asker] }
      ({ s.bump with caches := { s.caches with asks := s.caches.asks ++ [a] } }, .wait)

/-- The walk of a PEER object (R107, R108): an answered check, or a check sent to the peer. A fault at the peer is one of this
access. (DEDUCED, log entries 66 and 70.) -/
def walkPeer (s : State) (asker : Nat) (ctx obj o n : Nat) (op : AccOp) (e : List Nat) : State × WalkOut :=
  let peer := bits (entryTarget e) 32 16
  let agent := decide (2 ^ 64 ≤ asker)
  if s.peerReached peer = false then (s, .trap cFatal (auxFatal 5 obj))
  else
    match s.caches.asks.find? fun a =>
        a.peer == some peer && a.ctx == ctx && a.obj == obj && a.off == o && a.len == n && a.op == op.code && a.entry == e
        && a.agent == agent
        && (a.state == 0 || a.state == 5 || a.askers.contains asker) with
    | some a =>
      if a.state = 0 then (s.joinAsk a.id asker [], .wait)
      else if a.state = 1 then
        (s, .ok { addr := bits (entryTarget e) 0 32 * 2 ^ 48 + o, len := n, ord := entryOrd e, cached := entryCached e,
                  peer := some peer, ctx := ctx, obj := obj, off := o })
      else if a.state = 2 then (s, .trap cPermission (auxDeny (a.sub % 2 ^ 8) (a.sub / 2 ^ 8) obj))
      else if a.state = 5 then
        (s, .tfault { ctx := ctx, obj := obj, unit := o / 65536, off := o, write := op.write, host := false, peer := some a.id })
      else (s, .trap cFatal (auxFatal 3 obj))
    | none =>
      let a : Ask := { id := s.sched.nextId, peer := some peer, ctx := ctx, obj := obj, off := o, len := n, write := op.write,
                       op := op.code, entry := e, askers := [asker], agent := agent }
      let msg : PeerMsg := { peer := peer, obj := bits (entryTarget e) 0 32, off := o, len := n,
                             op := if agent && !op.write then 9 else 0, data := op.code, id := a.id }
      ({ s.bump with caches := { s.caches with asks := s.caches.asks ++ [a], peerOut := s.caches.peerOut ++ [msg] } }, .wait)

/-! ### The walk (R46) -/

/-- Whether a POOL object's segment is lost: its entry says so, its port is not up or lost, no object-invalidate has covered
it since a loss (R105), or an extent of it is marked (R101). A link that may return is not lost: accesses wait for it.
(DESIGN CHOICE, log entry 16.) -/
def State.poolGone (s : State) (ctx obj : Nat) (e : List Nat) : Bool :=
  let p := s.ports.getD (bits (entryTarget e) 0 1) {}
  entryLost e || p.lost || (!p.up && !p.left) || p.lostSegs.contains (ctx, obj)
  || s.caches.extents.any fun x => x.ctx == ctx && x.obj == obj && x.lost

/-- LOST is written into an object entry as memory holds it (R101). -/
def State.markLost (s : State) (entryAddr : Nat) : State :=
  { s with mem := s.mem.store entryAddr 8 (setBit (s.mem.read entryAddr 8) 12) }

/-- The channel of a physical cellar page (R85). -/
def pageChannel (q : Nat) : Nat := q % 64

/-- Whether a page map entry whose V is 1 is malformed (R86). -/
def State.badMapEntry (s : State) (e : Nat) : Bool :=
  bits e 1 7 != 0 || bits e 41 23 != 0 || !(bitAt s.presence.channels (pageChannel (bits e 8 30)))

/-- The walk with a given entry and a given descriptor, host translation or page-map entry: those a cache holds together, or
fresh ones, where a HOST object has none (R46). -/
def walkWith (s : State) (die asker : Nat) (units : List Nat) (ctx obj o n : Nat) (op : AccOp) (e : List Nat) (held : Option Nat)
    (entryAddr : Nat) : State × WalkOut :=
  match judgeEntry e obj o n op with
  | some (cause, aux) => (s, .trap cause aux)
  | none =>
    let port := bits (entryTarget e) 0 1
    let k := entryKind e
    let fd := held.getD 0
    if k = 2 ∧ s.poolGone ctx obj e then (s.markLost entryAddr, .trap cPoolLost (auxLost obj port false))
    else
      match k with
      | 1 => match held with
        | some d => (s, .ok (s.hostPlace ctx obj o n e d))
        | none => walkHost s asker units ctx obj o n op e
      | 3 => walkPeer s asker ctx obj o n op e
      | 4 =>
        (if bitAt fd 0 && !(s.badMapEntry fd) then s.enterExtent units ctx obj (o / 16384) e fd else s, .cellar e fd)
      | _ =>
        if k = 2 ∧ (s.ports.getD port {}).up = false then (s, .wait)
        else if bitAt fd 0 = false then
          (s, .tfault { ctx := ctx, obj := obj, unit := o / 65536, off := o, write := op.write, host := false })
        else if s.malformed fd (if k = 2 then some port else none) then (s, .trap cFatal (auxFatal 2 obj))
        else (s.enterExtent units ctx obj (o / 65536) e fd, .ok (s.placeOf die fd ctx obj o n))

/-- The object-entry part of the walk (R46, R375 item 6): the trap it ends in, or none; an address with no memory. -/
def entryPart (s : State) (ctx obj o n : Nat) (op : AccOp) : State × WalkOut :=
  match s.ctx? ctx with
  | none => (s, .trap cFatal (auxFatal 1 obj))
  | some c =>
    let a := c.otb + 32 * obj
    if obj = 0 ∨ obj ≥ c.otn then (s, .trap cFatal (auxFatal 1 obj))
    else if s.hbmHas a 32 = false then (s, .noMem a)
    else
      let e := readEntry s.mem a
      match judgeEntry e obj o n op with
      | some (cause, aux) => (s, .trap cause aux)
      | none =>
        if entryKind e = 2 ∧ s.poolGone ctx obj e then
          (s.markLost a, .trap cPoolLost (auxLost obj (bits (entryTarget e) 0 1) false))
        else (s, .cellar e 0)

/-- The walk with fresh reads of the entry and of the descriptor or page-map entry (R39, R46, R86). -/
def walkFresh (s : State) (c : Ctx) (die asker : Nat) (units : List Nat) (obj o n : Nat) (op : AccOp) : State × WalkOut :=
  let a := c.otb + 32 * obj
  if obj = 0 ∨ obj ≥ c.otn then (s, .trap cFatal (auxFatal 1 obj))
  else if s.hbmHas a 32 = false then (s, .noMem a)
  else
    let e := readEntry s.mem a
    let k := entryKind e
    let fa := entryMap e + 8 * (o / entryUnit e)
    let framed : Bool := (judgeEntry e obj o n op).isNone && (k == 0 || k == 4 || (k == 2 && !(s.poolGone c.n obj e)))
    if framed && !(s.hbmHas fa 8) then (s, .noMem fa)
    else walkWith s die asker units c.n obj o n op e (if framed then some (s.mem.read fa 8) else none) a

/-- The walk of one piece (R46): through an extent that a cache holds, where the free choice of log entry 6 takes it, or
fresh. A held entry that would deny is walked again fresh, and what the fresh walk finds replaces it (R48).
(DESIGN CHOICE, log entry 6.) -/
def walk (s : State) (core : Option Nat) (die ctx obj o n : Nat) (op : AccOp) : State × WalkOut :=
  match s.ctx? ctx with
  | none => (s, .trap cFatal (auxFatal 1 obj))
  | some c =>
    let units := unitsOf core die
    let asker := s.asker core
    match (s.extentsAt units ctx obj o).find? fun x => entryKind x.entry != 1 || hostGrants op x.desc with
    | none => walkFresh s c die asker units obj o n op
    | some x =>
      let s' := s.tick
      if Config.freeChoice s.sched.fresh then
        match walkWith s' die asker units ctx obj o n op x.entry (some x.desc) (c.otb + 32 * obj) with
        | (_, .trap 0x04 _) => walkFresh (s'.dropExtents units ctx obj o fun _ => true) c die asker units obj o n op
        | r => r
      else walkFresh (s'.dropExtents units ctx obj o fun y => entryKind y.entry != 1) c die asker units obj o n op

/-- The pieces of n bytes from offset o, split at the boundaries of pages of a size (R46); `fuel` bounds how many. -/
def splitFrames (size : Nat) : Nat → Nat → Nat → List (Nat × Nat)
  | 0, _, _ => []
  | fuel + 1, o, n =>
    let room := size - o % size
    if n ≤ room then [(o, n)] else (o, room) :: splitFrames size fuel (o + room) (n - room)

/-- The outcome of a whole access (R238): its pieces, a trap, a wait, translation faults, or a table at no address. -/
inductive AccOut where
  | ok (ps : List Piece)
  | cellar (entry : List Nat) (map : Nat)
  | trap (cause aux : Nat)
  | wait
  | tfault (fs : List FaultAt)
  | noMem (addr : Nat)
deriving DecidableEq, Repr

/-- One more piece's outcome joined to those after it: the lower piece's trap first, then the rest by R238. -/
def AccOut.cons : WalkOut → AccOut → AccOut
  | .noMem a, _ => .noMem a
  | _, .noMem a => .noMem a
  | .trap c x, _ => .trap c x
  | _, .trap c x => .trap c x
  | .wait, _ => .wait
  | _, .wait => .wait
  | .tfault f, .tfault fs => .tfault (f :: fs)
  | .tfault f, _ => .tfault [f]
  | _, .tfault fs => .tfault fs
  | .cellar e m, _ => .cellar e m
  | _, .cellar e m => .cellar e m
  | .ok p, .ok ps => .ok (p :: ps)

/-- Bytes of a piece that an outcome of its walk settles: one host page, or all of it. -/
def WalkOut.covers (o n : Nat) : WalkOut → Nat
  | .ok p => p.len
  | .tfault f => if f.host then hostRun o n else n
  | _ => n

/-- Two access outcomes joined, the lower one's trap first. -/
def AccOut.append : AccOut → AccOut → AccOut
  | .ok ps, r => ps.foldr (fun p r => AccOut.cons (.ok p) r) r
  | .tfault fs, r => fs.foldr (fun f r => AccOut.cons (.tfault f) r) r
  | .cellar e m, r => AccOut.cons (.cellar e m) r
  | .trap c x, r => AccOut.cons (.trap c x) r
  | .wait, r => AccOut.cons .wait r
  | .noMem a, r => AccOut.cons (.noMem a) r

/-- The walk of a piece within one frame: the object's tests are of all its bytes (R46), a host translation is of one page
(R49), and the bytes beyond that page are walked after it; `fuel` bounds how many pages. -/
def walkFrame (core : Option Nat) (die ctx obj : Nat) (op : AccOp) : Nat → Nat → Nat → State → State × AccOut
  | 0, _, _, s => (s, .ok [])
  | fuel + 1, o, n, s =>
    let w := walk s core die ctx obj o n op
    let k := w.2.covers o n
    if k < n then
      let t := walkFrame core die ctx obj op fuel (o + k) (n - k) w.1
      (t.1, AccOut.cons w.2 t.2)
    else (w.1, AccOut.cons w.2 (.ok []))

/-- The walks of the pieces of an access, lower offsets first. -/
def walkPieces (core : Option Nat) (die ctx obj : Nat) (op : AccOp) : List (Nat × Nat) → State → State × AccOut
  | [], s => (s, .ok [])
  | (o, n) :: r, s =>
    let w := walkFrame core die ctx obj op 17 o n s
    let t := walkPieces core die ctx obj op r w.1
    (t.1, w.2.append t.2)

/-- The walk of an access of n bytes, split at frames (R46). -/
def translate (s : State) (core : Option Nat) (die ctx obj o n : Nat) (op : AccOp) : State × AccOut :=
  walkPieces core die ctx obj op (splitFrames 65536 (n / 65536 + 2) o n) s

end Sys2Proof.Machine
end

