-- ==== Sys2Proof/Machine/Port.lean ====
section
/-!
DEFINITION. How reads, writes, atomics and wide sums are performed on translated pieces (R62, R69 to R76, R80, R121,
R157, R268 to R272, R351, R352): memory, the caches that hold it, scratch, watches, and messages to peers.
-/

namespace Sys2Proof.Machine

open Sys2Proof

/-! ### Watches (R157) -/

/-- A watch that a write of n bytes at an address reaches: a memory line, or a scratch word of a block. -/
def Watch.hit (w : Watch) (scratch : Option Nat) (a n : Nat) : Bool :=
  w.hasEntry && w.scratch == scratch
  && (match scratch with
      | none => (touched 128 a n).contains (w.addr / 128)
      | some _ => (touched 4 a n).contains (w.addr / 4))

/-- Every watch that a write reaches has triggered. (DEDUCED, log entry 87.) -/
def State.trigger (s : State) (scratch : Option Nat) (a n : Nat) : State :=
  { s with blocks := s.blocks.map fun b => b.updThreads fun x =>
      match x.watch with
      | some w => if w.hit scratch a n then { x with watch := some { w with triggered := true } } else x
      | none => x }

/-! ### Messages to peers (R107) -/

/-- A message to a peer that it need not acknowledge. (DESIGN CHOICE, log entry 65.) -/
def State.send (s : State) (m : PeerMsg) : State := { s with caches := { s.caches with peerOut := s.caches.peerOut ++ [m] } }

/-- A message to a peer that it acknowledges under its number. (DESIGN CHOICE, log entry 65.) -/
def State.sendWrite (s : State) (m : PeerMsg) : State := s.bump.send { m with id := s.sched.nextId }

/-- The numbers of the messages that a state has sent since an earlier one and that await an acknowledgement. -/
def State.sentSince (s before : State) : List Nat :=
  ((s.caches.peerOut.drop before.caches.peerOut.length).map PeerMsg.id).filter fun n => n != 0

/-- Whether a message of a number still awaits its acknowledgement. (DEDUCED, log entry 42.) -/
def State.awaited (s : State) (id : Nat) : Bool := id != 0 && s.caches.peerOut.any fun m => m.id == id

/-- The place of a byte of a peer's object (R107): the remote object number above the offset. -/
def peerPlace (obj off : Nat) : Nat := obj * 2 ^ 48 + off

/-- The place a memory watch of a piece names; that of a peer's line stands above every physical address. -/
def watchAt (peer : Option Nat) (addr : Nat) : Nat := match peer with
  | some q => 2 ^ 120 + q * 2 ^ 80 + addr
  | none => addr
def watchPlace (p : Piece) : Nat := watchAt p.peer p.addr

/-! ### Caches (R69 to R75) -/

/-- The lines of 128 bytes that n bytes from an address touch. -/
def linesOf (a n : Nat) : List Nat := touched 128 a n

/-- The mask of the bytes of a line that n bytes from an address cover. -/
def lineMask (line a n : Nat) : Nat :=
  packNat 1 ((List.range 128).map fun i => bit (decide (a ≤ line * 128 + i ∧ line * 128 + i < a + n)))

/-- The mask of the sectors of a line that n bytes from an address touch. -/
def sectorMask (line a n : Nat) : Nat :=
  packNat 1 ((List.range 4).map fun i => bit ((touched 32 a n).contains (line * 4 + i)))

/-- A home cache takes note of an access to a line: held, with further sectors and dirty bytes (R69, R74). -/
def touchLine (die line sectors mask : Nat) : List HomeLine → List HomeLine
  | [] => [{ die := die, line := line, dirty := mask, sectors := sectors }]
  | h :: hs => if h.die = die ∧ h.line = line then { h with dirty := h.dirty ||| mask, sectors := h.sectors ||| sectors } :: hs
               else h :: touchLine die line sectors mask hs

/-- A line enters the home cache of a die: 96 MiB in 16 ways, so 49,152 sets (R69). The line that makes room is written back,
and memory has its bytes. (DESIGN CHOICE, log entry 20.) -/
def State.noteHome (s : State) (die line sectors mask : Nat) : State :=
  let set := (s.caches.home.filter fun h => h.die == die && h.line % 49152 == line % 49152).map HomeLine.line
  let s1 := match victim 16 s.pick line set with
    | none => s
    | some v => { s.tick with caches := { s.caches with home := s.caches.home.filter fun h => !(h.die == die && h.line == v) } }
  { s1 with caches := { s1.caches with home := touchLine die line sectors mask s1.caches.home } }

/-- The die whose home cache serves a place: that of the copy of a replicated frame, else the home of the frame (R73,
R76). -/
def Piece.servedAt (p : Piece) (a : Nat) : Nat := if p.repl.isSome then a / 2 ^ 36 else p.home

/-- The home cache's note of an access to n bytes of a cacheable place.
(DESIGN CHOICE, log entry 20; DEDUCED, log entry 86.) -/
def State.touchHome (s : State) (p : Piece) (a n : Nat) (write : Bool) : State :=
  if p.cached ∧ p.peer = none then
    (linesOf a n).foldl (fun s l => s.noteHome (p.servedAt a) l (sectorMask l a n) (if write then lineMask l a n else 0)) s
  else s

/-- A copy of a line with the sectors of a further fill. -/
def RemoteLine.merge (x r : RemoteLine) : RemoteLine :=
  { x with
    sectors := x.sectors ||| r.sectors
    data := if x.peer.isNone then [] else
      (List.range 128).map fun i => if bitAt r.sectors (i / 32) then r.data.getD i 0 else x.data.getD i 0
    poison := packNat 1 ((List.range 4).map fun i => bit (if bitAt r.sectors i then bitAt r.poison i else bitAt x.poison i)) }

/-- Sectors of a line enter the remote-data cache of a die: 32 MiB in 16 ways, so 16,384 sets (R69).
(DESIGN CHOICE, log entry 20.) -/
def State.noteRemote (s : State) (r : RemoteLine) : State :=
  let same (x : RemoteLine) : Bool := x.die == r.die && x.peer == r.peer && x.line == r.line
  let set := (s.caches.rdc.filter fun x => x.die == r.die && x.line % 16384 == r.line % 16384).map fun x => (x.peer, x.line)
  let s1 := match victim 16 s.pick (r.peer, r.line) set with
    | none => s
    | some v => { s.tick with caches := { s.caches with rdc := s.caches.rdc.filter fun x => !(x.die == r.die && (x.peer, x.line) == v) } }
  let new := match s1.caches.rdc.find? same with
    | some x => x.merge r
    | none => r
  { s1 with caches := { s1.caches with rdc := (s1.caches.rdc.filter fun x => !(same x)) ++ [new] } }

/-- Remote-data copies of lines that a write reaches go (R74), and peers that hold a copy are told so (R75). -/
def State.dropRemote (s : State) (a n : Nat) : State :=
  let lines := linesOf a n
  let s1 := (s.caches.lent.filter fun x => lines.contains x.line).foldl (fun s x =>
    s.send { peer := x.peer, obj := x.obj, off := x.off, len := 128, op := 8, data := 0 }) s
  { s1 with caches := { s1.caches with
      rdc := s1.caches.rdc.filter fun r => !(r.peer.isNone && lines.contains r.line)
      lent := s1.caches.lent.filter fun x => !(lines.contains x.line) } }

/-- Copies of a peer's lines go: the peer's directory has invalidated them, or this device writes them (R75).
(DEDUCED, log entry 66.) -/
def State.dropPeerLines (s : State) (peer a n : Nat) : State :=
  { s with caches := { s.caches with rdc := s.caches.rdc.filter fun r =>
      !(r.peer == some peer && (linesOf a n).contains r.line) } }

/-- A remote-data copy that a load from another die leaves (R74). (DEDUCED, log entry 66.) -/
def State.fillRemote (s : State) (die : Nat) (p : Piece) : State :=
  if p.cached ∧ p.peer = none ∧ p.repl = none ∧ die ≠ p.home then
    (linesOf p.addr p.len).foldl (fun s l => s.noteRemote { die := die, line := l, sectors := sectorMask l p.addr p.len }) s
  else s

/-- The copy of a line of a peer that a die's remote-data cache holds (R75). -/
def State.peerLine (s : State) (die peer line : Nat) : Option RemoteLine :=
  s.caches.rdc.find? fun r => r.die == die && r.peer == some peer && r.line == line

/-- Whether a die's remote-data cache holds every sector of a piece that lies at a peer (R75). (DEDUCED, log entry 66.) -/
def State.heldRemote (s : State) (die : Nat) (p : Piece) : Bool := match p.peer with
  | some q => p.cached && (touched 32 p.addr p.len).all fun k => (s.peerLine die q (k / 4)).any fun r => bitAt r.sectors (k % 4)
  | none => false

/-- Whether a load of a piece may be served by L1 (R70, R111). -/
def Piece.inL1 (p : Piece) (scope : Scope) : Bool := p.cached && p.ord != 0 && scope == .block && p.peer.isNone

/-- The line of a sector, and whether an L1 holds a physical sector under it. -/
def L1Sector.line (x : L1Sector) : Nat × Nat × Nat := (x.ctx, x.obj, x.sector / 4)
def L1Sector.holds (x : L1Sector) (core phys : Nat) : Bool := x.core == core && x.phys == phys

/-- The L1 sector a piece's sector would be found in (R69). (DESIGN CHOICE, log entry 6.) -/
def State.l1Find (s : State) (core : Nat) (p : Piece) (sector : Nat) : Option L1Sector :=
  s.caches.l1.find? fun x => x.core == core && x.ctx == p.ctx && x.obj == p.obj && x.sector == sector

/-- A line that is new to a core's L1 finds room: 128 KiB in 8 ways of 128 sets, of which the low bits of the line's place in
its object choose one (R69). (DESIGN CHOICE, log entry 20.) -/
def State.roomL1 (s : State) (core : Nat) (line : Nat × Nat × Nat) : State :=
  let set := distinct ((s.caches.l1.filter fun x => x.core == core && x.sector / 4 % 128 == line.2.2 % 128).map L1Sector.line)
  match victim 8 s.pick line set with
  | none => s
  | some v => { s.tick with caches := { s.caches with l1 := s.caches.l1.filter fun x => !(x.core == core && x.line == v) } }

/-- L1 after memory served a read of a piece: no older copy of its sectors stays, and a load that may use L1 fills
them (R69, R70, R118). -/
def State.fillL1 (s : State) (core : Nat) (p : Piece) (scope : Scope) : State :=
  let phys := touched 32 p.addr p.len
  let new := phys.map fun k =>
    ({ core := core, ctx := p.ctx, obj := p.obj, sector := (p.off + (k * 32) - p.addr) / 32, phys := k, ord := p.ord,
       data := s.mem.bytes (k * 32) 32, tags := bit (s.mem.tagAt (k * 32)) + 2 * bit (s.mem.tagAt (k * 32 + 16)),
       poison := s.mem.poison.contains k } : L1Sector)
  let s1 := { s with caches := { s.caches with l1 := s.caches.l1.filter fun x => !(x.core == core && phys.contains x.phys) } }
  if p.inL1 scope then
    let s2 := (distinct (new.map L1Sector.line)).foldl (fun s l => s.roomL1 core l) s1
    { s2 with caches := { s2.caches with l1 := s2.caches.l1 ++ new } }
  else s1

/-- L1 of the storing core when a store is performed: the line held under the piece's own name takes the bytes, and every
other line with that physical address goes (R70). -/
def State.storeL1 (s : State) (core : Nat) (p : Piece) (a n : Nat) : State :=
  let sectors := touched 32 a n
  let lines := linesOf a n
  let own (x : L1Sector) : Bool := x.ctx == p.ctx && x.obj == p.obj && p.peer.isNone && (linesOf p.off n).contains (x.sector / 4)
  let put (x : L1Sector) : L1Sector :=
    { x with
      data := (List.range 32).map fun i =>
        if a ≤ x.phys * 32 + i ∧ x.phys * 32 + i < a + n then s.mem.byte (x.phys * 32 + i) else x.data.getD i 0
      tags := bit (if (touched 16 a n).contains (x.phys * 2) then s.mem.tagAt (x.phys * 32) else bitAt x.tags 0)
        + 2 * bit (if (touched 16 a n).contains (x.phys * 2 + 1) then s.mem.tagAt (x.phys * 32 + 16) else bitAt x.tags 1)
      poison := x.poison && !(covered 32 a n).contains x.phys }
  let upd := s.caches.l1.filterMap fun x =>
    if x.core == core && lines.contains (x.phys / 4) then
      (if own x then some (if sectors.contains x.phys then put x else x) else none)
    else some x
  { s with caches := { s.caches with l1 := upd } }

/-- L1 lines a core drops (R70): those of given ordering kinds, of one context or of all. -/
def State.dropL1 (s : State) (core : Nat) (ords : List Nat) (ctx : Option Nat) : State :=
  { s with caches := { s.caches with l1 := s.caches.l1.filter fun x =>
      !(x.core == core && ords.contains x.ord && (match ctx with
        | some c => x.ctx == c
        | none => true)) } }

/-- What an acquire or a fence of a scope makes its core's later loads miss (R70, R100): nothing at block scope, RC lines of
L1 beyond it, with UN lines for a fence of kind ALL; at pool scope every line of L1 and of its die's remote-data cache. -/
def State.missAfter (s : State) (core : Nat) (scope : Scope) (all : Bool) : State :=
  if scope = .block then s
  else if scope = .pool then
    let s1 := s.dropL1 core [1, 2] none
    { s1 with caches := { s1.caches with rdc := s1.caches.rdc.filter fun r => r.die != dieOf core } }
  else s.dropL1 core (if all then [1, 2] else [1]) none

/-- What a returning atomic, and a load that has read SO memory, make their core's later loads miss: RC lines of L1, and lines of
the pool in its die's remote-data cache, so that none of them is older than a write that happens before (R114, R139, note 4 of
R129). (DEDUCED, log entry 108.) -/
def State.missOlder (s : State) (core : Nat) : State :=
  let s1 := s.dropL1 core [1] none
  { s1 with caches := { s1.caches with rdc := s1.caches.rdc.filter fun r =>
      !(r.die == dieOf core && r.peer.isNone && (poolPort (r.line / 512)).isSome) } }

/-! ### Reads -/

/-- Bytes of a block's scratch with their poison (R62). -/
def Block.scrRead (b : Block) (a n : Nat) : List Byte × Bool :=
  (cellsAt b.scr a n, (touched 4 a n).any fun k => b.scrPoison.contains k)

/-- Which bytes of a piece lie in a poisoned sector or word (R62). -/
def State.marks (s : State) (p : Piece) : List Bool :=
  (List.range p.len).map fun i => match p.scratch with
    | some u => (s.block? u).any fun b => b.scrPoison.contains ((p.addr + i) / 4)
    | none => s.mem.poison.contains ((p.addr + i) / 32)

/-- The bytes of a piece as memory holds them, and whether one is poisoned. -/
def State.peek (s : State) (p : Piece) : List Byte × Bool :=
  match p.scratch with
  | some u => match s.block? u with
    | some b => b.scrRead p.addr p.len
    | none => (List.replicate p.len 0, false)
  | none => (s.mem.bytes p.addr p.len, s.mem.poisoned p.addr p.len)

/-- One byte of a piece from L1. -/
def State.l1Byte (s : State) (core : Nat) (p : Piece) (i : Nat) : Byte :=
  match s.l1Find core p ((p.off + i) / 32) with
  | some x => x.data.getD ((p.off + i) % 32) 0
  | none => 0

/-- The bytes of a piece that lies at a peer, as a die's remote-data cache holds them (R75). -/
def State.peerBytes (s : State) (die peer : Nat) (p : Piece) : List Byte × List Bool :=
  let at1 (i : Nat) : Option RemoteLine := s.peerLine die peer ((p.addr + i) / 128)
  ((List.range p.len).map fun i => ((at1 i).map fun r => r.data.getD ((p.addr + i) % 128) 0).getD 0,
    (List.range p.len).map fun i => (at1 i).any fun r => bitAt r.poison ((p.addr + i) / 32 % 4))

/-- A load of a piece is performed (R69 to R76): its bytes, which of them are poisoned, and the tag of its first granule.
(DESIGN CHOICE, log entry 6.) -/
def State.loadPiece (s : State) (core : Nat) (scope : Scope) (p : Piece) : State × (List Byte × List Bool × Bool) :=
  match p.scratch, p.peer with
  | some _, _ => (s, ((s.peek p).1, s.marks p, false))
  | none, some q => (s, ((s.peerBytes (dieOf core) q p).1, (s.peerBytes (dieOf core) q p).2, false))
  | none, none =>
    let hit := p.inL1 scope && (touched 32 p.off p.len).all fun k => (s.l1Find core p k).isSome
    let s' := if hit then s.tick else s
    if hit ∧ Config.freeChoice s.sched.fresh then
      (s', ((List.range p.len).map fun i => s.l1Byte core p i,
        (List.range p.len).map fun i => (s.l1Find core p ((p.off + i) / 32)).any L1Sector.poison,
        match s.l1Find core p (p.off / 32) with
          | some x => bitAt x.tags (p.off / 16 % 2)
          | none => false))
    else
      (((s'.fillL1 core p scope).touchHome p p.addr p.len false).fillRemote (dieOf core) p,
        ((s.peek p).1, s.marks p, s.mem.tagAt p.addr))

/-- The loads of all pieces of an access, in order: bytes, poison, first tag. -/
def State.loadPieces (s : State) (core : Nat) (scope : Scope) : List Piece → State × (List Byte × List Bool × Bool)
  | [] => (s, ([], [], false))
  | p :: ps =>
    let r := s.loadPiece core scope p
    let t := r.1.loadPieces core scope ps
    (t.1, (r.2.1 ++ t.2.1, r.2.2.1 ++ t.2.2.1, r.2.2.2))

/-! ### Writes -/

/-- Bytes written to a block's scratch: a word covered whole is clean again (R62). -/
def Block.scrWrite (b : Block) (a : Nat) (bs : List Byte) : Block :=
  { b with scr := setCells a bs b.scr,
           scrPoison := (covered 4 a bs.length).foldl (fun l k => eraseNat k l) b.scrPoison }

/-- Bytes written at one physical address, with the tag of a capability store (R22, R23). -/
def Mem.put (m : Mem) (a : Nat) (bs : List Byte) (tag : Bool) : Mem := m.writeTagged a bs tag

/-- A write of a piece's bytes is performed at its home (R74 to R76, R107), by a core or by an engine (`core` none):
memory in every present copy, the core's L1, the home caches and the watches. -/
def State.writePiece (s : State) (core : Option Nat) (p : Piece) (bs : List Byte) (tag : Bool := false) : State :=
  match p.scratch with
  | some u => (s.updBlock u fun b => b.scrWrite p.addr bs).trigger (some u) p.addr bs.length
  | none =>
    match p.peer with
    | some peer =>
      ((s.dropPeerLines peer p.addr bs.length).sendWrite
        { peer := peer, obj := p.addr / 2 ^ 48, off := p.off, len := bs.length, op := 2, data := bytesToNat bs })
    | none =>
      (s.writeAddrs p).foldl (fun s a =>
        let s := { s with mem := s.mem.put a bs tag }
        let s := match core with
          | some c => s.storeL1 c p a bs.length
          | none => s
        ((s.dropRemote a bs.length).touchHome p a bs.length true).trigger none a bs.length) s

/-- The granules of g bytes that stretches of addresses cover together. -/
def wholeOf (g : Nat) (rs : List (Nat × Nat)) : List Nat :=
  (distinct (rs.flatMap fun r => touched g r.1 r.2)).filter fun k =>
    (List.range g).all fun i => rs.any fun r => decide (r.1 ≤ k * g + i) && decide (k * g + i < r.1 + r.2)

/-- A store of a core whose lanes, or whose entry, write every byte of a poisoned sector or word together leaves it clean
(R62). -/
def State.mend (s : State) (core : Nat) (ps : List Piece) : State :=
  let rs := (ps.filter fun p => p.scratch.isNone && p.peer.isNone).flatMap fun p => (s.writeAddrs p).map fun a => (a, p.len)
  let words (b : Block) : List Nat := wholeOf 4 ((ps.filter fun p => p.scratch == some b.uid).map fun p => (p.addr, p.len))
  let sectors := wholeOf 32 rs
  { s with
    mem := s.mem.dropPoison sectors
    caches := { s.caches with l1 := s.caches.l1.map fun x =>
      if x.core = core ∧ sectors.contains x.phys then { x with poison := false } else x }
    blocks := s.blocks.map fun b => { b with scrPoison := (words b).foldl (fun l k => eraseNat k l) b.scrPoison } }

/-- The bytes of an access written to its pieces, lower offsets first. -/
def State.writePieces (s : State) (core : Option Nat) : List Piece → List Byte → State
  | [], _ => s
  | p :: ps, bs => (s.writePiece core p (bs.take p.len)).writePieces core ps (bs.drop p.len)

/-! ### Atomics (R121, R269, R270, R272, R351, R352) -/

/-- One element of an atomic: 0 add, 1 min, 2 max, 3 and, 4 or, 5 xor (R351). -/
def atomElem (op : Nat) (t : Tag) (a b : Nat) : Nat :=
  match op with
  | 0 => if t.isFloat then (fpAdd (fmtOf t) .rn a b).1 else (a + b) % 2 ^ t.width
  | 1 => if t.isFloat then (fpMinMax (fmtOf t) false a b).1 else if intVal t a ≤ intVal t b then a else b
  | 2 => if t.isFloat then (fpMinMax (fmtOf t) true a b).1 else if intVal t a ≥ intVal t b then a else b
  | 3 => a &&& b
  | 4 => a ||| b
  | _ => a ^^^ b

/-- The value an atomic of n bytes stores: per element, or whole for xchg (6) and cas (7), none where a compare fails
(R352). -/
def atomNew (op : Nat) (t : Tag) (n old opnd new : Nat) : Option Nat :=
  if op = 6 then some opnd
  else if op = 7 then (if old = opnd then some new else none)
  else some (packNat t.width ((List.range (8 * n / t.width)).map fun i =>
    atomElem op t (bits old (t.width * i) t.width) (bits opnd (t.width * i) t.width)))

/-- An atomic or reduction of one lane is performed at its piece (R352): the value before, with its poison. One that rewrites every
byte of a poisoned scratch word leaves the word clean. (DESIGN CHOICE, log entry 113.) -/
def State.atomPiece (s : State) (core : Option Nat) (p : Piece) (op : Nat) (t : Tag) (opnd new : Nat) :
    State × (Nat × Bool) :=
  match p.peer with
  | some peer =>
    ((s.dropPeerLines peer p.addr p.len).sendWrite
      { peer := peer, obj := p.addr / 2 ^ 48, off := p.off, len := p.len, op := 16 + op + 32 * t.code,
        data := opnd + new * 2 ^ 64 }, (0, false))
  | none =>
    let r := s.peek p
    let old := bytesToNat r.1
    match atomNew op t p.len old opnd new with
    | some v => (s.writePiece core p (natToBytes p.len v), (old, r.2))
    | none =>
      -- a compare that fails has read: no older copy stays in the core's L1 (R118)
      (match core, p.scratch with
        | some c, none => (s.fillL1 c p .device).touchHome p p.addr p.len false
        | _, _ => s, (old, r.2))

/-- A wide-sum lane is performed (R270): C := (C + q) mod 2^128; poisoned words of a scratch cell are clean after it.
(DESIGN CHOICE, log entry 113.) -/
def State.wsumPiece (s : State) (core : Option Nat) (p : Piece) (q : Nat) : State :=
  match p.peer with
  | some peer =>
    (s.dropPeerLines peer p.addr 16).sendWrite
      { peer := peer, obj := p.addr / 2 ^ 48, off := p.off, len := 16, op := 3, data := q }
  | none => s.writePiece core p (natToBytes 16 ((bytesToNat (s.peek p).1 + q) % 2 ^ 128))

/-! ### Landing barriers (R151 to R153) -/

/-- The words of a landing barrier after the loop of R152 has run on ARRIVED plus n bytes: it flips once for each
EXPECTED bytes in the sum. -/
def barrierAfter (expected arrived phase count n : Nat) : Nat × Nat × Nat :=
  let s := arrived + n
  let flips := if expected = 0 then 0 else s / expected
  let left := s - flips * expected
  ((if left < 2 ^ 32 then left else 2 ^ 32 - 1), (phase + flips) % 2, (count + flips) % 2 ^ 31)

/-- The loop of R152 on the barrier at an address of a block's scratch, with its EXPECTED set first where one is given
(R153). A barrier that reaches beyond the allocation is left alone (R31, R32). The words of a poisoned barrier count as they stand,
and the write leaves them clean. (DEDUCED, log entry 46; DESIGN CHOICE, log entry 100.) -/
def State.creditAt (s : State) (uid a n : Nat) (expected : Option Nat) : State :=
  match s.block? uid with
  | none => s
  | some b =>
    if a + 16 > b.scrSize then s
    else
      let w := bytesToNat (b.scrRead a 16).1
      let e := expected.getD (bits w 0 32)
      let r := barrierAfter e (bits w 32 32) (bits w 64 1) (bits w 65 31) n
      s.writePiece none { scratch := some uid, addr := a, len := 12 }
        (natToBytes 12 (e + r.1 * 2 ^ 32 + r.2.1 * 2 ^ 64 + r.2.2 * 2 ^ 65))

end Sys2Proof.Machine
end

