-- ==== Sys2Proof/Machine/Buffer.lean ====
section
/-!
DEFINITION. The store buffer (R78 to R83), the commit of an instance (R202, R206), how a buffered effect is performed
(R82), the counters of record and replay (R456), and trace records (R452).
-/

namespace Sys2Proof.Machine

open Sys2Proof

/-! ### Entries (R78, R79) -/

/-- The number of a piece's first byte: in a replicated frame the same whichever copy is read (R76, R81). -/
def Piece.base (p : Piece) : Nat := match p.repl with
  | some r => 2 ^ 128 * (r + 1) + p.addr % 65536
  | none => p.addr

/-- The 32-byte chunks n bytes at a place lie in. -/
def Piece.chunks (p : Piece) : List (Option Nat × Option Nat × Nat) :=
  (touched 32 p.base p.len).map fun k => (p.scratch, p.peer, k)

/-- The chunks a buffered store takes an entry for (R79). -/
def Effect.chunks : Effect → List (Option Nat × Option Nat × Nat)
  | .store ps _ => ps.flatMap Piece.chunks
  | .cap p _ _ => p.chunks
  | _ => []

/-- What is performed on one location in the order of the lanes (R121, R382): a place, or an expert activity counter. -/
inductive AtomSpot where
  | place (scratch peer : Option Nat) (base len : Nat)
  | counter (idx : Nat)
deriving DecidableEq, Repr

/-- The location of a piece. -/
def Piece.spot (p : Piece) : AtomSpot := .place p.scratch p.peer p.base p.len

/-- The location of an effect whose lanes go in order: a reduction, a wide sum, or a count of an expert. -/
def Effect.spot : Effect → Option AtomSpot
  | .red p _ _ _ => some p.spot
  | .wsum p _ _ => some p.spot
  | .count idx _ => some (.counter idx)
  | _ => none

/-- The pieces an effect writes. -/
def Effect.pieces : Effect → List Piece
  | .store ps _ => ps
  | .release ps _ _ => ps
  | .cap p _ _ => [p]
  | .red p _ _ _ => [p]
  | .wsum p _ _ => [p]
  | .arm p _ => [p]
  | _ => []

/-- The pieces that an effect stores whole bytes to: those of a store, of a capability store and of a release. -/
def Effect.stores : Effect → List Piece
  | .store ps _ => ps
  | .release ps _ _ => ps
  | .cap p _ _ => [p]
  | _ => []

/-- Whether n bytes from one number and m bytes from another have one in common. -/
def overlap (a n b m : Nat) : Bool := decide (a < b + m) && decide (b < a + n)

/-- Whether two places share a byte. -/
def Piece.meets (p q : Piece) : Bool :=
  p.scratch == q.scratch && p.peer == q.peer && (overlap p.addr p.len q.addr q.len || overlap p.base p.len q.base q.len)

/-- The place in a piece of byte k of another, where it is one byte of both. -/
def Piece.holds (p q : Piece) (k : Nat) : Option Nat :=
  if p.scratch ≠ q.scratch ∨ p.peer ≠ q.peer then none
  else if p.addr ≤ q.addr + k ∧ q.addr + k < p.addr + p.len then some (q.addr + k - p.addr)
  else if p.base ≤ q.base + k ∧ q.base + k < p.base + p.len then some (q.base + k - p.base)
  else none

/-- Whether two accesses of one thread are ordered because one is to SO memory and neither to UN memory (R114).
(DEDUCED, log entry 108.) -/
def Piece.strong (p q : Piece) : Bool := (p.ord == 0 || q.ord == 0) && p.ord != 2 && q.ord != 2

/-- Whether a word has been performed for some of its lanes on a place and not yet for others: nothing of another word comes
between them (R121). (DEDUCED, log entry 22; DESIGN CHOICE, log entry 110.) -/
def State.lockedOut (s : State) (issue : Nat) (p : Piece) : Bool :=
  (s.reqs.any fun r => r.locked && r.issue != issue && r.pieces.any p.meets)
  || s.items.any fun i => i.locked && i.issue != issue && i.eff.pieces.any p.meets

/-- The entries an effect takes of its own: one for each lane of a reduction, two for a command (R79).
(DEDUCED, log entry 89.) -/
def Effect.slots : Effect → Nat
  | .red .. => 1
  | .wsum .. => 1
  | .arm .. => 1
  | .count .. => 1
  | .command _ => 2
  | _ => 0

/-- The entries a block's buffered effects take: stores of one group and instance share a chunk's entry (R79).
(DEDUCED, log entry 89.) -/
def entriesUsed (items : List Item) (uid : Nat) : Nat :=
  let mine := items.filter fun i => i.blk == uid
  (distinct (mine.flatMap fun i => i.eff.chunks.map fun k => (i.gid, i.inst, k))).length
  + mine.foldl (fun n i => n + i.eff.slots) 0

/-- Whether a thread has committed effects that are not performed yet. -/
def State.pendingOf (s : State) (uid tid : Nat) : Bool :=
  s.items.any fun i => i.blk == uid && i.tid == tid && i.committed.isSome

/-- The same of some kinds of entry. -/
def State.pendingIn (s : State) (kinds : Item → Bool) (uid tid : Nat) : Bool :=
  s.items.any fun i => i.blk == uid && i.tid == tid && i.committed.isSome && kinds i

/-- Which committed entries a commit-class word waits for: none, or all. (DEDUCED, log entry 19.) -/
def drainNone : Item → Bool := fun _ => false
def drainAll : Item → Bool := fun _ => true

/-- Which a fence waits for, and a release or an acquire with a release before it: stores, reductions (those on expert counters too,
R373), wide sums and `lbarm`, where `all` is not set no store to UN memory (R116, R358). (DEDUCED, log entries 19 and 64.) -/
def drainFence (all : Bool) : Item → Bool := fun i => match i.eff with
  | .command _ => false
  | e => all || e.pieces.isEmpty || e.pieces.any fun p => p.scratch.isSome || p.ord != 2

/-- Whether a thread has open entries. -/
def State.openOf (s : State) (uid tid : Nat) : Bool :=
  s.items.any fun i => i.blk == uid && i.tid == tid && i.committed.isNone

/-- Whether a thread has a load or an atomic outstanding (R123). -/
def State.outstanding (s : State) (uid tid : Nat) : Bool := s.reqs.any fun r => r.blk == uid && r.tid == tid

/-! ### The order of entries (R82, R121, R457) -/

/-- RRMODE where the debug unit is attached to the context, else 0 (R448). -/
def State.rrMode (s : State) (ctx : Nat) : Nat :=
  if bits s.dbg.dbgctl 0 16 = ctx ∧ bitAt s.dbg.dbgctl 16 then bits s.dbg.dbgctl 24 2 else 0

/-- Whether record or replay orders an operation on a place for a context. -/
def State.recorded (s : State) (ctx : Nat) (p : Piece) : Bool :=
  s.rrMode ctx != 0 && p.scratch.isNone && p.obj != 0 && s.dbg.rrobj.contains p.obj

/-- The place of an effect that record or replay may order. -/
def Effect.atomAt : Effect → Option Piece
  | .red p _ _ _ => some p
  | .wsum p _ _ => some p
  | _ => none

/-- Whether an entry is a release. -/
def Item.isRelease (i : Item) : Bool := match i.eff with
  | .release .. => true
  | _ => false

/-- Whether an entry is a command. -/
def Item.isCommand (i : Item) : Bool := match i.eff with
  | .command _ => true
  | _ => false

/-- The recorded object on which an entry's reduction is logged. -/
def State.loggedAt (s : State) (i : Item) : Option Nat :=
  (s.block? i.blk).bind fun b => i.eff.atomAt.bind fun p => if s.recorded b.ctx p then some p.obj else none

/-- Whether two entries are lanes of one word that are performed in the order of the lanes: they name one location, or one
recorded object (R121, R272, R382, R457). -/
def State.lanesOf (s : State) (i j : Item) : Bool :=
  i.issue == j.issue && i.core == j.core
  && ((i.eff.spot.isSome && i.eff.spot == j.eff.spot) || ((s.loggedAt i).isSome && s.loggedAt i == s.loggedAt j))

/-- Whether lanes of an entry's word on its location have not committed yet: they have diverged, and the order of the lanes waits
for their commit, or for their discard. (DEDUCED, log entry 18.) -/
def State.awaitsLanes (s : State) (i : Item) : Bool := s.items.any fun j => j.committed.isNone && s.lanesOf i j

/-- Insertion by the order of commits. -/
def insertCommit (l : List Item) (i : Item) : List Item :=
  (l.takeWhile fun o => o.committed.getD 0 ≤ i.committed.getD 0) ++ [i] ++ (l.dropWhile fun o => o.committed.getD 0 ≤ i.committed.getD 0)

/-- The committed entries of a core, in the order of their commits. -/
def State.committed (s : State) (core : Nat) : List Item :=
  (s.items.filter fun i => i.core == core && i.committed.isSome).foldl insertCommit []

/-- Whether an entry stands before another in its group's or its thread's program order (R82), or for a release, which is
cumulative (R135), is one of its block that committed earlier. (DEDUCED, log entries 18 and 36.) -/
def Item.precedes (j i : Item) : Bool :=
  j.core == i.core && j.committed.isSome && j.blk == i.blk && j.issue != i.issue
  && (((j.gid == i.gid || j.tid == i.tid) && decide (j.issue < i.issue))
    || (i.isRelease && decide (j.committed.getD 0 < i.committed.getD 0)))

/-- The first of some entries, in the order of their commits, that no one that waits (`left`) precedes.
(DEDUCED, log entry 18.) -/
def firstFree (held : Item → Bool) : List Item → List Item → Option Item
  | [], _ => none
  | i :: is, left => if held i || left.any fun j => j.precedes i then firstFree held is (left ++ [i]) else some i

/-- Whether a committed entry of a block can still be performed, so that a word that is refused entries waits for it: one behind
lanes that have not committed cannot, since the device never waits for those (R83). (DEDUCED, log entry 18.) -/
def State.drains (s : State) (uid : Nat) : Bool :=
  (firstFree s.awaitsLanes ((s.items.filter fun i => i.blk == uid && i.committed.isSome).foldl insertCommit []) []).isSome

/-! ### Forwarding (R81) -/

/-- The byte that the latest of a thread's own stores to byte k of a piece holds (R81). -/
def forwardByte (mine : List Item) (q : Piece) (k : Nat) : Option Byte :=
  mine.foldl (fun acc i =>
    let at1 (ps : List Piece) (data : Nat) : Option Byte :=
      let bs := natToBytes (ps.foldl (fun n p => n + p.len) 0) data
      (ps.foldl (fun (st : Nat × Option Byte) p =>
        (st.1 + p.len, match p.holds q k with
          | some j => some (bs.getD (st.1 + j) 0)
          | none => st.2)) (0, none)).2
    let hit := match i.eff with
      | .store ps data => at1 ps data
      | .release ps data _ => at1 ps data
      | .cap p b _ => at1 [p] b
      | _ => none
    match hit with
    | some v => some v
    | none => acc) none

/-- The tag that a load of a granule takes from the thread's own stores, where one reaches it (R81). -/
def forwardTag (mine : List Item) (q : Piece) : Option Bool :=
  let reaches (p : Piece) : Bool := p.scratch.isNone && p.meets q
  mine.foldl (fun acc i => match i.eff with
    | .store ps _ => if ps.any reaches then some false else acc
    | .release ps _ _ => if ps.any reaches then some false else acc
    | .cap p _ t => if reaches p then some t else acc
    | _ => acc) none

/-- The bytes of an access that come from the thread's own buffered stores, by place in the access (R81). -/
def State.forwarded (s : State) (uid tid : Nat) (ps : List Piece) : List (Nat × Byte) :=
  let mine := s.items.filter fun i => i.blk == uid && i.tid == tid
  (ps.foldl (fun (st : Nat × List (Nat × Byte)) p =>
    (st.1 + p.len, st.2 ++ (List.range p.len).filterMap fun k =>
      (forwardByte mine p k).map fun v => (st.1 + k, v))) (0, [])).2

/-- Bytes with the forwarded ones in place. -/
def overlay (bs : List Byte) (fwd : List (Nat × Byte)) : List Byte := fwd.foldl (fun l f => l.set f.1 f.2) bs

/-! ### Record and replay counters (R456) -/

/-- Whether TRACE is set for the context. -/
def State.tracing (s : State) (ctx : Nat) : Bool :=
  bits s.dbg.dbgctl 0 16 == ctx && bitAt s.dbg.dbgctl 16 && bitAt s.dbg.dbgctl 17

/-- Whether a debug unit is attached to the context. -/
def State.attached (s : State) (ctx : Nat) : Bool := bits s.dbg.dbgctl 0 16 == ctx && bitAt s.dbg.dbgctl 16

/-- One step of SHASH: rotate left by one, then exclusive or. -/
def hashStep (h k : Nat) : Nat := ((h * 2 % 2 ^ 64 + h / 2 ^ 63) ^^^ (k % 2 ^ 64))

/-- SHASH after a write of data at a place (R456). -/
def hashWrite (h obj o d : Nat) : Nat := hashStep (hashStep h ((obj % 2 ^ 16) * 2 ^ 48 ||| o)) d

/-- Object and offset of a place as SHASH takes them. -/
def Piece.hashKey (p : Piece) : Nat × Nat := if p.scratch.isSome then (0, p.off) else (p.obj, p.off)

/-- SHASH after an effect (R456). -/
def Effect.hash (h : Nat) : Effect → Nat
  | .store (p :: _) d => hashWrite h p.hashKey.1 p.hashKey.2 d
  | .release (p :: _) d _ => hashWrite h p.hashKey.1 p.hashKey.2 d
  | .cap p b _ => hashWrite (hashWrite h p.hashKey.1 p.hashKey.2 (b % 2 ^ 64)) p.hashKey.1 (p.hashKey.2 + 8) (b / 2 ^ 64)
  | .red p _ _ d => hashWrite h p.hashKey.1 p.hashKey.2 d
  | .wsum p _ d => hashWrite h p.hashKey.1 p.hashKey.2 d
  | _ => h

/-! ### Trace records (R449, R452) -/

/-- A record enters its quad's buffer, or is dropped and counted where the buffer is full (R454). -/
def State.fileRecord (s : State) (r : TraceRec) : State :=
  if (s.dbg.buffer.filter fun t => t.quad == r.quad && !t.stop).length < 512 then
    { s with dbg := { s.dbg with buffer := s.dbg.buffer ++ [r] } }
  else
    let n := lookupD 0 r.quad s.dbg.lost
    { s with dbg := { s.dbg with lost := setAt r.quad (if n < 2 ^ 32 - 1 then n + 1 else n) s.dbg.lost } }

/-- The header of a record without its number (R449). -/
def State.recordHead (s : State) (b : Block) (tid type info : Nat) : List Nat :=
  let lord := match s.launch? b.launch with
    | some l => l.lord
    | none => 0
  [type + info * 2 ^ 8 + b.ctx * 2 ^ 16, lord % 2 ^ 32 + b.blk * 2 ^ 32, tid + b.core * 2 ^ 10, b.bphase + b.gphase * 2 ^ 32]

/-- %cycle of a core (R400): its arithmetic clocks since its own reset, which advance at the rate of its die (R465).
(DESIGN CHOICE, log entry 4.) -/
def State.cycle (s : State) (core : Nat) : Word :=
  Config.freeStart core + BitVec.ofNat 64 (s.power.beats.getD (dieOf core) 0 / 16)

/-- The window in which a unit counts its mismatches (R446), by %cycle of its core, for a Press that of the quad's first core;
the unit is as %unit names it (R402). (DESIGN CHOICE, log entry 111.) -/
def State.sdcWindow (s : State) (unit : Nat) : Nat :=
  let num := bits unit 3 10
  (s.cycle (if bits unit 0 3 = 2 then 4 * num else num)).toNat / 2 ^ s.rel.sdcwin

/-- A record filed in the block's quad: its header, then four dwords. `held` as in `TraceRec`.
(DESIGN CHOICE, log entry 4; DEDUCED, log entries 30 and 80.) -/
def State.trace (s : State) (b : Block) (tid type info d4 d5 d7 : Nat) (held : Option (Nat × Nat × Nat)) : State :=
  if s.tracing b.ctx then
    let r : TraceRec :=
      { quad := quadOf b.core, stop := false, held := held,
        words := s.recordHead b tid type info ++ [d4, d5, (s.cycle b.core).toNat, d7] }
    s.fileRecord r
  else s

/-! ### Contact sheets (R453) -/

/-- Where a request for a piece is served (R453): `l1` says that L1 serves it, `load` that it is a load, which the core's
remote-data cache may serve; every other request is performed at the home (R74, R75). (DEDUCED, log entry 34.) -/
def State.servedBy (s : State) (core : Nat) (p : Piece) (l1 load : Bool) : Nat :=
  if l1 then 1
  else if p.peer.isSome then (if load && s.heldRemote (dieOf core) p then 2 else 7)
  else if load && (linesOf p.addr p.len).any fun l => s.caches.rdc.any fun r => r.die == dieOf core && r.line == l && r.peer.isNone then 2
  else if p.cached && (linesOf p.addr p.len).any fun l => s.caches.home.any fun h => h.die == p.servedAt p.addr && h.line == l then 3
  else if 2 ^ 80 ≤ p.addr then 6
  else if (poolPort (p.addr / 65536)).isSome then 5
  else 4

/-- n more requests of a core are counted: whether one of them is a 2^CSLOG2-th. (DEDUCED, log entry 34.) -/
def State.countRequests (s : State) (ctx core n : Nat) : State × Bool :=
  if s.attached ctx && bitAt s.dbg.dbgctl 18 then
    let c := lookupD 0 core s.dbg.sampled
    let k := 2 ^ bits s.dbg.dbgctl 19 5
    ({ s with dbg := { s.dbg with sampled := setAt core ((c + n) % 2 ^ 64) s.dbg.sampled } }, (c + n) / k != c / k)
  else (s, false)

/-- A contact sheet for a request of a thread's word at a PC. (DESIGN CHOICE, log entry 4.) -/
def State.contactSheet (s : State) (uid tid pc : Nat) (p : Piece) (src : Nat) : State :=
  match s.block? uid with
  | none => s
  | some b =>
    let r : TraceRec :=
      { quad := quadOf b.core, stop := false,
        words := s.recordHead b tid 0x20 0 ++ [pc + src * 2 ^ 48, p.off % 2 ^ 48, (Config.freeStages s.sched.fresh).toNat,
                  (Config.freeStages (s.sched.fresh + 1)).toNat % 2 ^ 32 + p.obj * 2 ^ 32] }
    s.tick.tick.fileRecord r

/-- The lines of memory that pieces touch, with the peer that has them: one request of the memory port each (R72). -/
def peerLines (ps : List Piece) : List (Option Nat × Nat) :=
  distinct ((ps.filter fun p => p.scratch.isNone).flatMap fun p => (linesOf p.addr p.len).map fun l => (p.peer, l))

/-- A performed effect is counted as requests of its core, and sampled (R453): lanes of one word that touch one line are one
request (R72), counted with the first lane, or where they wait in the store buffer with the last one; `others` are the pieces of
the lanes that count their lines themselves. (DEDUCED, log entry 34.) -/
def State.sampleItem (s : State) (i : Item) (others : List Piece) : State :=
  match s.block? i.blk, i.eff.pieces.filter fun p => p.scratch.isNone with
  | some b, p :: ps =>
    let r := s.countRequests b.ctx i.core ((peerLines (p :: ps)).filter fun l => !((peerLines others).contains l)).length
    if r.2 then r.1.contactSheet i.blk i.tid i.pc p (s.servedBy i.core p false false) else r.1
  | _, _ => s

/-- The pieces of the other lanes of a committed entry's word that are still to be performed. (DEDUCED, log entry 34.) -/
def State.otherLanes (s : State) (i : Item) : List Piece :=
  (s.items.filter fun j => j.id != i.id && j.core == i.core && j.issue == i.issue && j.committed.isSome && j.sent.isEmpty).flatMap
    fun j => j.eff.pieces

/-- Held records of a thread's instance become final with its commit, or go with its discard. (DEDUCED, log entry 80.) -/
def State.settleTrace (s : State) (uid tid inst : Nat) (final : Bool) : State :=
  let settle (t : TraceRec) : Option TraceRec :=
    if t.held = some (uid, tid, inst) then (if final then some { t with held := none } else none) else some t
  { s with dbg := { s.dbg with buffer := s.dbg.buffer.filterMap settle } }

/-! ### Buffering, commit, discard -/

/-- An effect of a lane enters the store buffer (R79). -/
def State.buffer (s : State) (core uid tid gid inst issue : Nat) (eff : Effect) : State :=
  let ret := match s.thread? uid tid with
    | some x => x.retired + 1
    | none => 0
  let i : Item := { id := s.sched.nextId, core := core, blk := uid, tid := tid, gid := gid, inst := inst, issue := issue,
                    ret := ret, eff := eff,
                    pc := match s.group? gid with
                      | some g => pc48 g.pc
                      | none => 0 }
  { s.bump with items := s.items ++ [i] }

/-- Open entries of threads become committed, in the order they stand (R82): entries with their place in the order of
commits, and the next place. -/
def commitItems (uid : Nat) (tids : List Nat) (now : Nat) : List Item → Nat → List Item × Nat
  | [], n => ([], n)
  | i :: is, n =>
    if i.blk = uid ∧ tids.contains i.tid ∧ i.committed = none then
      let r := commitItems uid tids now is (n + 1)
      ({ i with committed := some n, gateSince := now } :: r.1, r.2)
    else
      let r := commitItems uid tids now is n
      (i :: r.1, r.2)

/-- SHASH of a thread at its commit, over the open entries that commit (R456). -/
def commitHash (uid tid : Nat) (items : List Item) (h : Nat) : Nat :=
  items.foldl (fun h i => if i.blk = uid ∧ i.tid = tid ∧ i.committed = none then i.eff.hash h else h) h

/-- Committed entries carry SHASH of their thread including them (R457); RETIRED they carry from their issue. -/
def stampItems (uid : Nat) (tids : List Nat) : List Item → List (Nat × Nat) → List Item
  | [], _ => []
  | i :: is, hs =>
    if i.blk = uid ∧ tids.contains i.tid ∧ i.committed = none then
      let h := i.eff.hash (lookupD 0 i.tid hs)
      { i with hash := h } :: stampItems uid tids is (setAt i.tid h hs)
    else i :: stampItems uid tids is hs

/-- The commit of the instances of threads (R82, R202, R456): their entries become committed; counters are
snapshotted. What `cancel` does at the commit is added where instructions commit. -/
def State.commit (s : State) (uid : Nat) (tids : List Nat) : State :=
  match s.block? uid with
  | none => s
  | some b =>
    let rec1 := s.rrMode b.ctx ≠ 0
    let stamped := if rec1 then
        stampItems uid tids s.items (b.threads.foldl (fun l x => setAt x.tid x.shash l) [])
      else s.items
    let r := commitItems uid tids s.sched.now stamped s.sched.commits
    let s1 := s.updBlock uid fun b => b.updThreads fun x =>
      if tids.contains x.tid then
        let h := if rec1 then commitHash uid x.tid s.items x.shash else x.shash
        { x with shash := h, retSnap := x.retired, hashSnap := h }
      else x
    let s2 := { s1 with items := r.1, sched := { s1.sched with commits := r.2 } }
    b.threads.foldl (fun s x => if tids.contains x.tid then s.settleTrace uid x.tid x.inst true else s) s2

/-- Whether a request is a returning atomic. A discard forgets every outstanding load of its thread; an atomic is performed
all the same (R122, R124). -/
def ReqKind.isAtom : ReqKind → Bool
  | .atom .. => true
  | _ => false
def Req.isAtom (r : Req) : Bool := r.kind.isAtom

/-- The descriptor's PINONLY and NOMIGRATE (R204). (DEDUCED, log entry 11.) -/
def pinOnly (desc : List Nat) : Bool := bitAt (desc.getD 7 0) 0
def noMigrate (desc : List Nat) : Bool := bitAt (desc.getD 7 0) 1

/-- The re-entry limit of a context (R209). -/
def State.reLimit (s : State) (ctx : Nat) : Nat :=
  match s.ctx? ctx with
  | some c => c.relimit
  | none => 8

/-- The region state of a thread after its instance is discarded (R213).
(DESIGN CHOICE, log entry 9; DEDUCED, log entry 32.) -/
def Thread.discarded (x : Thread) (limit : Nat) (overflow : Bool) : Thread :=
  let n := if x.count + 1 > 255 then 255 else x.count + 1
  { x with pc := x.rgnpc, fpflags := x.fpsnap, mstat := x.mssnap, count := n, dirtyV := [], dirtyP := [], dirtyC := [],
           pinned := pinOnly x.desc || overflow || decide (n ≥ limit), perf := false, cancels := [],
           retired := x.retSnap, mid := false, kept := {} }

/-- A thread's instance goes (R213): open entries are freed, outstanding loads are forgotten. Where the thread goes is its
caller's. -/
def State.forget (s : State) (uid tid : Nat) (overflow : Bool) : State :=
  match s.block? uid with
  | none => s
  | some b =>
    let inst := match b.thread? tid with
      | some x => x.inst
      | none => 0
    let s1 := s.updThread uid tid fun x => x.discarded (s.reLimit b.ctx) overflow
    ({ s1 with
        items := s1.items.filter fun i => !(i.blk == uid && i.tid == tid && i.committed.isNone)
        reqs := s1.reqs.filter fun r => !(r.blk == uid && r.tid == tid && !r.isAtom) }).settleTrace uid tid inst false

/-- Whether a discard passes a thread over: it has performed an effect (R211, R213), its commit-class word has committed, or it
is at the `rgn` after one that it has performed (R215). (DEDUCED, log entry 31.) -/
def Thread.spared (x : Thread) : Bool := x.perf || x.mid || x.bound

/-- A thread's instance is discarded (R213), unless the thread is spared. (DEDUCED, log entry 31.) -/
def State.discard (s : State) (uid tid : Nat) (overflow : Bool) : State :=
  if (s.thread? uid tid).any Thread.spared then s else s.forget uid tid overflow

/-! ### Performing an effect (R82, R210) -/

/-- A count of an expert (R382). -/
def State.countExpert (s : State) (idx amount : Nat) : State :=
  { s with tables := { s.tables with act := setAt idx ((lookupD 0 idx s.tables.act + amount) % 2 ^ 64) s.tables.act } }

/-- The bytes of a list of pieces. -/
def lenOf (ps : List Piece) : Nat := ps.foldl (fun n p => n + p.len) 0

/-- A memory effect is performed once (R82); a command enters its queue elsewhere (R143). -/
def State.perform (s : State) (core : Nat) : Effect → State
  | .store ps data => s.writePieces (some core) ps (natToBytes (lenOf ps) data)
  | .release ps data _ => s.writePieces (some core) ps (natToBytes (lenOf ps) data)
  | .cap p b tag => s.writePiece (some core) p (natToBytes 16 b) tag
  | .red p op t opnd => (s.atomPiece (some core) p op t opnd 0).1
  | .wsum p q _ => s.wsumPiece (some core) p q
  | .arm p e => match p.scratch with
    | some u => s.creditAt u p.addr 0 (some e)
    | none => s
  | .count idx amount => s.countExpert idx amount
  | .command _ => s

end Sys2Proof.Machine
end

