-- ==== Sys2Proof/Machine/Groups.lean ====
section
/-!
DEFINITION. Issue groups and reform bins: filing, drawing, leaving (R175 to R179), the issue selector's record (R231),
watch entries (R156), barriers (R396), and bringing the threads of a block to a state in which it may be saved
(R214 to R216, R397).
-/

namespace Sys2Proof.Machine

open Sys2Proof

/-- The bins of a partition. -/
def State.binsOf (s : State) (core part : Nat) : List Bin := s.bins.filter fun b => b.core == core && b.part == part

/-- Whether a thread of a block is in a group of a partition. -/
def State.busy (s : State) (core part uid : Nat) : Bool :=
  s.groups.any fun g => g.core == core && g.part == part && g.blk == uid

/-- A bin is drawn: its threads form a group (R179). -/
def State.draw (s : State) (b : Bin) : State :=
  let g : Group := { gid := s.sched.nextId, blk := b.blk, core := b.core, part := b.part, space := b.space, pc := b.pc,
                     tids := b.tids, formed := s.sched.now, lastIssue := s.sched.now, readyAt := s.sched.now + 1 }
  let s1 := { s.bump with
    bins := s.bins.filter fun c => !(c.core == b.core && c.part == b.part && c.idx == b.idx)
    groups := s.groups ++ [g] }
  s1.updBlock b.blk fun k => k.updThreads fun x => if b.tids.contains x.tid then { x with st := .running } else x

/-- The bin to evict: the smallest FIRST, ties to the lower PC (R179), further ties to the one that stands earlier in the
list. (DESIGN CHOICE, log entry 102.) -/
def evictee : List Bin → Option Bin
  | [] => none
  | b :: bs => match evictee bs with
    | none => some b
    | some c => some (if c.first < b.first ∨ (c.first = b.first ∧ c.pc < b.pc) then c else b)

/-- The lowest bin of a partition that is empty. -/
def freeBin (bs : List Bin) : Nat :=
  leastOf 0 ((List.range 16).filter fun i => !(bs.any fun b => b.idx == i))

/-- One thread is filed under a PC (R179). -/
def State.file (s : State) (uid tid : Nat) (pc : Int) (space : Space) : State :=
  match s.block? uid with
  | none => s
  | some b =>
    let part := partOf tid
    if s.groups.any fun g => g.blk == uid && g.runner == some tid then
      -- the runner of a frozen group goes on in its group (R243)
      let go (g : Group) : Group := if g.blk = uid ∧ g.runner = some tid then { g with pc := pc } else g
      { s.updThread uid tid (fun x => { x with st := .running, pc := pc, space := space }) with groups := s.groups.map go }
    else
    let s1 := s.updThread uid tid fun x => { x with st := .filed, pc := pc, space := space }
    let fits (c : Bin) : Bool := c.core == b.core && c.part == part && c.blk == uid && c.pc == pc && c.space == space
      && !(c.tids.any fun t => laneOf t == laneOf tid)
    match s1.bins.find? fits with
    | some c =>
      let join (d : Bin) : Bin := if d.core = c.core ∧ d.part = c.part ∧ d.idx = c.idx then { d with tids := d.tids ++ [tid] } else d
      { s1 with bins := s1.bins.map join }
    | none =>
      let s2 := if (s1.binsOf b.core part).length ≥ 16 then
          match evictee (s1.binsOf b.core part) with
          | some c => s1.draw c
          | none => s1
        else s1
      let new : Bin := { core := b.core, part := part, idx := freeBin (s2.binsOf b.core part), blk := uid, space := space,
                         pc := pc, tids := [tid], first := s2.sched.now }
      { s2 with bins := s2.bins ++ [new] }

/-- Threads are filed in ascending home lane, each under its own PC and code space. -/
def State.fileAll (s : State) (uid : Nat) (xs : List Thread) : State :=
  (sortByLane xs).foldl (fun s x => s.file uid x.tid x.pc x.space) s

/-- Whether a thread sleeps on a barrier (R396). -/
def Thread.atBarrier (x : Thread) : Bool := x.st == .atBar || x.st == .atGbar

/-- Whether a thread has neither exited nor been taken for a save. -/
def Thread.alive (x : Thread) : Bool := x.st != .exited && x.st != .saved

/-- Whether a save must wait for a thread: it has performed an effect (PERF), runs a handler, or is within a commit-class word
(R212, R244); one that sleeps on a barrier only where no `rgn` follows it (R397). (DEDUCED, log entry 90.) -/
def Thread.holdsSave (x : Thread) : Bool :=
  x.alive && (x.handler.isSome || (if x.atBarrier then !x.rgnNext else x.perf || x.st == .trapWait || x.mid))

/-- Whether a thread of a block that is to be saved or to end runs on: a save must wait for it, or it is pinned and has not
executed its next `rgn` while `cancel` ends its block (R187). What sleeps on a barrier then has nothing to run on to.
(DEDUCED, log entry 90.) -/
def Thread.runsOn (x : Thread) (why : Option SaveFor) : Bool :=
  if why = some .cancel then x.alive && (x.handler.isSome || (!x.atBarrier && (x.holdsSave || x.pinned))) else x.holdsSave

/-- Whether a bin is held back: its block is halted, or a save of its block is under way that waits for none of its
threads. (DEDUCED, log entry 90.) -/
def State.heldBin (s : State) (b : Bin) : Bool := (s.block? b.blk).any fun k =>
  k.halt.isSome || (k.save.isSome && !((k.members b.tids).any fun x => x.runsOn k.save))

/-- Every bin of a partition that is full or complete is drawn (R179); aged ones are drawn by an event. -/
def State.drawAll (s : State) (core part : Nat) : State :=
  let ready (b : Bin) : Bool :=
    b.core == core && b.part == part
    && !(s.heldBin b)
    && (b.tids.length ≥ 32 || !(s.busy core part b.blk))
  (s.bins.filter ready).foldl State.draw s

/-- Every partition of a core is drawn. -/
def State.drawCore (s : State) (core : Nat) : State := (List.range 8).foldl (fun s p => s.drawAll core p) s

/-- A thread leaves its group, which ends when nobody is left (R176). -/
def State.leave (s : State) (uid tid : Nat) : State :=
  { s with groups := s.groups.filterMap fun g =>
      if g.blk = uid ∧ g.tids.contains tid then
        (if (g.tids.filter fun t => t != tid).isEmpty then none else some { g with tids := g.tids.filter fun t => t != tid })
      else some g }

/-- A thread leaves the bin that holds it. -/
def State.unfile (s : State) (uid tid : Nat) : State :=
  { s with bins := s.bins.filterMap fun b =>
      if b.blk = uid ∧ b.tids.contains tid then
        (if (b.tids.filter fun t => t != tid).isEmpty then none else some { b with tids := b.tids.filter fun t => t != tid })
      else some b }

/-- A thread falls asleep: it leaves its group, unless it runs the handler of a frozen one (R175, R243). -/
def State.sleep (s : State) (uid tid : Nat) (st : TState) : State :=
  let runs := s.groups.any fun g => g.blk == uid && g.runner == some tid
  (if runs then s else s.leave uid tid).updThread uid tid fun x => { x with st := st, sleptAt := s.sched.now }

/-- The lowest of a list of PCs, or a default. -/
def lowestPc (d : Int) : List Int → Int
  | [] => d
  | p :: ps => ps.foldl (fun m q => if q < m then q else m) p

/-- A group after a word: the threads at the lowest next PC stay, each other one is filed (R176). The threads carry
their next PCs. A frozen group goes on with its runner alone (R243). -/
def State.regroup (s : State) (gid : Nat) : State :=
  match s.group? gid with
  | none => s
  | some g =>
    match s.block? g.blk, g.runner with
    | none, _ => s
    | some b, some t =>
      let pc := match b.thread? t with
        | some x => x.pc
        | none => g.pc
      s.updGroup gid fun g => { g with pc := pc, lastIssue := s.sched.now }
    | some b, none =>
      let xs := b.members g.tids
      let low := lowestPc g.pc (xs.map Thread.pc)
      let stay := (xs.filter fun x => x.pc == low).map Thread.tid
      let go := xs.filter fun x => x.pc != low
      let s1 := s.updGroup gid fun g =>
        { g with tids := g.tids.filter fun t => stay.contains t, pc := low, st := .ready, lastIssue := s.sched.now }
      (s1.fileAll g.blk go).drawAll g.core g.part

/-! ### Watches (R156) -/

/-- The targets that a core's watch entries hold. -/
def State.watchTargets (s : State) (core : Nat) : List (Option Nat × Nat) :=
  distinct ((s.blocks.filter fun b => b.core == core && b.st == .resident).flatMap fun b =>
    b.threads.filterMap fun x => match x.watch with
      | some w => if w.hasEntry then some (w.scratch, if w.scratch.isSome then w.addr / 4 else w.addr / 128) else none
      | none => none)

/-- A thread arms a watch in place of its earlier one; with no free entry it is unwatched (R156). -/
def State.armWatch (s : State) (uid tid core : Nat) (scratch : Option Nat) (addr : Nat) : State :=
  let s1 := s.updThread uid tid fun x => { x with watch := none }
  let key := (scratch, if scratch.isSome then addr / 4 else addr / 128)
  let held := s1.watchTargets core
  let w : Watch := { scratch := scratch, addr := addr, hasEntry := held.contains key || decide (held.length < 64), triggered := false }
  s1.updThread uid tid fun x => { x with watch := some w }

/-! ### Barriers (R396, R137) -/

/-- The blocks of a gang that includes a block: the block alone outside a gang. -/
def State.gangOf (s : State) (b : Block) : List Block :=
  if b.gangSize ≤ 1 then s.blocks.filter fun k => k.uid == b.uid
  else s.blocks.filter fun k => k.launch == b.launch && k.gang == b.gang && k.st != .finished

/-- A thread that has performed a barrier or another commit-class word is filed at the next word; it is at a boundary
where that word is `rgn` and pinned with PERF where it is not (R207, R215). -/
def Thread.afterCommit (x : Thread) (rgnNext : Bool) : Thread :=
  if x.handler.isSome then x
  else if rgnNext then { x with bound := true }
  else { x with bound := false, pinned := true, perf := true }

/-- The pc after the word of a thread that waits on a barrier. -/
def wakeFrom (st : TState) (xs : List Thread) : List Thread := xs.filter fun x => x.st == st

/-- The threads of a block that have arrived at its barrier are woken (R396). `rgnAt` says whether the word at a PC is
`rgn`. -/
def State.wakeBlock (s : State) (uid : Nat) (st : TState) (rgnAt : Thread → Bool) : State :=
  match s.block? uid with
  | none => s
  | some b =>
    let xs := (wakeFrom st b.threads).map fun x => { x.afterCommit (rgnAt x) with pc := x.pc + 8 }
    let set (x : Thread) : Thread := match xs.find? fun y => y.tid == x.tid with
      | some y => y
      | none => x
    ((s.updBlock uid fun b => b.updThreads set).fileAll uid xs).drawCore b.core

/-- Whether every thread of a block that has not exited stands at a barrier. -/
def Block.allAt (b : Block) (st : TState) : Bool := b.threads.all fun x => x.st == st || x.st == .exited

/-- A barrier phase completes where the last arrival, or an exit, makes it (R396): %phase, the L1 drop of a `gbar`
(R70, R137), and the waking of every arrived thread. -/
def State.barrier (s : State) (uid : Nat) (gang : Bool) (rgnAt : Block → Thread → Bool) : State :=
  match s.block? uid with
  | none => s
  | some b =>
    if gang then
      let bs := s.gangOf b
      if bs.all (fun k => k.allAt .atGbar) && bs.any (fun k => k.threads.any fun x => x.st == .atGbar) then
        let s1 := bs.foldl (fun s k => (s.updBlock k.uid fun k => { k with gphase := (k.gphase + 1) % 2 ^ 32 }).dropL1 k.core [1] none) s
        let s2 := bs.foldl (fun s k => s.trace { k with gphase := (k.gphase + 1) % 2 ^ 32 } 0 0x13 1 0 0 0 none) s1
        bs.foldl (fun s k => s.wakeBlock k.uid .atGbar (rgnAt k)) s2
      else s
    else if b.allAt .atBar && b.threads.any (fun x => x.st == .atBar) then
      let s1 := s.updBlock uid fun k => { k with bphase := (k.bphase + 1) % 2 ^ 32 }
      let s2 := s1.trace { b with bphase := (b.bphase + 1) % 2 ^ 32 } 0 0x13 0 0 0 0 none
      s2.wakeBlock uid .atBar (rgnAt b)
    else s

/-! ### Holding a block's threads for a save (R214 to R216, R397) -/

/-- Whether a thread is at a boundary (R215) or waits at a phase that has not completed (R397).
(DEDUCED, log entry 31.) -/
def Thread.boundary (x : Thread) : Bool := x.bound || x.st == .asleep || x.st == .atBar || x.st == .atGbar

/-- A thread asleep in `mwait` wakes: its watch is disarmed and it is filed under its next PC (R158). -/
def State.wakeThread (s : State) (uid tid : Nat) : State :=
  match s.block? uid, s.thread? uid tid with
  | some b, some x =>
    (((s.updThread uid tid fun x => { x with watch := none }).file uid tid x.pc x.space).drawAll b.core (partOf tid))
  | _, _ => s

/-- Whether a thread stands frozen while another of its group runs the handler of the group's trap, or waits to enter it
(R243, R247). -/
def State.frozenBy (s : State) (uid tid : Nat) : Bool :=
  s.groups.any fun g => g.blk == uid && g.tids.contains tid && g.gmask != 0 && g.runner != some tid
    && !(s.thread? uid tid).any fun x => x.st == .trapWait

/-- One thread is taken out of the running for a save, unless the save must wait for it or for its group's handler: discarded,
or kept as it stands at a boundary. One that waits on a barrier keeps the mark that its word is not performed (R397), and one
that the save waits for wakes from `mwait` (R158). (DEDUCED, log entry 90.) -/
def State.holdThread (s : State) (uid tid : Nat) : State :=
  match s.thread? uid tid with
  | none => s
  | some x =>
    if !x.alive || s.frozenBy uid tid then s
    else if x.runsOn ((s.block? uid).bind Block.save) then (if x.st == .asleep then s.wakeThread uid tid else s)
    else
      let s1 := if x.boundary then s else s.discard uid tid false
      let s2 := (s1.leave uid tid).unfile uid tid
      s2.updThread uid tid fun y => { y with st := .saved, watch := none, mid := x.atBarrier }

/-- Every thread of a block that a save need not wait for is taken out of the running, and bins that this completes are drawn
(R179, R216). -/
def State.holdThreads (s : State) (uid : Nat) : State :=
  match s.block? uid with
  | none => s
  | some b => (b.threads.foldl (fun s x => s.holdThread uid x.tid) s).drawCore b.core

/-- A block that was to migrate stays: a thread of it has begun a NOMIGRATE instance (R204, R214), and its held threads run on.
(DEDUCED, log entry 91.) -/
def State.stay (s : State) (uid : Nat) : State :=
  match s.block? uid with
  | none => s
  | some b => match b.save with
    | some (.migrate _ _) =>
      let back (x : Thread) : Thread := if x.st = .saved then { x with mid := false } else x
      let s1 := s.updBlock uid fun k => { k.updThreads back with save := none }
      let free (k : Block) : Block := if k.awaits.contains b.core then { k with awaits := [] } else k
      let s2 : State := { s1 with blocks := s1.blocks.map free }
      (s2.fileAll uid (b.threads.filter fun (x : Thread) => x.st == TState.saved)).drawCore b.core
    | _ => s

/-- Which reason of a save stands when two meet: an end before a save, a block's own word before another's wish.
(DEDUCED, log entry 56.) -/
def SaveFor.rank : SaveFor → Nat
  | .migrate _ _ => 0
  | .preempt => 1
  | .relocate => 1
  | .waitc => 2
  | .yield => 3
  | .poison => 4
  | .cancel => 5
  | .kill => 6

/-- A save of a resident block is asked for, with its reason (R187, R216, R252). (DEDUCED, log entries 17 and 56.) -/
def State.askSave (s : State) (uid : Nat) (why : SaveFor) : State :=
  s.updBlock uid fun b =>
    if b.st ≠ .resident then b
    else match b.save with
      | none => { b with save := some why, saveSince := s.sched.now }
      | some old => if old.rank < why.rank then { b with save := some why } else b

/-- A save of a block begins (R216): its reason, and every thread that it need not wait for. -/
def State.beginSave (s : State) (uid : Nat) (why : SaveFor) : State :=
  match s.block? uid with
  | none => s
  | some b => if b.st ≠ .resident then s else (s.askSave uid why).holdThreads uid

/-- Resident blocks are saved to go on on another quad, each with its gang (R181, R445, R447). (DEDUCED, log entry 91.) -/
def State.relocateBlocks (s : State) (bs : List Block) : State :=
  (bs.flatMap fun b => s.gangOf b).foldl (fun s b =>
    (s.beginSave b.uid .relocate).updBlock b.uid fun k =>
      if k.st = .resident then { k with fromQuad := some (quadOf k.core) } else k) s

/-- One thread of a block that is to end is taken out of the running: its open entries are freed, its outstanding loads are
forgotten (R187, R218, R252). (DEDUCED, log entry 90.) -/
def State.cutShort (s : State) (uid tid : Nat) : State :=
  (((s.forget uid tid false).leave uid tid).unfile uid tid).updThread uid tid fun x => { x with st := .saved, watch := none }

/-- The threads of a block that is to end are taken out of the running at once. With `pinnedToo` unset, pinned threads run on
to their next `rgn`, those in handlers and within a commit-class word to its end, and bins that this completes are drawn. -/
def State.endThreads (s : State) (uid : Nat) (pinnedToo : Bool) : State :=
  match s.block? uid with
  | none => s
  | some b =>
    (b.threads.foldl (fun s x =>
      if !x.alive || (!pinnedToo && s.frozenBy uid x.tid) then s
      else if !pinnedToo && x.runsOn (some .cancel) then (if x.st == .asleep then s.wakeThread uid x.tid else s)
      else s.cutShort uid x.tid) s).drawCore
      b.core

/-- A block that is to end waits for no record of a save any more; answers to its exit record stay. -/
def Block.dropAnswers (b : Block) : Block :=
  if b.threads.all fun x => x.st == .exited then b else { b with exitWait := [], lost := [] }

/-- A block is to end with a status (R184): by poison (2) or a context stop (4), at once. -/
def State.killBlock (s : State) (uid status : Nat) : State :=
  (s.updBlock uid fun b => { b.dropAnswers with save := some .kill, status := status, saveSince := s.sched.now }).endThreads uid true

end Sys2Proof.Machine
end

