-- ==== Sys2Proof/Machine/Work.lean ====
section
/-!
DEFINITION. Objects that the device itself reads and writes, save slots (R247), firmware events (R437, R438), fault
records (R51, R52), the release of launches (R221), counters (R186), `cancel` (R187) and the stop of a context (R252).
-/

namespace Sys2Proof.Machine

open Sys2Proof

/-! ### Device access to an HBM object -/

/-- Where n bytes of an HBM object lie that the device itself uses (SAVEOBJ, R241): none where the object or the frame
does not hold them. -/
def State.devPlace (s : State) (c : Ctx) (obj off n : Nat) : Option Piece :=
  let a := c.otb + 32 * obj
  if obj = 0 ∨ obj ≥ c.otn ∨ s.hbmHas a 32 = false then none
  else
    let e := readEntry s.mem a
    let fa := entryMap e + 8 * (off / 65536)
    if entryInvalid e ∨ entryKind e ≠ 0 ∨ off + n > entryLen e ∨ s.hbmHas fa 8 = false then none
    else
      let fd := s.mem.read fa 8
      if bitAt fd 0 = false ∨ s.malformed fd none then none else some (s.placeOf 0 fd c.n obj off n)

/-- A piece of memory written by the device itself; in a pool, around the caches. -/
def devPiece (a n : Nat) : Piece := { addr := a, len := n, cached := decide (a < 2 ^ 54), home := a / 2 ^ 36 % 8 }

/-- Bytes written by the device at a physical address (R23, R62, R74, R157). (DEDUCED, log entry 29.) -/
def State.devWrite (s : State) (a : Nat) (bs : List Byte) : State := s.writePiece none (devPiece a bs.length) bs

/-- A number written by the device. -/
def State.devStore (s : State) (a n v : Nat) : State := s.devWrite a (natToBytes n v)

/-- Bytes written into an object by the device, piece by piece, under the cacheability of its frames and in every copy of a
replicated one (R44, R76); none where some piece has no place. -/
def objWritePieces (c : Ctx) (obj : Nat) : List (Nat × Nat) → List Byte → State → Option State
  | [], _, s => some s
  | (o, n) :: r, bs, s => match s.devPlace c obj o n with
    | some p => objWritePieces c obj r (bs.drop n) (s.writePiece none p (bs.take n))
    | none => none

def State.objWrite (s : State) (c : Ctx) (obj off : Nat) (bs : List Byte) : Option State :=
  objWritePieces c obj (splitFrames 65536 (bs.length / 65536 + 2) off bs.length) bs s

/-- Bytes of an object read by the device. -/
def objReadPieces (s : State) (c : Ctx) (obj : Nat) : List (Nat × Nat) → Option (List Byte)
  | [] => some []
  | (o, n) :: r => match s.devPlace c obj o n, objReadPieces s c obj r with
    | some p, some bs => some (s.mem.bytes p.addr n ++ bs)
    | _, _ => none

def State.objRead (s : State) (c : Ctx) (obj off n : Nat) : Option (List Byte) :=
  objReadPieces s c obj (splitFrames 65536 (n / 65536 + 2) off n)

/-- One more sector of an object that holds poison: none of the words of the device's own records does. -/
def State.objNat (s : State) (c : Ctx) (obj off n : Nat) : Option Nat := (s.objRead c obj off n).map bytesToNat

/-! ### Firmware events (R437, R438) -/

/-- An event for the firmware: it waits for its record to be written. (DEDUCED, log entry 72.) -/
def State.postEvent (s : State) (kind ctx arg : Nat) : State :=
  { s with link := { s.link with events := s.link.events ++ [(kind, ctx, arg)] } }

/-! ### Save slots (R247) -/

/-- A free slot is popped: its object offset; none where no slot is free or the save area has no place. -/
def State.popSlot (s : State) (c : Ctx) : Option (State × Nat) :=
  match s.objNat c c.saveobj 0 8 with
  | none => none
  | some n =>
    if n = 0 then none
    else match s.objNat c c.saveobj (128 + 8 * (n - 1)) 8, s.objWrite c c.saveobj 0 (natToBytes 8 (n - 1)) with
      | some slot, some s1 =>
        some ((if n - 1 < c.lowmark ∧ c.lowmark ≤ n then s1.postEvent 4 c.n (n - 1) else s1), slot)
      | _, _ => none

/-- A slot is pushed back. -/
def State.pushSlot (s : State) (c : Ctx) (slot : Nat) : State :=
  match s.objNat c c.saveobj 0 8 with
  | none => s
  | some n => match (s.objWrite c c.saveobj (128 + 8 * n) (natToBytes 8 slot)).bind fun s1 =>
        s1.objWrite c c.saveobj 0 (natToBytes 8 (n + 1)) with
    | some s2 => s2
    | none => s

/-! ### Fault records (R51, R52) -/

/-- A fault is recorded: its record, an outstanding one of the same unit where there is one (R51). A fault at a peer has its
record there (R107): what is kept here only holds back who waits, under a number that no record of this device has. -/
def State.recordFault (s : State) (f : FaultAt) (src unitNo : Nat) : State × Nat :=
  match s.faults.find? fun r => r.ctx == f.ctx && r.obj == f.obj && r.unit == f.unit && r.peer == f.peer with
  | some r => (s, r.seq)
  | none =>
    if f.peer.isSome then
      let r : FaultRec := { seq := 2 ^ 32 + s.sched.nextId, ctx := f.ctx, obj := f.obj, unit := f.unit, off := f.off, src := src,
                            write := f.write, host := f.host, unitNo := unitNo, written := true, peer := f.peer }
      ({ s.bump with faults := s.faults ++ [r] }, r.seq)
    else
    let seq := match s.ctx? f.ctx with
      | some c => c.frseq
      | none => 1
    let r : FaultRec := { seq := seq, ctx := f.ctx, obj := f.obj, unit := f.unit, off := f.off, src := src,
                          write := f.write, host := f.host, unitNo := unitNo, written := false }
    let s1 := s.updCtx f.ctx fun c => { c with frseq := (c.frseq + 1) % 2 ^ 32 }
    ({ s1 with faults := s1.faults ++ [r] }, seq)

/-- Several faults are recorded: the numbers of their records. (DEDUCED, log entry 67.) -/
def State.recordFaults (s : State) (src unitNo : Nat) : List FaultAt → State × List Nat
  | [] => (s, [])
  | f :: fs =>
    let r := s.recordFault f src unitNo
    let t := r.1.recordFaults src unitNo fs
    (t.1, r.2 :: t.2)

/-! ### Launches (R182, R186, R221) -/

/-- The entries of a counter level: 0 launch, 1 graph, 2 phase, 3 job (R186). -/
def levelSize : Nat → Nat
  | 0 => 4096
  | 1 => 1024
  | 2 => 256
  | _ => 64

/-- The table of a level. -/
def Tables.level (t : Tables) : Nat → List (Nat × Counter)
  | 0 => t.launch
  | 1 => t.graph
  | 2 => t.phase
  | _ => t.job

/-- A counter. -/
def State.counter (s : State) (level h : Nat) : Counter := lookupD {} h (s.tables.level level)

/-- A counter changed. -/
def State.setCounter (s : State) (level h : Nat) (c : Counter) : State :=
  let t := s.tables
  let t' : Tables := match level with
    | 0 => { t with launch := setAt h c t.launch }
    | 1 => { t with graph := setAt h c t.graph }
    | 2 => { t with phase := setAt h c t.phase }
    | _ => { t with job := setAt h c t.job }
  { s with tables := t' }

/-- A counter advances by one, modulo 2^32 (R186). -/
def State.advance (s : State) (level h : Nat) : State :=
  let c := s.counter level h
  s.setCounter level h { c with value := (c.value + 1) % 2 ^ 32 }

/-- Whether a handle names a counter granted to a context (R433). -/
def State.granted (s : State) (ctx level h : Nat) : Bool :=
  decide (h < levelSize level) && (s.counter level h).granted && (s.counter level h).owner == ctx

/-- Whether a dependence or a `waitc` condition is met (R182). -/
def State.met (s : State) (w : WaitCond) : Bool :=
  ((s.counter w.level w.handle).value + 2 ^ 32 - w.target % 2 ^ 32) % 2 ^ 32 < 2 ^ 31

/-- The dependences of a launch record (R182). -/
def Launch.deps (l : Launch) : List WaitCond :=
  ([3, 4].map fun k => l.dword k).filterMap fun d =>
    if bitAt d 14 then some { level := bits d 0 2, handle := bits d 2 12, target := bits d 32 32 } else none

/-- Whether a launch names a counter at a level (R182, R187). -/
def Launch.names (l : Launch) (level h : Nat) : Bool :=
  let d := l.dword 2
  match level with
  | 0 => bits d 0 12 == h
  | 1 => bitAt d 12 && bits d 13 10 == h
  | 2 => bitAt d 23 && bits d 24 8 == h
  | _ => bitAt d 32 && bits d 33 6 == h

/-- The blocks of a launch that leaves WAITING (R181, R221, R222), numbered from a first unique number. -/
def Launch.mkBlocks (l : Launch) (seq uid now : Nat) : List Block :=
  (List.range l.nblk).map fun i =>
    { uid := uid + i, launch := l.id, ctx := l.ctx, blk := i, gang := i / l.gangSize, gangRank := i % l.gangSize,
      gangSize := l.gangSize, scrSize := l.scratchSize, quota := l.quota, ageSeq := seq,
      ageKey := if l.paged then 0 else i, page := if l.paged then i else 0, pendSince := now, arrived := !l.paged,
      landed := !l.paged }

/-- A slot changed. -/
def State.updSlot (s : State) (i : Nat) (f : Slot → Slot) : State :=
  { s with queues := { s.queues with slots := s.queues.slots.mapIdx fun j q => if j = i then f q else q } }

/-- The address of the QCB of a user queue (R430). -/
def State.qcbAt (s : State) (q : Nat) : Nat := s.link.qcbbase + 64 * q

/-- HEAD of a slot's queue written to its QCB (R430). -/
def State.writeHead (s : State) (q : Slot) : State :=
  if q.bound && s.hbmHas (s.qcbAt q.queue + 8) 4 then s.devStore (s.qcbAt q.queue + 8) 4 q.head else s

/-- A slot moves to its next command (R221). -/
def State.slotMoves (s : State) (slot : Nat) : State :=
  let s1 := s.updSlot slot fun q => { q with head := (q.head + 1) % 2 ^ 32, launch := none }
  s1.writeHead (s1.queues.slots.getD slot {})

/-! ### Launch records (R35, R183) -/

/-- The number of the lowest bit set of 64. -/
def lowBit (v : Nat) : Nat := ((List.range 64).find? fun i => bitAt v i).getD 0

/-- The byte offset of a reserved field of a record that is not zero: that of its lowest bit set (R183). -/
def Launch.reservedAt (l : Launch) (dw lo n : Nat) : List Nat :=
  let v := bits (l.dword dw) lo n
  if v = 0 then [] else [8 * dw + (lo + lowBit v) / 8]

/-- The counters a record names: level, handle, byte offset of its field (R182). -/
def Launch.handles (l : Launch) : List (Nat × Nat × Nat) :=
  let d := l.dword 2
  [(0, bits d 0 12, 16)]
  ++ (if bitAt d 12 then [(1, bits d 13 10, 17)] else [])
  ++ (if bitAt d 23 then [(2, bits d 24 8, 19)] else [])
  ++ (if bitAt d 32 then [(3, bits d 33 6, 20)] else [])
  ++ ([3, 4].filter fun k => bitAt (l.dword k) 14).map fun k => (bits (l.dword k) 0 2, bits (l.dword k) 2 12, 8 * k)

/-- The byte offsets of the fields of a record that break a case of R183; SCRK above the bound of a page launch offends at SCRK.
(DESIGN CHOICE, log entry 104.) -/
def State.badFields (s : State) (l : Launch) : List Nat :=
  let gang := bits (l.dword 0) 3 2
  l.reservedAt 0 5 11 ++ l.reservedAt 0 26 6 ++ l.reservedAt 0 36 4 ++ l.reservedAt 0 57 7 ++ l.reservedAt 1 32 32
  ++ l.reservedAt 2 39 25 ++ l.reservedAt 3 15 17 ++ l.reservedAt 4 15 17 ++ l.reservedAt 5 0 64
  ++ (if l.nrb = 0 ∨ l.nrb > 10 then [4] else [])
  ++ (if l.scrk > (if l.paged then 496 else 512) then [5] else [])
  ++ (if l.quota = 0 ∨ l.quota > 64 * 32 then [6] else [])
  ++ (if l.paged = false ∧ (l.nblk = 0 ∨ l.nblk > 2 ^ 20) then [8] else [])
  ++ (if gang ≠ 0 ∧ (l.paged ∨ l.nblk % (gang + 1) ≠ 0) then [0] else [])
  ++ ((l.handles.filter fun h => !(s.granted l.ctx h.1 h.2.1)).map fun h => h.2.2)

/-- The capabilities of a page launch that R35 checks. -/
def Launch.list (l : Launch) : CapReg := l.capAt 80
def Launch.cellar (l : Launch) : CapReg := l.capAt 96
def Launch.exitrec (l : Launch) : CapReg := l.capAt 112
def Launch.rdt (l : Launch) : CapReg := l.capAt 64

/-- The sub-code and the missing right of R35, in the order of its list. -/
def Launch.badList (l : Launch) : Option (Nat × Nat) :=
  if l.paged = false then none
  else if l.nblk = 0 ∨ l.nblk > 2 ^ 20 then some (6, 0)
  else if l.list.cursor % 4 ≠ 0 then some (7, 0)
  else match l.list.check l.list.cursor (4 * l.nblk) opLoad.rights with
    | some r => some r
    | none => l.cellar.check l.cellar.cursor 0 opCopySrc.rights

/-- Why a record is refused: 1 under R183 with the byte offset, 2 under R35 with the sub-code and the missing right. -/
def State.refusal (s : State) (l : Launch) : Option (Nat × Nat × Nat) :=
  match s.badFields l with
  | b :: bs => some (1, leastOf 0 (b :: bs), 0)
  | [] => l.badList.map fun r => (2, r.1, r.2)

/-- A ring entry: dwords and tags of the 16 granules. -/
structure Entry where
  dwords : List Nat
  tags : List Bool

/-- An entry of a ring is read from a physical address. -/
def State.readRing (s : State) (a : Nat) : Entry :=
  { dwords := (List.range 32).map fun i => s.mem.read (a + 8 * i) 8, tags := (List.range 16).map fun i => s.mem.tagAt (a + 16 * i) }

/-- A launch with the entry that its slot's ring holds at the head. (DESIGN CHOICE, log entry 124.) -/
def State.recopied (s : State) (l : Launch) : Launch :=
  let q := s.queues.slots.getD l.slot {}
  let e := s.readRing (q.ring + 256 * (q.head % 2 ^ q.log2n))
  { l with record := e.dwords, tags := e.tags }

/-- A slot refuses the command at its head with an event and moves on (R220, R438): `why` as in `State.refusal`.
(DESIGN CHOICE, log entry 124.) -/
def State.refuseHead (s : State) (i : Nat) (why : Nat × Nat × Nat) : State :=
  let q := s.queues.slots.getD i {}
  (s.postEvent 10 q.ctx (q.queue + q.head * 2 ^ 16 + why.1 * 2 ^ 48 + why.2.1 * 2 ^ 56)).slotMoves i

/-- A launch leaves WAITING (R221): it takes its copy of the ring entry (R203, R404), its sequence number and its ordinal (R448), its
blocks become PENDING, and its slot moves on. An entry that was rewritten while it waited is judged again.
(DESIGN CHOICE, log entry 124.) -/
def State.release (s : State) (id : Nat) : State :=
  match s.launch? id with
  | none => s
  | some l0 =>
    let l := s.recopied l0
    match s.refusal l with
    | some why => { s with launches := s.launches.filter fun k => k.id != id }.refuseHead l.slot why
    | none =>
    let seq := s.queues.lseqNext
    let lord := match s.ctx? l.ctx with
      | some c => c.lordNext
      | none => 0
    let bs := l.mkBlocks seq s.sched.nextId s.sched.now
    let s1 := s.updLaunch id fun k => { k with st := .released, seq := seq, lord := lord, record := l.record, tags := l.tags }
    let s2 := s1.updCtx l.ctx fun c => { c with lordNext := if s.attached l.ctx then (c.lordNext + 1) % 2 ^ 32 else c.lordNext }
    ({ s2 with
        blocks := s2.blocks ++ bs
        queues := { s2.queues with lseqNext := (seq + 1) % 2 ^ 64 }
        sched := { s2.sched with nextId := s2.sched.nextId + l.nblk } }).slotMoves l.slot

/-- Whether a block's entry ranks before another's that arrives in the same clock (R91): by channel, 64 for an entry that was
not sensed, then by list index. -/
def Block.ranksBefore (a b : Block) : Bool := a.channel < b.channel || (a.channel == b.channel && a.blk < b.blk)

/-- Whether a block's entry has arrived in this clock, so that its rank is not settled (R91): no step of the block comes in this
clock. (DEDUCED, log entry 41.) -/
def Block.ranking (b : Block) (now : Nat) : Bool := b.arrived && b.arrivedAt == now && decide (b.channel ≤ 64)

/-- The entries of a launch that have arrived in this clock take their ranks among themselves in the order of R91.
(DEDUCED, log entry 41.) -/
def State.rankClock (s : State) (launch : Nat) : State :=
  let mine := s.blocks.filter fun b => b.launch == launch && b.ranking s.sched.now
  let ranks := mine.foldl (fun l b => insertNat b.arrank l) []
  let set (b : Block) : Block :=
    if mine.any fun k => k.uid == b.uid then
      let r := ranks.getD (mine.filter fun k => k.ranksBefore b).length b.arrank
      { b with arrank := r, ageKey := if b.ageKey = b.arrank then r else b.ageKey }
    else b
  { s with blocks := s.blocks.map set }

/-- An entry of a page launch arrives (R91), sensed on a channel, or without being sensed on none (64): its block takes the next
rank and the outcome of its page. -/
def State.arrive (s : State) (launch idx pgno code level channel : Nat) (landed : Bool) : State :=
  match s.launch? launch with
  | none => s
  | some l =>
    let rank := l.ranks
    let s1 := s.updLaunch launch fun l => { l with ranks := l.ranks + 1 }
    let set (b : Block) : Block :=
      if b.launch = launch ∧ b.blk = idx ∧ b.arrived = false then
        { b with arrived := true, arrank := rank, ageKey := rank, pgno := pgno, pgstat := code, pgretry := level,
                 landed := landed, pendSince := s.sched.now, channel := channel, arrivedAt := s.sched.now,
                 status := if l.ucskip ∧ 2 ≤ code ∧ b.status = 0 then 1 else b.status,
                 save := if l.ucskip ∧ 2 ≤ code ∧ b.save = none then some .kill else b.save }
      else b
    { s1 with blocks := s1.blocks.map set }.rankClock launch

/-! ### Cancel (R187, R236) -/

/-- A block of a cancelled launch (R187): it ends as CANCELLED, its unpinned threads now, its pinned ones at their next
`rgn`. (DEDUCED, log entry 58.) -/
def State.cancelBlock (s : State) (uid : Nat) : State :=
  match s.block? uid with
  | none => s
  | some b =>
    if b.st = .finished ∨ b.save = some .kill ∨ b.save = some .cancel then s
    else
      let s1 := s.updBlock uid fun b =>
        { b.dropAnswers with save := some .cancel, status := 3, saveSince := s.sched.now, waits := [] }
      if b.st = .resident then s1.endThreads uid false else s1

/-- The entries of a cancelled page launch that have not arrived take the remaining ranks in list order (R187). -/
def rankRest (n : Nat) : List Block → List Block × Nat
  | bs => bs.foldl (fun (r : List Block × Nat) b =>
      if b.arrived then (r.1 ++ [b], r.2)
      else (r.1 ++ [{ b with arrived := true, arrank := r.2, ageKey := r.2 }], r.2 + 1)) ([], n)

/-- One launch is cancelled (R187). (DEDUCED, log entry 58.) -/
def State.cancelLaunch (s : State) (id : Nat) : State :=
  let s1 : State := match s.launch? id with
    | some l => if l.st = .waiting then s.release id else s
    | none => s
  match s1.launch? id with
  | none => s1
  | some l =>
    let s2 := s1.updLaunch id fun l => { l with cancelled := true, nextEntry := l.nblk, held := [] }
    let mine := s2.blocks.filter fun b => b.launch == id
    let ranked := if l.paged then rankRest l.ranks mine else (mine, l.ranks)
    let set (b : Block) : Block := match ranked.1.find? fun k => k.uid == b.uid with
      | some k => k
      | none => b
    let drop (r : PageRead) : Option PageRead :=
      let r' : PageRead := { r with users := r.users.filter fun u => !(mine.any fun b => b.uid == u) }
      if (r.stage = .queued ∨ r.stage = .corrected ∨ r.stage = .buffered) ∧ r'.users = [] ∧ r'.cmds = [] ∧ r'.pgread = none then none else some r'
    let s3 := { s2 with
      blocks := s2.blocks.map set
      cellar := { s2.cellar with reads := s2.cellar.reads.filterMap drop } }
    let s4 := s3.updLaunch id fun l => { l with ranks := ranked.2 }
    mine.foldl (fun s b => s.cancelBlock b.uid) s4

/-- `cancel` of a counter: every launch of the context that names it and has not completed (R187). -/
def State.cancel (s : State) (ctx level h : Nat) : State :=
  (s.launches.filter fun l => l.ctx == ctx && l.st != .completed && l.names level h).foldl
    (fun s l => s.cancelLaunch l.id) s

/-! ### The stop of a context (R252) -/

/-- Whom a stop record names. -/
structure Stopper where
  cause : Nat
  nested : Bool := false
  core : Nat := 0
  tid : Nat := 0
  pc : Nat := 0
  blk : Nat := 0
  msg : Nat := 0
  aux : Nat := 0
deriving DecidableEq, Repr

/-- The bytes of a stop record (R252). (DEDUCED, log entry 57.) -/
def Stopper.bytes (r : Stopper) : List Byte :=
  let lane := if r.cause = 0x11 then 0 else laneOf r.tid
  natToBytes 8 (r.cause + bit r.nested * 2 ^ 8 + r.core * 2 ^ 9 + r.tid * 2 ^ 19 + lane * 2 ^ 29)
  ++ natToBytes 8 r.pc ++ natToBytes 8 (r.blk % 2 ^ 32 + r.msg * 2 ^ 32) ++ natToBytes 8 r.aux

/-- A context stops (R252): the stop record, then the end of every block as KILLED, then the event. While every block of
the context is ending so already, a further stop writes nothing. (DEDUCED, log entry 57.) -/
def State.stopContext (s : State) (ctx : Nat) (r : Stopper) : State :=
  match s.ctx? ctx with
  | none => s
  | some c =>
    let mine := s.blocks.filter fun b => b.ctx == ctx && b.st != .finished
    if !mine.isEmpty && mine.all (fun b => b.save == some .kill && b.status == 4) then s
    else
      let s1 := match s.objWrite c c.saveobj 64 r.bytes with
        | some t => t
        | none => s
      (mine.foldl (fun s b => s.killBlock b.uid 4) s1).postEvent 3 ctx r.cause

end Sys2Proof.Machine
end

