-- ==== Sys2Proof/Machine/Ops.lean ====
section
/-!
DEFINITION. The shared operations on a running block: thread records (R248), taking an exception (R241 to R244) and
returning from one (R245), parking on a translation fault (R51), overflow (R83), the consumption of poison (R218), the
start of a thread and the return of what it holds (R59, R203, R230).
-/

namespace Sys2Proof.Machine

open Sys2Proof

/-! ### Live-in sets and thread records (R204, R248) -/

/-- The registers a record holds: vector registers, predicates, capability registers, each rising. -/
structure Masks where
  v : List Nat := []
  p : List Nat := []
  c : List Nat := []
deriving DecidableEq, Repr

/-- The numbers of the bits set among the lowest n. -/
def bitList (n x : Nat) : List Nat := (List.range n).filter fun i => bitAt x i

/-- The 320 bits of LIVEV (R204). -/
def liveV (desc : List Nat) : Nat :=
  desc.getD 0 0 + desc.getD 1 0 * 2 ^ 64 + desc.getD 2 0 * 2 ^ 128 + desc.getD 3 0 * 2 ^ 192 + desc.getD 4 0 * 2 ^ 256

/-- The live-in set of a descriptor for a thread: registers beyond its allocation are passed over (R229). -/
def liveMasks (desc : List Nat) (nregs : Nat) : Masks :=
  { v := (bitList 320 (liveV desc)).filter fun i => i < nregs
    p := bitList 32 (desc.getD 5 0)
    c := bitList 32 (desc.getD 5 0 / 2 ^ 32) }

/-- The live-in set of a thread's instance: c0 to c7 in the entry region (R203). (DEDUCED, log entry 31.) -/
def Thread.liveIn (x : Thread) : Masks := match x.rdi with
  | none => { c := [0, 1, 2, 3, 4, 5, 6, 7] }
  | some _ => liveMasks x.desc x.nregs

/-- Masks with the DIRTY registers joined (R210). -/
def Masks.withDirty (m : Masks) (x : Thread) : Masks :=
  { v := (x.dirtyV.filter fun i => i < x.nregs).foldl (fun l i => insertNat i l) m.v
    p := x.dirtyP.foldl (fun l i => insertNat i l) m.p
    c := x.dirtyC.foldl (fun l i => insertNat i l) m.c }

/-- The mask word of a list of bit numbers. -/
def maskOf (l : List Nat) : Nat := l.foldl (fun m i => setBit m i) 0

/-- Bytes padded with zeros to a multiple. -/
def padTo (k : Nat) (bs : List Byte) : List Byte := bs ++ List.replicate ((k - bs.length % k) % k) 0

/-- The STATE field of a thread record (R248). -/
def Thread.recState (x : Thread) : Nat := if x.st = .exited then 1 else if x.waitOn.isSome then 2 else 0

/-- The header of a thread record with its own RESUMEPC, PASS, CAUSE and masks (R248). (DEDUCED, log entry 44.) -/
def Thread.header (x : Thread) (resume : Nat) (pass : Bool) (cause trappc aux tmask gmask : Nat) : List Byte :=
  let w := x.waitOn.getD { level := 0, handle := 0, target := 0 }
  natToBytes 8 (resume + x.count * 2 ^ 48 + bit x.pinned * 2 ^ 56 + bit x.perf * 2 ^ 57 + bit pass * 2 ^ 58
      + x.recState * 2 ^ 59)
  ++ natToBytes 8 (x.inst + (x.rdi.getD 0) * 2 ^ 32 + bit x.rdi.isNone * 2 ^ 44 + x.h * 2 ^ 45 + bit x.sf * 2 ^ 49)
  ++ natToBytes 8 (x.fpflags.toNat + x.fpsnap.toNat * 2 ^ 32)
  ++ natToBytes 8 (x.mstat.toNat + x.mssnap.toNat * 2 ^ 32)
  ++ natToBytes 8 (cause + trappc * 2 ^ 8) ++ natToBytes 8 aux ++ natToBytes 8 (tmask + gmask * 2 ^ 32)
  ++ natToBytes 8 (w.level + w.handle * 2 ^ 2 + w.target * 2 ^ 32)

/-- The payload of a thread record (R248). -/
def Thread.payload (x : Thread) (m : Masks) : List Byte :=
  natToBytes 40 (maskOf m.v) ++ natToBytes 4 (maskOf m.p) ++ natToBytes 4 (maskOf m.c)
  ++ natToBytes 8 (maskOf (m.p.filter fun i => x.pred i))
  ++ (m.v.flatMap fun i => natToBytes 8 (x.vreg i).val.toNat)
  ++ padTo 8 (m.v.flatMap fun i => natToBytes 1 ((x.vreg i).tag.code + bit (x.vreg i).psn * 2 ^ 7))
  ++ (m.c.flatMap fun i => natToBytes 16 (x.creg i).nat)
  ++ padTo 8 (m.c.flatMap fun i => natToBytes 1 (bit (x.creg i).tag + bit (x.creg i).psn * 2))

/-- A thread record (R248). -/
def Thread.record (x : Thread) (m : Masks) (resume : Nat) (pass : Bool) (cause trappc aux tmask gmask : Nat) : List Byte :=
  padTo 64 (x.header resume pass cause trappc aux tmask gmask ++ x.payload m)

/-- Little-endian number of n bytes of a list from a place. -/
def natAt (bs : List Byte) (off n : Nat) : Nat := bytesToNat ((bs.drop off).take n)

/-- The masks of a thread record. -/
def recordMasks (bs : List Byte) : Masks :=
  { v := bitList 320 (natAt bs 64 40), p := bitList 32 (natAt bs 104 4), c := bitList 32 (natAt bs 108 4) }

/-- The registers a thread record names are restored: VALUE, TAG and PSN (R245); the tag of a capability stays clear where its
bits are no well-formed capability of an object (R13). A tag byte that holds a reserved code gives a free tag.
(DESIGN CHOICE, log entry 5.) -/
def Thread.restore (x : Thread) (bs : List Byte) (fresh : Nat) : Thread :=
  let m := recordMasks bs
  let nv := m.v.length
  let nc := m.c.length
  let tags := 120 + 8 * nv
  let caps := tags + (nv + 7) / 8 * 8
  let ctags := caps + 16 * nc
  let x := (m.v.mapIdx fun j i => (j, i)).foldl (fun x (ji : Nat × Nat) =>
    let t := natAt bs (tags + ji.1) 1
    let code := if t % 32 < 16 then t % 32 else (Config.freeByte fresh ji.2).toNat % 16
    x.setV ji.2 { val := BitVec.ofNat 64 (natAt bs (120 + 8 * ji.1) 8), tag := (Tag.ofCode code).getD .raw, psn := bitAt t 7 }) x
  let x := m.p.foldl (fun x i => x.setP i (bitAt (natAt bs 112 4) i)) x
  (m.c.mapIdx fun j i => (j, i)).foldl (fun x (ji : Nat × Nat) =>
    let t := natAt bs (ctags + ji.1) 1
    x.setC ji.2 (capFrom (natAt bs (caps + 16 * ji.1) 16) (bitAt t 0) (bitAt t 1))) x

/-- The region state a thread record holds (R245, R248); the reserved bits of %fpflags and %mstat stay zero (R265, R366). -/
def Thread.restoreState (x : Thread) (bs : List Byte) : Thread :=
  let d0 := natAt bs 0 8
  let d1 := natAt bs 8 8
  { x with
    count := bits d0 48 8, pinned := bitAt d0 56, perf := bitAt d0 57, pass := bitAt d0 58
    inst := bits d1 0 32, rdi := if bitAt d1 44 then none else some (bits d1 32 12), sf := bitAt d1 49
    fpflags := BitVec.ofNat 32 (natAt bs 16 4 % 128), fpsnap := BitVec.ofNat 32 (natAt bs 20 4 % 128)
    mstat := BitVec.ofNat 32 (natAt bs 24 4 % 128), mssnap := BitVec.ofNat 32 (natAt bs 28 4 % 128) }

/-! ### Taking an exception (R241 to R244) -/

/-- Whether a thread runs as pinned for a trap or a discard: pinned, with an effect performed, in a handler, within a
commit-class word that has committed, or at the `rgn` after one (R206, R209, R213, R215, R244). -/
def Thread.runsPinned (x : Thread) : Bool := x.pinned || x.perf || x.handler.isSome || x.mid || x.bound

/-- c31 in a handler (R241): a capability on the save area for 4,096 bytes from the slot. -/
def slotCap (c : Ctx) (slot : Nat) : CapReg :=
  match boundsFrom slot 4096 40 0 with
  | some (e, lo, hi) => capOf c.saveobj 0x03 e lo (hi % 512) slot true
  | none => {}

/-- The trap registers of a thread (R237). -/
def Thread.setTrap (x : Thread) (cause : Nat) (pc : Int) (aux : Nat) : Thread :=
  { x with cause := cause, trappc := pc48 pc, aux := aux % 2 ^ 64, mid := false, kept := {} }

/-- The trap frame of a thread: RESUMEPC is %trappc for a thread that ran pinned, with the live-ins and DIRTY, and
%rgnpc otherwise, with the live-ins (R241). (DEDUCED, log entry 31.) -/
def Thread.frame (x : Thread) (t : PendTrap) : List Byte :=
  x.record (if t.pinned then x.liveIn.withDirty x else x.liveIn) (if t.pinned then pc48 t.pc else pc48 x.rgnpc)
    (t.cause == cUser || t.cause == cBreak) x.cause x.trappc x.aux t.tmask t.gmask

/-- A thread in handler mode (R241 step 4). -/
def Thread.enter (x : Thread) (c : Ctx) (slot : Nat) : Thread :=
  { x.setC 31 (slotCap c slot) with
    handler := some slot, pc := (c.hcode.cursor : Nat), space := .handler, pend := none }

/-- A thread whose trap registers are written enters its handler (R241 steps 3 and 4): its frame takes one slot, whose link is
0; without a free slot it waits (R247), and a pinned one waits for the loads it has issued, whose registers its frame holds
(R210; DEDUCED, log entry 31). In group mode its frozen group runs it; in per-thread mode it is filed under the handler's PC. -/
def State.enterHandler (s : State) (uid tid : Nat) (t : PendTrap) : State :=
  match s.block? uid, s.thread? uid tid with
  | some b, some x =>
    let wait := s.updThread uid tid fun x => { x with st := .trapWait, pend := some t }
    match if t.pinned && s.outstanding uid tid then none else s.ctx? b.ctx with
    | none => wait
    | some c =>
      match s.popSlot c with
      | none => wait
      | some (s1, slot) =>
        match (s1.objWrite c c.saveobj slot (x.frame t)).bind fun s2 =>
            s2.objWrite c c.saveobj (slot + c.slotsz * 4096 - 8) (natToBytes 8 0) with
        | none => wait
        | some s2 =>
          let s3 := s2.updThread uid tid fun x => { x.enter c slot with st := .running }
          if t.gmask = 0 then (s3.file uid tid (c.hcode.cursor : Nat) .handler).drawAll b.core (partOf tid)
          else
            let run (g : Group) : Group :=
              if g.blk = uid ∧ g.tids.contains tid then
                { g with runner := some tid, stuck := false, pc := (c.hcode.cursor : Nat), space := .handler, readyAt := s.sched.now + 1 }
              else g
            { s3 with groups := s3.groups.map run }
  | _, _ => s

/-- A trap in handler mode stops the context (R244, R252). -/
def State.nestedTrap (s : State) (b : Block) (x : Thread) (cause : Nat) (pc : Int) (aux : Nat) : State :=
  s.stopContext b.ctx { cause := cause, nested := true, core := b.core, tid := x.tid, pc := pc48 pc, blk := b.blk, aux := aux }

/-- Whether a group waits on translation faults with its instances discarded: a trap that follows discards nothing more. -/
def Group.gone (g : Group) : Bool := g.st == .parked && !g.pinnedFault

/-- One thread takes a trap by itself (R241, R242): its instance is discarded unless it runs pinned, its trap registers
are written, it leaves its group and enters the handler. -/
def State.trapThread (s : State) (uid tid cause aux : Nat) (pc : Int) : State :=
  match s.block? uid, s.thread? uid tid with
  | some b, some x =>
    if x.handler.isSome then s.nestedTrap b x cause pc aux
    else
      let gone := (s.groupOf uid tid).any Group.gone
      let s1 := if x.runsPinned || gone then s else s.discard uid tid false
      let s2 := (s1.leave uid tid).updThread uid tid fun x => x.setTrap cause pc aux
      s2.enterHandler uid tid { cause := cause, pc := pc, aux := aux, tmask := 0, gmask := 0,
                                pinned := if gone then x.bound else x.runsPinned }
  | _, _ => s

/-- The mask of the home lanes of threads. -/
def laneMask (tids : List Nat) : Nat := tids.foldl (fun m t => setBit m (laneOf t)) 0

/-- The thread of the lowest home lane. -/
def lowestLane : List Nat → Nat
  | [] => 0
  | t :: ts => ts.foldl (fun m u => if laneOf u < laneOf m then u else m) t

/-- A group takes a trap (R243): every thread that does not run pinned is discarded, the trapping threads' registers are
written, the group is FROZEN and its thread of the lowest lane enters the handler. (DEDUCED, log entry 23.) -/
def State.trapGroup (s : State) (gid : Nat) (traps : List (Nat × Nat × Nat)) (pc : Int) : State :=
  match s.group? gid, traps with
  | some g, (_, c0, a0) :: _ =>
    match s.block? g.blk with
    | none => s
    | some b =>
      let xs := b.members g.tids
      match xs.find? fun x => x.handler.isSome with
      | some x =>
        match traps.find? fun t => t.1 == x.tid with
        | some t => s.nestedTrap b x t.2.1 pc t.2.2
        | none => s.nestedTrap b x c0 pc a0
      | none =>
        let ran (x : Thread) : Bool := if g.gone then x.bound else x.runsPinned
        let s1 := xs.foldl (fun s x => if x.runsPinned || g.gone then s else s.discard b.uid x.tid false) s
        let s2 := traps.foldl (fun s t => s.updThread b.uid t.1 fun x => x.setTrap t.2.1 pc t.2.2) s1
        let gmask := laneMask g.tids
        let tmask := laneMask (traps.map fun t => t.1)
        let pmask := laneMask ((xs.filter ran).map Thread.tid)
        let s3 := s2.updGroup gid fun g =>
          { g with st := .frozen, tmask := tmask, gmask := gmask, pmask := pmask, lastIssue := s.sched.now }
        s3.enterHandler b.uid (lowestLane g.tids) { cause := c0, pc := pc, aux := a0, tmask := tmask, gmask := gmask,
                                                        pinned := (xs.find? fun x => x.tid == lowestLane g.tids).any ran }
  | _, _ => s

/-- Whether a context takes traps by group (R241). -/
def State.tmode (s : State) (ctx : Nat) : Bool :=
  match s.ctx? ctx with
  | some c => c.tmode
  | none => false

/-- Of several traps that of the lowest %tid. -/
def lowestTid : List (Nat × Nat × Nat) → Option (Nat × Nat × Nat)
  | [] => none
  | t :: ts => some (ts.foldl (fun m u => if u.1 < m.1 then u else m) t)

/-- TAKING AN EXCEPTION: the threads of a group that trap at a PC take their traps, by group or each by itself (R239,
R241 to R244), with the trace record of R452. Threads that trap in handlers stop the context in the name of the lowest %tid
among them (R252). -/
def State.takeTraps (s : State) (gid : Nat) (traps : List (Nat × Nat × Nat)) (pc : Int) : State :=
  match s.group? gid, traps with
  | some g, (t0, c0, a0) :: _ =>
    match s.block? g.blk with
    | none => s
    | some b =>
      let s1 := s.trace b t0 0x12 c0 (pc48 pc) a0 0 none
      let handler (t : Nat × Nat × Nat) : Bool := (b.thread? t.1).any fun x => x.handler.isSome
      if s1.tmode b.ctx then s1.trapGroup gid traps pc
      else match lowestTid (traps.filter handler) with
        | some t => s1.trapThread g.blk t.1 t.2.1 t.2.2 pc
        | none => (traps.foldl (fun s t => s.trapThread g.blk t.1 t.2.1 t.2.2 pc) s1).drawAll g.core g.part
  | _, _ => s

/-! ### Returning from one (R245) -/

/-- A thread after `rte` with the bytes of its frame (R245). What its handler wrote stays in DIRTY of the stretch that it returns
to. (DEDUCED, log entry 31; DESIGN CHOICE, log entry 118.) -/
def Thread.returned (x : Thread) (bs : List Byte) (fresh : Nat) : Thread :=
  let named := (recordMasks bs).c.contains 31
  let y := (x.restore bs fresh).restoreState bs
  let z := if named then y else y.setC 31 {}
  { z with pc := (natAt bs 0 6 : Nat), space := .kernel, handler := none, bound := x.bound && natAt bs 0 6 == x.trappc }

/-- RETURNING FROM AN EXCEPTION: `rte` of a handler thread (R245): none where its frame cannot be read. In per-thread
mode the thread is filed under RESUMEPC; in group mode the group unfreezes and every thread goes on at its own PC. -/
def State.returnTrap (s : State) (gid uid tid : Nat) : Option State :=
  match s.block? uid, s.thread? uid tid, s.group? gid with
  | some b, some x, some g =>
    match s.ctx? b.ctx, x.handler with
    | some c, some slot =>
      match s.objRead c c.saveobj slot (c.slotsz * 4096 - 8) with
      | none => none
      | some bs =>
        let s1 := (s.tick.updThread uid tid fun x => x.returned bs s.sched.fresh).pushSlot c slot
        let pc : Int := (natAt bs 0 6 : Nat)
        if g.runner = none then
          let s2 := s1.leave uid tid
          some (if b.save.isSome then (s2.updThread uid tid fun x => { x with st := .running }).holdThread uid tid
                else (s2.file uid tid pc .kernel).drawAll b.core (partOf tid))
        else
          let s2 := s1.updGroup gid fun g =>
            { g with runner := none, stuck := false, tmask := 0, gmask := 0, pmask := 0, st := .ready, space := .kernel,
                     readyAt := s.sched.now + 1 }
          let s3 := s2.regroup gid
          some (if b.save.isSome then g.tids.foldl (fun s t => s.holdThread uid t) s3 else s3)
    | _, _ => none
  | _, _, _ => none

/-! ### Parking, overflow, re-entry -/

/-- A group parks on translation faults (R51): outside pinned running every thread is discarded; the records, the
threads whose own access met them, and the faulting instruction are kept. -/
def State.park (s : State) (gid : Nat) (faults : List (Nat × List FaultAt)) (pc : Int) : State :=
  match s.group? gid with
  | none => s
  | some g =>
    match s.block? g.blk with
    | none => s
    | some b =>
      let xs := b.members g.tids
      let pinned := groupPinned xs || xs.any Thread.mid
      let s1 := if pinned then s else xs.foldl (fun s x => s.discard b.uid x.tid false) s
      let add (acc : State × List Nat) (f : Nat × List FaultAt) : State × List Nat :=
        let r := acc.1.recordFaults 0 b.core f.2
        (r.1.updThread b.uid f.1 fun x => { x with faults := r.2.map fun q => (q, none) }, acc.2 ++ r.2)
      let r := faults.foldl add (s1, [])
      r.1.updGroup gid fun g => { g with st := .parked, waits := distinct r.2, pinnedFault := pinned, faultPc := pc }

/-- Every thread of a group re-enters its region: discarded and filed (R83, R213, R445). (DEDUCED, log entry 25.) -/
def State.reenter (s : State) (gid : Nat) (overflow : Bool) : State :=
  match s.group? gid with
  | none => s
  | some g =>
    match s.block? g.blk with
    | none => s
    | some b =>
      let xs := b.members g.tids
      let s1 := xs.foldl (fun s x => s.discard b.uid x.tid overflow) s
      let s2 := s1.dropGroup gid
      match s2.block? g.blk with
      | none => s2
      | some b2 => (s2.fileAll g.blk (b2.members g.tids)).drawAll g.core g.part

/-- A thread consumes poison (R61, R218): the block is killed with status POISON, or relocated with its gang.
(DEDUCED, log entry 17.) -/
def State.consumePoison (s : State) (uid tid : Nat) : State :=
  match s.block? uid, s.thread? uid tid with
  | some b, some x =>
    if x.perf || x.handler.isSome || b.reloc then s.killBlock uid 2
    else (s.gangOf b).foldl (fun s k =>
      (s.beginSave k.uid (if k.uid = uid then .poison else .relocate)).updBlock k.uid fun k =>
        { k with fromQuad := some (quadOf k.core) }) s
  | _, _ => s

/-! ### Stops of the debug unit (R450) -/

/-- A block of the debug unit's context stops, with its gang: every thread that has not exited is HALTED where it stands;
`reason` is REASON of R451, `tid` and `log` what its record names. A block that is stopped stays so, but that a stop of replay
(3 or 4) has a record of its own (R458). (DEDUCED, log entry 36.) -/
def State.haltBlock (s : State) (uid reason tid : Nat) (log : Nat × Nat) : State :=
  match s.block? uid with
  | none => s
  | some b =>
    (s.gangOf b).foldl (fun s k =>
      if (k.halt.isSome ∧ reason < 3) ∨ k.st = .finished then s
      else s.updBlock k.uid fun k =>
        { k.updThreads (fun x => if x.st = .exited then x else { x with halted := true }) with
          halt := some (reason, false), haltTid := tid, haltLog := log }) s

/-! ### Threads of a block that starts (R59, R203) -/

/-- A thread at the start of its block (R59, R203, R185). -/
def Thread.start (tid h : Nat) (entry : Int) (slots : List CapReg) : Thread :=
  { tid := tid, v := List.replicate (32 * h) {}, p := List.replicate 32 false,
    c := slots ++ List.replicate 24 {}, pc := entry, h := h, rgnpc := entry }

/-- The eight capability slots of a launch record (R182). -/
def Launch.slots (l : Launch) : List CapReg := (List.range 8).map fun i => l.capAt (128 + 16 * i)

end Sys2Proof.Machine
end

