-- ==== Sys2Proof/Machine/Operands.lean ====
section
/-!
DEFINITION. Operands: which registers a word reads and writes, the tags it accepts (R255, R474), the per-thread checks
before any effect in the order of R238 (ILLEGAL, FORMAT, REGION, poison), effective offsets (R344), scratch addresses
(R31, R32) and the checks of a memory operand (R346, R347).
-/

namespace Sys2Proof.Machine

open Sys2Proof

/-! ### Sources (R255, R474) -/

/-- A vector source: its operand code of R474 (0 a, 1 b, 2 c, 3 data), its register, the tags it accepts and the tag
that a refusal reports as required. -/
structure Src where
  code : Nat
  reg : Nat
  accept : List Tag
  report : Nat
deriving DecidableEq, Repr

/-- Every tag. -/
def anyTag : List Tag :=
  [.raw, .u64, .s64, .u32x2, .s32x2, .u16x4, .s16x4, .u8x8, .s8x8, .m8x8, .m4x16, .f64, .f32x2, .f16x4, .b16x4, .q8x8]

/-- RAW and the integer tags: what an index register carries (R280). -/
def intTags : List Tag := [.raw, .u64, .s64, .u32x2, .s32x2, .u16x4, .s16x4, .u8x8, .s8x8]

/-- A source that accepts any tag. -/
def srcAny (code reg : Nat) : Src := { code := code, reg := reg, accept := anyTag, report := 0 }

/-- A source that accepts RAW or one tag. -/
def srcRaw (code reg : Nat) (t : Tag) : Src := { code := code, reg := reg, accept := [.raw, t], report := t.code }

/-- A source that accepts exactly one tag. -/
def srcExact (code reg : Nat) (t : Tag) : Src := { code := code, reg := reg, accept := [t], report := t.code }

/-- A source that accepts RAW and several other tags. -/
def srcSome (code reg : Nat) (ts : List Tag) : Src := { code := code, reg := reg, accept := ts, report := 0 }

/-- A source that takes RAW, U64 or S64. -/
def srcWord (code reg : Nat) : Src := srcSome code reg [.raw, .u64, .s64]

/-- An index register (R280). -/
def srcIndex (reg : Nat) : Src := srcSome 1 reg intTags

/-- Whether a source is refused for a thread. -/
def Src.refused (q : Src) (x : Thread) : Bool := !(q.accept.contains (x.vreg q.reg).tag)

/-- Of two refused sources the one reported: the lower operand code, then the lower register (R474). -/
def Src.before (p q : Src) : Bool := p.code < q.code || (p.code == q.code && p.reg < q.reg)

/-- The refused source that is reported. -/
def firstRefused (x : Thread) : List Src → Option Src
  | [] => none
  | q :: qs => match firstRefused x qs with
    | none => if q.refused x then some q else none
    | some r => if q.refused x && q.before r then some q else some r

/-- %trapaux of FORMAT (R237, R474). -/
def Src.aux (q : Src) (x : Thread) : Nat := q.report + (x.vreg q.reg).tag.code * 2 ^ 5 + q.code * 2 ^ 10

/-! ### The form of a word and its checks -/

/-- What a word needs before its effect: the guard, the registers it names by field (R282), its sources, the capability
registers it reads, the registers it writes that R208 checks, values that R291's sub-code 0x0C refuses, and what item 3
of R238 refuses. -/
structure Form where
  guard : Guard := .always
  regs : List (Nat × Nat) := []
  srcs : List Src := []
  /-- further sources, which the tags of a thread's registers decide (R331, R333) -/
  more : Thread → List Src := fun _ => []
  /-- sources whose poison moves with their value, which consume none (R61, R408) -/
  moved : List Src := []
  caps : List Nat := []
  dV : List Nat := []
  dP : List Nat := []
  dC : List Nat := []
  values : Thread → List Viol := fun _ => []
  late : Thread → Option Viol := fun _ => none
  /-- the word acts for its group with the leader's operands, so only the leader is checked (R142) -/
  leader : Bool := false

/-- The live-in sets of a thread's current descriptor as R208 uses them; in the entry region c0 to c7 (R203). -/
def Thread.live (x : Thread) : Masks :=
  match x.rdi with
  | none => { c := [0, 1, 2, 3, 4, 5, 6, 7] }
  | some _ => { v := bitList 320 (liveV x.desc), p := bitList 32 (x.desc.getD 5 0), c := bitList 32 (x.desc.getD 5 0 / 2 ^ 32) }

/-- DESC of R208. -/
def Thread.descIndex (x : Thread) : Nat := x.rdi.getD 0xFFFFFFFF

/-- %trapaux of REGION (R208). -/
def auxRegion (sub cls reg desc : Nat) : Nat := sub + cls * 2 ^ 8 + reg * 2 ^ 16 + desc * 2 ^ 32

/-- The live-in register a word would write: vector registers first, then predicates, then capabilities, each from the
lowest number (R208; log entry 10). (DEDUCED, log entry 10.) -/
def Form.liveWrite (f : Form) (x : Thread) : Option (Nat × Nat) :=
  if x.handler.isSome then none
  else
    let live := x.live
    let hit (ds ls : List Nat) : List Nat := ds.filter fun d => ls.contains d
    match hit f.dV live.v, hit f.dP live.p, hit f.dC live.c with
    | v :: vs, _, _ => some (0, leastOf 0 (v :: vs))
    | [], p :: ps, _ => some (1, leastOf 0 (p :: ps))
    | [], [], c :: cs => some (2, leastOf 0 (c :: cs))
    | [], [], [] => none

/-- The outcome of one thread's check or access (R238). -/
inductive LaneRes (α : Type) where
  | ok (a : α)
  | trap (cause aux : Nat)
  | poison
  | wait
  | tfault (fs : List FaultAt)
  | noMem (addr : Nat)

/-- Items 1 to 5 of R238 for one thread: none when every check passes. (DEDUCED, log entry 12.) -/
def Form.check (f : Form) (x : Thread) : Option (LaneRes Unit) :=
  match leastViol (allocViols f.regs x.nregs ++ f.values x) with
  | some v => some (.trap cIllegal v.aux)
  | none =>
    match firstRefused x (f.srcs ++ f.moved ++ f.more x) with
    | some q => some (.trap cFormat (q.aux x))
    | none =>
      match f.late x with
      | some v => some (.trap cIllegal v.aux)
      | none =>
        match f.liveWrite x with
        | some (cls, reg) => some (.trap cRegion (auxRegion 1 cls reg x.descIndex))
        | none =>
          if ((f.srcs ++ f.more x).any fun q => (x.vreg q.reg).psn) || (f.caps.any fun c => (x.creg c).psn) then some .poison else none

/-- The checks of several forms one after another: the halves of a P-form word (R286). (DEDUCED, log entry 14.) -/
def checkAll (x : Thread) : List Form → Option (LaneRes Unit)
  | [] => none
  | f :: fs => match f.check x with
    | some r => some r
    | none => checkAll x fs

/-- The registers whose value an outstanding request of a thread will write (R348, R355 to R357). -/
def ReqKind.dests : ReqKind → List Nat × List Nat
  | .load d _ _ _ => ([d], [])
  | .lane d _ n => ((List.range n).map fun i => d + i, [])
  | .cap d _ => ([], [d])
  | .wide d _ => ([d], [])
  | .atom d _ _ _ _ _ => ([d], [])

/-- Whether a word must wait for an outstanding request of a thread: it names a register that the request will write. -/
def State.hazard (s : State) (uid tid : Nat) (f : Form) : Bool :=
  s.reqs.any fun r => r.blk == uid && r.tid == tid
    && ((r.kind.dests.1.any fun d => (f.regs.any fun q => q.2 == d) || (f.srcs.any fun q => q.reg == d) || f.dV.contains d)
        || (r.kind.dests.2.any fun d => f.caps.contains d || f.dC.contains d))

/-- Whether an outstanding acquire of the thread holds back its later memory operations (R129 to R133).
(DEDUCED, log entry 33.) -/
def State.acquiring (s : State) (uid tid : Nat) : Bool :=
  s.reqs.any fun r => r.blk == uid && r.tid == tid && (match r.kind with
    | .load _ _ _ acq => acq
    | _ => false)

/-! ### Effective offsets (R344) and scratch addresses (R31, R32) -/

/-- Bits of the index of a width code. -/
def indexBits (width : Nat) : Nat := 8 * 2 ^ width

/-- The scaled index of a word for a thread (R344). -/
def indexOf (x : Thread) (index width : Nat) (sgn : Bool) (scale : Nat) : Int :=
  if width = 0 then 0
  else
    let raw := bits (x.vreg index).val.toNat 0 (indexBits width)
    (if sgn then sext (indexBits width) raw else (raw : Int)) * (2 ^ scale : Nat)

/-- The effective offset of an M-form word for a thread (R344): `cap` says whether it has a capability operand. -/
def MemW.offset (w : MemW) (x : Thread) (cap : Bool) : Int :=
  (if cap then ((x.creg w.cap).cursor : Int) else 0) + indexOf x w.index w.width w.sgn w.scale + sext 10 w.off

/-- Bytes of an access of a size code. -/
def sizeBytes (size : Nat) : Nat := 8 / 2 ^ size

/-- The member of a block's gang that a scratch address field selects (R31): the block itself for 0. -/
def State.scratchTarget (s : State) (b : Block) (field : Nat) : Option Block :=
  if field = 0 then some b
  else if b.gangSize ≤ 1 then none
  else (s.gangOf b).find? fun k => k.gangRank == (b.gangRank + field) % 4

/-- The piece of a scratch access of n bytes, with the 21-bit address as its offset; none for a lane out of range, which every
address of a member that has given up its scratch is (R32, R390). -/
def State.scratchPiece (s : State) (b : Block) (a : Int) (n : Nat) : Option Piece :=
  if a < 0 ∨ a ≥ (2 ^ 21 : Nat) then none
  else
    let off := a.toNat % 2 ^ 19
    match s.scratchTarget b (a.toNat / 2 ^ 19) with
    | none => none
    | some k => if k.vacated ∨ off + n > k.scrSize then none
                else some { scratch := some k.uid, addr := off, len := n, off := a.toNat }

/-- %trapaux of CAPABILITY (R14), and of ALIGN (R237): the offset and log2 of the alignment. -/
def auxCap (r : Nat × Nat) : Nat := r.1 + r.2 * 2 ^ 8
def auxAlign (o : Int) (align : Nat) : Nat := wrap 48 o + align.log2 * 2 ^ 48

/-- The checks and the walk of an access through a capability (items 6 to 9 of R238): its pieces. `len` is what R14
checks, `acc` what is walked. -/
def State.access (s : State) (b : Block) (c : CapReg) (o : Int) (n align : Nat) (op : AccOp) : State × LaneRes (List Piece) :=
  match c.check o n op.rights op.any with
  | some r => (s, .trap cCapability (auxCap r))
  | none =>
    if o % (align : Int) ≠ 0 then (s, .trap cAlign (auxAlign o align))
    else
      match translate s (some b.core) (dieOf b.core) b.ctx c.obj o.toNat n op with
      | (s', .ok ps) => (s', .ok ps)
      | (s', .cellar _ _) => (s', .trap cPermission (auxDeny 2 0 c.obj))
      | (s', .trap cause aux) => (s', .trap cause aux)
      | (s', .wait) => (s', .wait)
      | (s', .tfault fs) => (s', .tfault fs)
      | (s', .noMem a) => (s', .noMem a)

/-- The checks of a scratch access (R346): a lane out of range is switched off (`ok none`), a misaligned one traps. -/
def State.scratchAccess (s : State) (b : Block) (a : Int) (n align : Nat) : LaneRes (Option Piece) :=
  match s.scratchPiece b a n with
  | none => .ok none
  | some p => if a % (align : Int) ≠ 0 then .trap cAlign (auxAlign a align) else .ok (some p)

end Sys2Proof.Machine
end

