-- ==== Sys2Proof/Machine/Flags.lean ====
section
/-!
DEFINITION. %fpflags, %mstat and %scratchfault: how an instruction sets them (R265, R266, R366, R32) and what `setsr` may
write (R66, R265, R366).
-/

namespace Sys2Proof.Machine

open Sys2Proof

/-- Flags that an instruction sets, never cleared by it (R266). -/
def Thread.orFlags (x : Thread) (fl : Nat) : Thread := { x with fpflags := x.fpflags ||| BitVec.ofNat 32 fl }

/-- %mstat after `mchol` or `mlu` (R366): `step` 0 when it did not fail, `kind` 1 NOTSPD or 2 SINGULAR. -/
def mstatAfter (old : BitVec 32) (step kind : Nat) : BitVec 32 :=
  let sticky := bitAt old.toNat 6
  if step = 0 then BitVec.ofNat 32 (bit sticky * 64) else BitVec.ofNat 32 (step + kind * 16 + 64)

/-- `setsr` of %fpflags: a source with a bit above [6:0] is refused (R265). -/
def setFpflags (x : Thread) (v : Word) : Thread :=
  if v.toNat < 2 ^ 7 then { x with fpflags := BitVec.ofNat 32 v.toNat } else x

/-- `setsr` of %mstat: a source with a bit above [6:0] is refused (R366). -/
def setMstat (x : Thread) (v : Word) : Thread :=
  if v.toNat < 2 ^ 7 then { x with mstat := BitVec.ofNat 32 v.toNat } else x

/-- `setsr` of %scratchfault: it writes 0 only (R66). -/
def setScratchfault (x : Thread) (v : Word) : Thread := if v = 0 then { x with sf := false } else x

/-- A lane was switched off (R32). -/
def Thread.switchOff (x : Thread) : Thread := { x with sf := true }

end Sys2Proof.Machine
end

