-- ==== Sys2Proof/Machine/Issue.lean ====
section
/-!
DEFINITION. The issue of one word for a whole group: the per-thread checks, how the outcomes of the threads combine (R239),
the effects of the threads that complete (R79, R83, R209 to R211), the commit-class words (R206, R207), and the fetch of a
word (R21).
-/

namespace Sys2Proof.Machine

open Sys2Proof

/-- How a step ends. -/
abbrev Out := Host.Outcome State Fault Refusal

/-! ### What a thread does -/

/-- What a word does at once besides registers and buffered effects: a watch (R156) or its disarming (R361), a cancel
(R187), the cache operations of R360 on pieces (0 write back, 1 evict, 2 drop from L1), the fill of R359, and what `xput` writes into another
thread of a frozen group: registers, or its %rgnpc or %trappc with the PC it resumes at (R408). -/
inductive Act where
  | watch (scratch : Option Nat) (addr : Nat)
  | unwatch
  | cancel (level handle : Nat)
  | cache (op : Nat) (ps : List Piece)
  | fill (scope : Scope) (p : Piece)
  | give (tid : Nat) (v : List (Nat × VReg)) (p : List (Nat × Bool)) (c : List (Nat × CapReg))
  | resume (tid : Nat) (rgn go : Bool) (pc : Nat)
deriving DecidableEq, Repr

/-- What one thread does when every check has passed. -/
structure Eff where
  v : List (Nat × VReg) := []
  p : List (Nat × Bool) := []
  c : List (Nat × CapReg) := []
  fl : Nat := 0
  ms : Option (BitVec 32) := none
  off : Bool := false
  set : Option (Nat × Word) := none
  pc : Option Int := none
  effects : List Effect := []
  req : Option (ReqKind × Scope × List Piece) := none
  acts : List Act := []
  /-- a control transfer taken: its INFO of R452 and its target -/
  branch : Option (Nat × Int) := none
  /-- what a commit-class word keeps until it performs itself -/
  kept : Kept := {}
  /-- PASS is used up (R246) -/
  passed : Bool := false
deriving DecidableEq, Repr

/-- A result in a vector register: its tag, no poison (R61, R255). -/
def Eff.vec (d : Nat) (t : Tag) (x : Word) : Eff := { v := [(d, { val := x, tag := t })] }

/-- The registers and flags of a thread after its effect (R61, R199, R255, R266). -/
def Thread.apply (x : Thread) (e : Eff) : Thread :=
  let x := e.v.foldl (fun x w => x.putV w.1 w.2) x
  let x := e.p.foldl (fun x w => x.putP w.1 w.2) x
  let x := e.c.foldl (fun x w => x.putC w.1 w.2) x
  let x := x.orFlags e.fl
  let x := match e.ms with
    | some m => { x with mstat := m }
    | none => x
  let x := if e.off then x.switchOff else x
  let x := if e.passed then { x with pass := false } else x
  match e.set with
  | some (0x14, v) => setFpflags x v
  | some (0x13, v) => setMstat x v
  | some (0x12, v) => setScratchfault x v
  | _ => x

/-- The destination registers of a commit-class word, which belong to no instance (R206). -/
def Thread.deliver (x : Thread) (e : Eff) : Thread :=
  let x := e.v.foldl (fun x w => x.setV w.1 w.2) x
  let x := e.p.foldl (fun x w => x.setP w.1 w.2) x
  let x := e.c.foldl (fun x w => x.setC w.1 w.2) x
  if e.off then x.switchOff else x

/-! ### Fetching a word (R21, R177) -/

/-- A fetch: the word, a trap, a wait, translation faults or a table at no address. (DESIGN CHOICE, log entry 7.) -/
def State.fetchWord (s : State) (b : Block) (space : Space) (pc : Int) : State × LaneRes Nat :=
  match s.access b (s.codeCap b space) pc 8 8 opFetch with
  | (s', .ok ps) => (s', .ok (bytesToNat (ps.flatMap fun p => (s'.peek p).1)))
  | (s', .trap c a) => (s', .trap c a)
  | (s', .poison) => (s', .poison)
  | (s', .wait) => (s', .wait)
  | (s', .tfault fs) => (s', .tfault fs)
  | (s', .noMem a) => (s', .noMem a)

/-- Whether the word at a PC is `rgn` (R207, R215), or may be: one that cannot be fetched now shows what it is when it is
issued (`Thread.unbind`). (DEDUCED, log entry 31.) -/
def State.rgnAt (s : State) (b : Block) (space : Space) (pc : Int) : Bool :=
  match (s.fetchWord b space pc).2 with
  | .ok w => match decode w with
    | .ok (.rgn _) => true
    | _ => false
  | _ => true

/-- A thread whose next word after a commit-class word proves not to be `rgn` runs pinned with PERF (R207).
(DEDUCED, log entry 31.) -/
def Thread.unbind (x : Thread) : Thread := if x.bound then { x with bound := false, pinned := true, perf := true } else x

/-! ### The group that issues -/

/-- The group that issues and its block. -/
def State.current (s : State) : Option (Group × Block) :=
  (s.group? s.sched.cur).bind fun g => (s.block? g.blk).map fun b => (g, b)

/-- The threads a word is issued for: the runner of a frozen group's handler, else every member (R243), by lane.
(DEDUCED, log entry 23.) -/
def Group.issuers (g : Group) (b : Block) : List Thread :=
  match g.runner with
  | some t => b.members [t]
  | none => sortByLane (b.members g.tids)

/-- The selector of a partition as it was before its choice. -/
def Part.putBack (p : Part) (b : Nat × Nat × Bool) : Part := { p with cur := b.1, run := b.2.1, ovd := b.2.2 }

/-- A group that cannot issue now (R178): STALLED, or FROZEN with a runner whose word waits. Its word has not issued, and the
selector stands as before (R231). -/
def State.stall (s : State) (gid : Nat) : State :=
  let s1 := s.updGroup gid fun g => if g.st = .frozen then { g with stuck := true } else { g with st := .stalled }
  match s.sched.before, s.group? gid with
  | some b, some g =>
    { s1 with parts := s1.parts.map fun p => if p.core == g.core && p.part == g.part then p.putBack b else p }
  | _, _ => s1

/-- The result of a check with no value. -/
def LaneRes.up {α : Type} (d : α) : LaneRes Unit → LaneRes α
  | .ok _ => .ok d
  | .trap c a => .trap c a
  | .poison => .poison
  | .wait => .wait
  | .tfault fs => .tfault fs
  | .noMem a => .noMem a

/-- What a thread's word does once the checks of its form have passed, given the active threads of the group. -/
abbrev LaneFn := State → Block → List Thread → Thread → State × LaneRes Eff

/-- Whether a thread is the leader of a word: the lowest-numbered of its active threads (R142, R174). -/
def isLeader (act : List Thread) (x : Thread) : Bool := act.all fun y => decide (x.tid ≤ y.tid)

/-- The outcomes of the active threads in ascending home lane (R238). -/
def runLanes (fs : List Form) (lane : LaneFn) (b : Block) (act : List Thread) :
    List Thread → State → State × List (Thread × LaneRes Eff)
  | [], s => (s, [])
  | x :: xs, s =>
    let r := match (if x.mid || ((fs.any Form.leader) && !(isLeader act x)) then none else checkAll x fs) with
      | some r => (s, r.up ({} : Eff))
      | none => lane s b act x
    let t := runLanes fs lane b act xs r.1
    (t.1, (x, r.2) :: t.2)

/-- The threads of each outcome. -/
def trapsOf (rs : List (Thread × LaneRes Eff)) : List (Nat × Nat × Nat) :=
  rs.filterMap fun r => match r.2 with
    | .trap c a => some (r.1.tid, c, a)
    | _ => none

def faultsOf (rs : List (Thread × LaneRes Eff)) : List (Nat × List FaultAt) :=
  rs.filterMap fun r => match r.2 with
    | .tfault fs => some (r.1.tid, fs)
    | _ => none

def oksOf (rs : List (Thread × LaneRes Eff)) : List (Thread × Eff) :=
  rs.filterMap fun r => match r.2 with
    | .ok e => some (r.1, e)
    | _ => none

def firstPoison (rs : List (Thread × LaneRes Eff)) : Option Nat :=
  rs.findSome? fun r => match r.2 with
    | .poison => some r.1.tid
    | _ => none

def firstNoMem (rs : List (Thread × LaneRes Eff)) : Option Nat :=
  rs.findSome? fun r => match r.2 with
    | .noMem a => some a
    | _ => none

def anyWait (rs : List (Thread × LaneRes Eff)) : Bool :=
  rs.any fun r => match r.2 with
    | .wait => true
    | _ => false

/-! ### Resources -/

/-- Requests a partition has outstanding: distinct lines of distinct issues, of loads and atomics that have not returned and of
writes that a peer has not acknowledged (R72, R107). -/
def State.requestsOf (s : State) (core part : Nat) : Nat :=
  let reads := (s.reqs.filter fun r => r.core == core && partOf r.tid == part).flatMap fun r =>
    (peerLines r.pieces).map fun l => (r.issue, l)
  let writes := (s.items.filter fun i => i.core == core && partOf i.tid == part && !i.sent.isEmpty).flatMap fun i =>
    (peerLines i.eff.pieces).map fun l => (i.issue, l)
  (distinct (reads ++ writes)).length

/-- Whether the memory port's requests fit, with some more of a partition: 32 for each partition and 1,280 shared (R72). -/
def State.requestsFit (s : State) (core part more : Nat) : Bool :=
  ((List.range 8).foldl (fun n p => n + (s.requestsOf core p + (if p = part then more else 0) - 32)) 0) ≤ 1280

/-- Whether a core's queues have room for a command (R142): 32 entries each. -/
def State.queueRoom (s : State) (core mask : Nat) : Bool :=
  (List.range 5).all fun q => !(bitAt mask q)
    || decide ((s.engines.cmds.filter fun c => c.core == core && bitAt c.queue q && !c.done).length < 32)

/-- A command enters its queues (R143). -/
def State.enqueue (s : State) (c : Cmd) : State :=
  { s.bump with engines := { s.engines with cmds := s.engines.cmds ++ [{ c with id := s.sched.nextId }] } }

/-! ### Effects of the threads that complete -/

/-- Whether record or replay orders an effect (R457): an atomic or reduction on a recorded object. -/
def State.gated (s : State) (ctx : Nat) (e : Effect) : Bool := e.atomAt.any (s.recorded ctx)

/-- Whether a pinned thread's effect is performed later than it issues: record or replay orders it (R457), or a peer has to
acknowledge it (R107). -/
def State.deferred (s : State) (ctx : Nat) (e : Effect) : Bool := s.gated ctx e || e.pieces.any fun p => p.peer.isSome

/-- One effect of a thread in a pinned group is performed at issue, the thread runs pinned from then on, and PERF is set (R210,
R211); one that is performed later waits committed (R457). (DEDUCED, log entries 11 and 22.) -/
def State.performNow (s : State) (b : Block) (tid gid issue : Nat) (eff : Effect) : State :=
  let s1 := s.updThread b.uid tid fun x =>
    { x with pinned := true, perf := true,
             shash := if s.rrMode b.ctx ≠ 0 ∧ s.deferred b.ctx eff = false then eff.hash x.shash else x.shash }
  match eff with
  | .command c => s1.enqueue c
  | eff =>
    if s.deferred b.ctx eff then
      let inst := match s.thread? b.uid tid with
        | some x => x.inst
        | none => 0
      (s1.buffer b.core b.uid tid gid inst issue eff).commit b.uid [tid]
    else s1.perform b.core eff

/-- The effects of one thread: performed at issue when the group runs pinned, buffered else (R79, R210).
(DEDUCED, log entry 11.) -/
def State.putEffects (s : State) (b : Block) (gid issue : Nat) (pinned : Bool) (x : Thread) (e : Eff) : State :=
  if pinned then e.effects.foldl (fun s f => s.performNow b x.tid gid issue f) s
  else e.effects.foldl (fun s f => s.buffer b.core b.uid x.tid gid x.inst issue f) s

/-- The request of one thread goes out (R72): a load takes the bytes of its thread's own stores with it (R81), an atomic returns
what memory holds. -/
def State.putRequest (s : State) (b : Block) (gid issue : Nat) (x : Thread) (e : Eff) : State :=
  match e.req with
  | none => s
  | some (k, sc, ps) =>
    let mine := s.items.filter fun i => i.blk == b.uid && i.tid == x.tid
    let r : Req :=
      { id := s.sched.nextId, core := b.core, blk := b.uid, tid := x.tid, gid := gid, inst := x.inst, issue := issue,
        kind := k, scope := sc, pieces := ps, fwd := if k.isAtom then [] else s.forwarded b.uid x.tid ps, gateSince := s.sched.now,
        ret := ((s.thread? b.uid x.tid).getD x).retired, hash := ((s.thread? b.uid x.tid).getD x).shash,
        fwdTag := match ps with
          | p :: _ => if k.isAtom then none else forwardTag mine p
          | [] => none
        fwdPsn := mine.any fun i => i.psn && i.eff.chunks.any fun k => (ps.flatMap Piece.chunks).contains k }
    let lines := peerLines ps
    let known := (s.reqs.filter fun q => q.issue == issue).flatMap fun q => peerLines q.pieces
    let n := s.countRequests b.ctx b.core (lines.filter fun l => !(known.contains l)).length
    let pc := match s.group? gid with
      | some g => pc48 g.pc
      | none => 0
    { n.1.bump with reqs := s.reqs ++ [{ r with pc := pc, sheet := n.2 }] }

/-- Lines of the home cache that a cache operation names: written back, and dropped by an eviction, which triggers their
watches (R157, R360). -/
def State.cacheLines (s : State) (ps : List Piece) (evict : Bool) : State :=
  let lines := ps.flatMap fun p => linesOf p.addr p.len
  let step (h : HomeLine) : Option HomeLine :=
    if lines.contains h.line then (if evict then none else some { h with dirty := 0 }) else some h
  let s1 := { s with caches := { s.caches with home := s.caches.home.filterMap step } }
  if evict then
    (s.caches.home.filter fun h => lines.contains h.line).foldl (fun s h => s.trigger none (128 * h.line) 128) s1
  else s1

/-- One further action of a thread. -/
def State.putAct (s : State) (b : Block) (pinned : Bool) (tid : Nat) : Act → State
  | .watch sc a => s.armWatch b.uid tid b.core sc a
  | .unwatch => s.updThread b.uid tid fun x => { x with watch := none }
  | .give t v p c => s.updThread b.uid t fun x => x.apply { v := v, p := p, c := c }
  | .resume t rgn go pc => s.updThread b.uid t fun x =>
    let x := if rgn then { x with rgnpc := (pc : Nat) } else { x with trappc := pc }
    if go then { x with pc := (pc : Nat) } else x
  | .fill scope p => match p.peer with
    | some q =>
      if s.heldRemote (dieOf b.core) p then s
      else s.sendWrite { peer := q, obj := p.addr / 2 ^ 48, off := p.off, len := p.len, op := 1, data := 1, fill := some (dieOf b.core) }
    | none =>
    let s1 := if p.inL1 scope then s.fillL1 b.core p scope else s
    (s1.touchHome p p.addr p.len false).fillRemote (dieOf b.core) p
  | .cancel level h =>
    if pinned then (s.updThread b.uid tid fun x => { x with pinned := true, perf := true }).cancel b.ctx level h
    else s.updThread b.uid tid fun x => { x with cancels := x.cancels ++ [(level, h)] }
  | .cache op ps =>
    let here := ps.filter fun p => p.peer.isNone
    let sectors := here.flatMap fun p => linesOf p.addr p.len
    let l1 (all : Bool) := s.caches.l1.filter fun x => !((all || x.core == b.core) && sectors.contains (x.phys / 4))
    let rdc := s.caches.rdc.filter fun r => !(ps.any fun p => p.peer == r.peer && (linesOf p.addr p.len).contains r.line)
    if op = 0 then s.cacheLines here false
    else if op = 1 then
      let s1 := s.cacheLines here true
      { s1 with caches := { s1.caches with l1 := l1 true, rdc := rdc } }
    else { s with caches := { s.caches with l1 := l1 false } }

/-- One thread's whole effect. -/
def State.putLane (s : State) (b : Block) (gid issue : Nat) (pinned : Bool) (xe : Thread × Eff) : State :=
  let s1 := s.updThread b.uid xe.1.tid fun x => x.apply xe.2
  let s2 := s1.putEffects b gid issue pinned xe.1 xe.2
  let s3 := s2.putRequest b gid issue xe.1 xe.2
  xe.2.acts.foldl (fun s a => s.putAct b pinned xe.1.tid a) s3

/-- The effects that a pinned group's word performs at issue are counted as requests of its core, and sampled (R453).
(DEDUCED, log entry 34.) -/
def State.sampleWord (s : State) (b : Block) (gid issue : Nat) (oks : List (Thread × Eff)) : State :=
  let pc := match s.group? gid with
    | some g => pc48 g.pc
    | none => 0
  let effs := oks.flatMap fun o => (o.2.effects.filter fun f => !(s.deferred b.ctx f)).map fun f => (o.1.tid, f)
  (effs.foldl (fun (r : State × List Piece) f =>
    (r.1.sampleItem { id := 0, core := b.core, blk := b.uid, tid := f.1, gid := gid, inst := 0, issue := issue, eff := f.2, pc := pc } r.2,
      r.2 ++ f.2.pieces)) (s, [])).1

/-- Every thread's effect: lanes that a pinned group's store performs together leave a poisoned granule clean that they cover
together (R62). (DEDUCED, log entry 11.) -/
def State.putLanes (s : State) (b : Block) (gid : Nat) (pinned : Bool) (oks : List (Thread × Eff)) : State :=
  let s1 := if pinned then s.bump.sampleWord b gid s.sched.nextId oks else s.bump
  let t := oks.foldl (fun t xe => t.putLane b gid s.sched.nextId pinned xe) s1
  if pinned then t.mend b.core (oks.flatMap fun o => o.2.effects.flatMap Effect.stores) else t

/-- The trace record of a control transfer that some threads take (R452). (DEDUCED, log entry 30.) -/
def State.branchTrace (s : State) (g : Group) (b : Block) (pinned : Bool) (xs : List Thread) (oks : List (Thread × Eff)) :
    State :=
  let taken := oks.filterMap fun o => o.2.branch.map fun t => (o.1, t)
  match taken with
  | [] => s
  | (x, info, target) :: _ =>
    s.trace b (lowestLane (xs.map Thread.tid)) 0x10 info (pc48 g.pc) (pc48 target) (laneMask (taken.map fun t => t.1.tid))
      (if pinned then none else some (b.uid, x.tid, x.inst))

/-- The next PC of each issuing thread, and RETIRED of the active ones (R176, R456). -/
def State.stepPcs (s : State) (b : Block) (xs : List Thread) (oks : List (Thread × Eff)) : State :=
  xs.foldl (fun s x =>
    let e := oks.find? fun o => o.1.tid == x.tid
    let next : Int := match e with
      | some o => o.2.pc.getD (x.pc + 8)
      | none => x.pc + 8
    s.updThread b.uid x.tid fun y =>
      { y with pc := next, retired := if e.isSome ∧ s.rrMode b.ctx ≠ 0 then y.retired + 1 else y.retired }) s

/-- The commands an effect list would enter at once. -/
def Eff.commandMasks (e : Eff) : List Nat :=
  e.effects.filterMap fun f => match f with
    | .command c => some c.queue
    | _ => none

/-- Whether an effect of the thread reaches outside its registers at issue when it runs pinned (R211). -/
def Eff.outside (e : Eff) : Bool := !e.effects.isEmpty || e.acts.any fun a => match a with
  | .cancel .. => true
  | _ => false

/-- The lines that the effects of a pinned group's word reach as it issues: a request each, which the port has to hold besides the
requests that stand (R72). -/
def effectLines (pinned : Bool) (oks : List (Thread × Eff)) : List (Option Nat × Nat) :=
  if pinned then distinct (oks.flatMap fun o => o.2.effects.flatMap fun f => peerLines f.pieces) else []

/-- Whether the memory port cannot take what a word requests, with its loads in place and its pinned stores besides (R72). -/
def portFull (t : State) (core part : Nat) (pinned : Bool) (oks : List (Thread × Eff)) : Bool :=
  ((oks.any fun o => o.2.req.isSome) || !(effectLines pinned oks).isEmpty)
  && !(t.requestsFit core part (effectLines pinned oks).length)

/-- The entries of a block that a word cannot have: those in use, and those that an overflow has freed in this clock, which a
group that is refused in the same clock does not get (R83). -/
def State.entriesTaken (s : State) (items : List Item) (b : Block) : Nat :=
  entriesUsed items b.uid + (if b.freed.1 = s.sched.now then b.freed.2 else 0)

/-- A group's region overflows: its entries are freed for later clocks, and it re-enters pinned (R83). -/
def State.overflow (s : State) (g : Group) (b : Block) : State :=
  let t := s.reenter g.gid true
  t.updBlock b.uid fun k =>
    { k with freed := (s.sched.now, s.entriesTaken s.items b - entriesUsed t.items b.uid) }

/-- The word completes for the threads in `oks`; every issuing thread in `xs` goes on (R176). It may have to wait for
entries, requests or queue room (R72, R83, R178), and a region that its quota cannot hold overflows (R83).
(DEDUCED, log entries 11, 22 and 89.) -/
def State.complete (s : State) (g : Group) (b : Block) (xs : List Thread) (oks : List (Thread × Eff)) : Out :=
  let pinned := groupPinned xs
  let busy := pinned && oks.any fun o => o.2.outside && (s.outstanding b.uid o.1.tid || s.pendingOf b.uid o.1.tid
    || o.2.effects.any fun f => f.pieces.any fun p => s.lockedOut s.sched.nextId p)
  let open1 := (oks.filter fun o => pinned && o.2.outside && s.openOf b.uid o.1.tid).map fun o => o.1.tid
  let full := pinned && oks.any fun o => o.2.commandMasks.any fun m => !(s.queueRoom b.core m)
  if busy || full then .next (s.stall g.gid)
  else if !open1.isEmpty then
    -- a thread drawn into a pinned group commits what it has open, so that its writes keep their order (log entry 11)
    .next (((s.commit b.uid open1).updBlock b.uid fun k => k.updThreads fun x =>
      if open1.contains x.tid then { x with pinned := true, perf := true } else x).stall g.gid)
  else
    let s1 := (s.putLanes b g.gid pinned oks).branchTrace g b pinned xs oks
    if !pinned && decide (s.entriesTaken s1.items b > b.quota) && decide (entriesUsed s1.items b.uid > entriesUsed s.items b.uid) then
      if s.drains b.uid then .next (s.stall g.gid) else .next (s.overflow g b)
    else if portFull s1 b.core g.part pinned oks then .next (s.stall g.gid)
    else .next ((s1.stepPcs b xs oks).regroup g.gid)

/-- Threads that take ALIGN in one word report the offset of the lowest misaligned lane (R237). -/
def alignedTraps (ts : List (Nat × Nat × Nat)) : List (Nat × Nat × Nat) :=
  match ts.find? fun t => t.2.1 == cAlign with
  | some l => ts.map fun t => if t.2.1 = cAlign then (t.1, t.2.1, l.2.2) else t
  | none => ts

/-- The outcomes of a word's threads combine (R239): `go` completes it for the threads that pass. `leads` marks a word that
acts for its group: when its leader traps, the others complete it (R142). -/
def State.combine (s : State) (leads : Bool) (g : Group) (b : Block) (xs : List Thread) (rs : List (Thread × LaneRes Eff))
    (go : State → List Thread → List (Thread × Eff) → Out) : Out :=
  match firstNoMem rs with
  | some a => .fault (.noSuchAddress a)
  | none =>
    match firstPoison rs with
    | some tid => .next (s.consumePoison b.uid tid)
    | none =>
      if anyWait rs then .next (s.stall g.gid)
      else
        let s0 := s.dropAsks s.sched.cur
        match alignedTraps (trapsOf rs), faultsOf rs with
        | [], [] => go s0 xs (oksOf rs)
        | [], fs => .next (s0.park g.gid fs g.pc)
        | ts, fs =>
          let s1 := s0.takeTraps g.gid ts g.pc
          if s0.tmode b.ctx then .next s1
          else if fs ≠ [] then .next (s1.park g.gid fs g.pc)
          else if (groupPinned xs && !leads) ∨ s1.group? g.gid = none then .next s1
          else go s1 (xs.filter fun x => !(ts.any fun t => t.1 == x.tid)) (oksOf rs)

/-! ### Checked mode (R444 to R447) -/

/-- A mismatch of a unit is counted (R446): the count after it. Units: class 0 or 1, core, partition and lane, or the
Press of a quad, as %unit numbers them. (DESIGN CHOICE, log entry 111.) -/
def State.countMismatch (s : State) (unit : Nat) : State × Nat :=
  let w := s.sdcWindow unit
  let last := lookupD (0, w) unit s.rel.mismatches
  let n := if last.2 = w then last.1 + 1 else 1
  ({ s with rel := { s.rel with mismatches := setAt unit (n, w) s.rel.mismatches } }, n)

/-- An error record (R442): written to the ring, dropped when it is full, not kept while ERRBASE is 0 (R443).
(DESIGN CHOICE, log entry 112.) -/
def State.errorRecord (s : State) (kind store unit ctx paddr blk syn : Nat) : State :=
  let r := s.rel
  let seq := r.errseq
  let s1 := { s with rel := { r with errseq := (seq + 1) % 2 ^ 32 } }
  let s2 :=
    if r.errbase = 0 then s1
    else if (r.errprod + 2 ^ 64 - r.errcons) % 2 ^ 64 ≥ 2 ^ (r.errlog2 + 4) then
      { s1 with rel := { s1.rel with errlost := if r.errlost < 2 ^ 64 - 1 then r.errlost + 1 else r.errlost } }
    else
      let t := s1.devWrite (r.errbase + 32 * (r.errprod % 2 ^ (r.errlog2 + 4)))
        (natToBytes 8 (kind + store * 2 ^ 8 + unit * 2 ^ 16 + ctx * 2 ^ 32) ++ natToBytes 8 (paddr % 2 ^ 55)
          ++ natToBytes 8 (blk % 2 ^ 32 + seq * 2 ^ 32) ++ natToBytes 8 syn)
      { t with rel := { t.rel with errprod := (r.errprod + 1) % 2 ^ 64 } }
  s2.postEvent 7 ctx s2.rel.errprod

/-- SYN of R442 from the three registers of R402. -/
def synOf (syndrome unit tilexy : Nat) : Nat := syndrome + unit * 2 ^ 12 + tilexy * 2 ^ 33

/-- A lasting fault of a core (R447): it is fenced, and every resident block relocates; the failing block keeps what SDC
is to report. -/
def State.fenceCore (s : State) (core uid : Nat) (tids : List Nat) (syndrome unit tilexy : Nat) : State :=
  let s1 := { s with rel := { s.rel with fencedCores := setBit s.rel.fencedCores core } }
  let s2 := s1.updBlock uid fun b => { b with sdc := some (tids, syndrome, unit, tilexy) }
  s2.relocateBlocks (s2.blocks.filter fun b => b.core == core && b.st == .resident)

/-- Two results of a thread disagree in checked mode (R445): `kind` is the KIND of %syndrome.
(DESIGN CHOICE, log entry 28.) -/
def State.mismatch (s : State) (g : Group) (b : Block) (xs : List Thread) (lane kind : Nat) (special : Bool) : State :=
  let unit := bit special + b.core * 2 ^ 3 + g.part * 2 ^ 13 + lane * 2 ^ 16
  let s1 := { s with sched := { s.sched with glitch := none } }
  let r := s1.countMismatch unit
  let syndrome := kind + (if r.2 < 255 then r.2 else 255) * 2 ^ 4
  if r.2 < s.rel.sdclimit then
    let s2 := r.1.errorRecord 5 0 b.core b.ctx 0 b.blk (synOf syndrome unit 0)
    if groupPinned xs then s2 else s2.reenter g.gid false
  else
    let s2 := r.1.errorRecord 6 0 b.core b.ctx 0 b.blk (synOf syndrome unit 0)
    s2.fenceCore b.core b.uid (xs.map Thread.tid) syndrome unit 0

/-- The glitch that this issue meets, in a block of a checked launch: that of the datapath or of the special-function
unit of the home lane of one of its threads, or of the lane above, on which the thread is computed again (R444, R445). `kind` is the KIND of %syndrome. (DESIGN CHOICE, log entry 28.) -/
def State.glitchOf (s : State) (b : Block) (act : List Thread) (kind : Nat) : Option (Nat × Bool) :=
  match s.sched.glitch, s.launch? b.launch with
  | some (lane, special), some l =>
    if l.checked && special == (kind == 2) && act.any fun x => laneOf x.tid == lane || (laneOf x.tid + 1) % 32 == lane then
      some (lane, special)
    else none
  | _, _ => none

/-- A word whose results disagree is not performed (R445); every other goes on. -/
def State.compared (s : State) (g : Group) (b : Block) (act : List Thread) (kind : Nat) (go : Out) : Out :=
  match s.glitchOf b act kind with
  | some (l, special) => .next (s.mismatch g b (g.issuers b) l kind special)
  | none => go

/-! ### Words -/

/-- Whether an acquire or a release of a scope by a thread waits for what the loss of a port or of a peer may cut off: one of pool
scope, or of system scope while a write of the thread awaits its peer (R101 step 5, R108). (DEDUCED, log entry 33.) -/
def State.mayBeCut (s : State) (uid tid : Nat) (sc : Scope) : Bool :=
  sc == .pool || (sc == .system && s.items.any fun i => i.blk == uid && i.tid == tid && i.committed.isSome
    && i.eff.pieces.any fun p => p.peer.isSome)

/-- Whether a thread's returning atomic has not returned (note 4 of R129), or an acquire or release of it is not performed that
may be cut off: its group issues nothing before. (DEDUCED, log entry 33.) -/
def State.awaiting (s : State) (uid tid : Nat) : Bool :=
  (s.reqs.any fun r => r.blk == uid && r.tid == tid && (r.isAtom || (s.mayBeCut uid tid r.scope && match r.kind with
    | .load _ _ _ acq => acq
    | _ => false)))
  || s.items.any fun i => i.blk == uid && i.tid == tid && i.committed.isSome && match i.eff with
    | .release _ _ sc => s.mayBeCut uid tid sc
    | _ => false

/-- A word that is not commit-class. `kind` is its KIND of %syndrome (R402); `mem` marks a memory operation, which an
outstanding acquire of a thread holds back. -/
def laneWord (fs : List Form) (mem : Bool) (kind : Nat) (lane : LaneFn) (s : State) : Out :=
  match s.current with
  | none => .refused .noGroup
  | some (g, b) =>
    let xs := g.issuers b
    let act := xs.filter fun x => x.active (match fs with
      | f :: _ => f.guard
      | [] => .always)
    if act.any fun x => (fs.any fun f => s.hazard b.uid x.tid f) || (mem && s.acquiring b.uid x.tid) || s.awaiting b.uid x.tid then
      .next (s.stall g.gid)
    else
      s.compared g b act kind
        (let r := runLanes fs lane b act act s
         r.1.combine (fs.any Form.leader) g b xs r.2 fun s xs oks => s.complete g b xs oks)

/-- The commit of threads' instances with the cancels they hold (R187, R206). -/
def State.commitAll (s : State) (b : Block) (tids : List Nat) : State :=
  let cs := distinct ((b.threads.filter fun x => tids.contains x.tid).flatMap Thread.cancels)
  let s1 := (s.commit b.uid tids).updBlock b.uid fun k => k.updThreads fun x =>
    if tids.contains x.tid then { x with cancels := [] } else x
  cs.foldl (fun s c => s.cancel b.ctx c.1 c.2) s1

/-- Threads that a save or a cancel waits for are taken once they need not be waited for (R212, R216). -/
def State.settleSave (s : State) (uid : Nat) : State :=
  match s.block? uid with
  | none => s
  | some b => if b.save.isSome ∧ b.st = .resident then s.holdThreads uid else s

/-- What a commit-class word performs once its threads have committed: registers are delivered, requests go out, and
whatever else the word does. The flag says that its threads go on to the next word. -/
abbrev PerformFn := State → Group → Block → List (Thread × Eff) → State × Bool

/-- SHASH of a returning atomic at issue (R456): its operand, or the new value of `cas`. -/
def ReqKind.hash (h : Nat) (ps : List Piece) : ReqKind → Nat
  | .atom _ op _ _ opnd new => match ps with
    | p :: _ => hashWrite h p.hashKey.1 p.hashKey.2 (if op = 7 then new else opnd)
    | [] => h
  | _ => h

/-- The plain performance: destination registers, effects that are committed as they stand, requests (R206). -/
def performPlain : PerformFn := fun s g b oks =>
  let t := oks.foldl (fun t xe =>
    let t1 := t.updThread b.uid xe.1.tid fun x =>
      let x := x.deliver xe.2
      match xe.2.req with
      | some (k, _, ps) => if s.rrMode b.ctx ≠ 0 then { x with shash := k.hash x.shash ps } else x
      | none => x
    let t2 := xe.2.effects.foldl (fun t f => t.buffer b.core b.uid xe.1.tid g.gid xe.1.inst s.sched.nextId f) t1
    let t3 := if xe.2.effects.isEmpty then t2 else t2.commit b.uid [xe.1.tid]
    t3.putRequest b g.gid s.sched.nextId xe.1 xe.2) s.bump
  (t, true)

/-- A performance after which the word's threads go on. -/
def performThen (f : State → Group → Block → List (Thread × Eff) → State) : PerformFn := fun s g b oks => (f s g b oks, true)

/-- The threads that performed a commit-class word go on at the next word, at a boundary or pinned (R207, R215); guarded
ones go on too. Those that left the group are left alone. -/
def State.afterCommits (s : State) (g : Group) (b : Block) (xs : List Thread) (oks : List (Thread × Eff)) : State :=
  let here := match s.group? g.gid with
    | some g => g.tids
    | none => []
  let next := s.rgnAt b g.space (g.pc + 8)
  let s1 := xs.foldl (fun s x =>
    if here.contains x.tid then
      s.updThread b.uid x.tid fun y =>
        let y := if oks.any fun o => o.1.tid == x.tid then { y.afterCommit next with mid := false, kept := {} } else y
        { y with pc := x.pc + 8 }
    else s) s
  (((s1.regroup g.gid).drawAll g.core g.part).settleSave b.uid)

/-- RETIRED of the threads that perform a commit-class word (R456). -/
def State.retire (s : State) (b : Block) (tids : List Nat) : State :=
  if s.rrMode b.ctx ≠ 0 then
    s.updBlock b.uid fun k => k.updThreads fun x => if tids.contains x.tid then { x with retired := x.retired + 1 } else x
  else s

/-- The trace record of a commit (R452): INFO 0 for `rgn`, 1 for a commit-class word. -/
def State.commitTrace (s : State) (b : Block) (tids : List Nat) (info : Nat) (pc : Int) : State :=
  let t := lowestLane tids
  match b.thread? t with
  | some x => s.trace b t 0x11 info (pc48 pc) (x.inst + x.rdi.getD 0 * 2 ^ 32) 0 none
  | none => s

/-- The commit, and the performance once committed entries are performed where the word waits for them (`drain`). A word whose
requests do not fit has not issued (R72). (DEDUCED, log entry 19.) -/
def State.commitPerform (s : State) (drain : Item → Bool) (perform : PerformFn) (g : Group) (b : Block) (xs : List Thread)
    (oks : List (Thread × Eff)) : Out :=
  let tids := oks.map fun o => o.1.tid
  let fresh := tids.filter fun t => !(xs.any fun x => x.tid == t && x.mid)
  let s1 := ((s.retire b fresh).commitAll b fresh).commitTrace b tids 1 g.pc
  let s2 := if fresh.isEmpty then s else s1
  if tids.any fun t => s2.pendingIn drain b.uid t then
    .next ((oks.foldl (fun s o => s.updThread b.uid o.1.tid fun x => { x with mid := true, kept := o.2.kept }) s2).stall g.gid)
  else
    match s2.block? b.uid with
    | none => .next s2
    | some b2 =>
      let oks2 := oks.map fun o => ((b2.thread? o.1.tid).getD o.1, o.2)
      let r := perform s2 g b2 oks2
      if portFull r.1 b.core g.part false oks then .next (s.stall g.gid)
      else .next (if r.2 then r.1.afterCommits g b2 xs oks2 else r.1)

/-- A commit-class word (R206): it waits for the outstanding loads and atomics of its threads, then checks, commits and
performs itself. A thread that has committed (`mid`) is not checked again: it goes on with what it keeps.
(DEDUCED, log entry 19.) -/
def commitWord (fs : List Form) (drain : Item → Bool) (lane : LaneFn) (perform : PerformFn) (s : State) : Out :=
  match s.current with
  | none => .refused .noGroup
  | some (g, b) =>
    let xs := g.issuers b
    let act := xs.filter fun x => x.mid || x.active (match fs with
      | f :: _ => f.guard
      | [] => .always)
    if act.any fun x => s.outstanding b.uid x.tid then .next (s.stall g.gid)
    else
      s.compared g b act 1
        (let r := runLanes fs (fun s b act x => if x.mid then (s, .ok { kept := x.kept }) else lane s b act x) b act act s
         r.1.combine (fs.any Form.leader) g b xs r.2 fun s xs oks =>
          if oks.isEmpty then .next ((s.stepPcs b xs []).regroup g.gid) else s.commitPerform drain perform g b xs oks)

end Sys2Proof.Machine
end

