-- ==== Sys2Proof/Machine/Gate.lean ====
section
/-!
DEFINITION. Which outstanding request and which committed entry may be performed next (R82, R118, R121, R123, R128 to
R133), and the log of record and replay that orders atomics (R457, R458).
-/

namespace Sys2Proof.Machine

open Sys2Proof

/-- A move that is not enabled. -/
def notNow (why : String) : Out := .refused (.notEnabled why)

/-! ### Command completions (R427) -/

/-- Entries of the command ring: 2^CMDLOG2, which reads 0 until it is written (R426). -/
def HostLink.cmdCount (l : HostLink) : Nat := 2 ^ (if l.cmdlog2 < 4 then 4 else l.cmdlog2)

/-- A command completes (R427): its record at its own index, and MSI-X vector 0. -/
def State.finishCommand (s : State) (idx op status d1 : Nat) : Out :=
  let a := s.link.cplbase + 16 * (idx % s.link.cmdCount)
  if s.memHas a 16 = false then .fault (.noSuchAddress a)
  else if s.poolDown a 16 then notNow "command: the ring of completions lies behind a link that is down"
  else
    let s1 := s.devWrite a (natToBytes 8 (status + op * 2 ^ 8 + idx % 2 ^ 32 * 2 ^ 32) ++ natToBytes 8 d1)
    .next { s1 with link := { s1.link with msix := s1.link.msix ++ [0] } }

/-! ### The log of record and replay (R457) -/

/-- One atomic as the log sees it: context, object, block's ordinal and number, thread, RETIRED and SHASH. -/
structure LogKey where
  ctx : Nat
  obj : Nat
  uid : Nat
  lord : Nat
  blk : Nat
  tid : Nat
  ret : Nat
  hash : Nat
deriving DecidableEq, Repr

/-- The launch ordinal of a block (R448). -/
def State.lordOf (s : State) (b : Block) : Nat := match s.launch? b.launch with
  | some l => l.lord % 2 ^ 32
  | none => 0

/-- The key of a returning atomic; none where nothing orders it. -/
def State.reqKey (s : State) (r : Req) : Option LogKey :=
  match s.block? r.blk, r.pieces with
  | some b, p :: _ =>
    if r.isAtom && s.recorded b.ctx p then
      some { ctx := b.ctx, obj := p.obj, uid := b.uid, lord := s.lordOf b, blk := b.blk, tid := r.tid, ret := r.ret, hash := r.hash }
    else none
  | _, _ => none

/-- The key of a committed reduction; none where nothing orders it. -/
def State.itemKey (s : State) (i : Item) : Option LogKey :=
  match s.block? i.blk, i.eff.atomAt with
  | some b, some p =>
    if s.recorded b.ctx p then
      some { ctx := b.ctx, obj := p.obj, uid := b.uid, lord := s.lordOf b, blk := b.blk, tid := i.tid, ret := i.ret, hash := i.hash }
    else none
  | _, _ => none

/-- Whether the log ring has no room (R457). -/
def Debug.full (d : Debug) : Bool := (d.rrprod + 2 ^ 64 - d.rrcons) % 2 ^ 64 ≥ 2 ^ (d.rrlog2 + 4)

/-- An atomic is entered in the open chunk of its object: in the run of the same thread, in a new entry, or in a new chunk
where the open one is full. (DEDUCED, log entry 35.) -/
def Debug.enter (d : Debug) (k : LogKey) : Debug :=
  let n := lookupD 0 k.obj d.counts
  let one := (k.lord, k.blk, k.tid, 1, k.ret, k.hash)
  let fresh : Chunk := { ctx := k.ctx, obj := k.obj, first := n, closed := false, entries := [one] }
  let counts := setAt k.obj (n + 1) d.counts
  match d.chunks.find? fun c => c.obj == k.obj && !c.closed with
  | none => { d with counts := counts, chunks := d.chunks ++ [fresh] }
  | some c =>
    let put (es : List (Nat × Nat × Nat × Nat × Nat × Nat)) : List Chunk :=
      d.chunks.map fun e => if e.obj = k.obj ∧ e.closed = false then { e with entries := es } else e
    match c.entries.getLast? with
    | some (lo, bl, t, run, re, h) =>
      if lo = k.lord ∧ bl = k.blk ∧ t = k.tid ∧ run < 65535 then
        { d with counts := counts, chunks := put (c.entries.dropLast ++ [(lo, bl, t, run + 1, re, h)]) }
      else if c.entries.length < 7 then { d with counts := counts, chunks := put (c.entries ++ [one]) }
      else
        let closed := d.chunks.map fun e => if e.obj = k.obj ∧ e.closed = false then { e with closed := true } else e
        { d with counts := counts, chunks := closed ++ [fresh] }
    | none => { d with counts := counts, chunks := put [one] }

/-- The bytes of a chunk with its number (R457, R459). -/
def Chunk.bytes (c : Chunk) (cseq : Nat) : List Byte :=
  natToBytes 8 (0x40 + c.entries.length * 2 ^ 8 + c.ctx * 2 ^ 16 + cseq % 2 ^ 32 * 2 ^ 32) ++ natToBytes 8 c.obj
  ++ natToBytes 8 c.first ++ natToBytes 8 0
  ++ ((List.range 7).flatMap fun i => match c.entries.drop i with
      | (lo, bl, t, run, re, h) :: _ => natToBytes 4 lo ++ natToBytes 4 bl ++ natToBytes 8 (t + run * 2 ^ 32)
          ++ natToBytes 8 re ++ natToBytes 8 h
      | [] => List.replicate 32 0)

/-- The entry of a chunk of the ring that holds position n after FIRST: whose it is, how far into its run, and what was
logged at the run's first atomic. -/
def logRun (m : Mem) (a : Nat) : Nat → Nat → Option (Nat × Nat × Nat × Nat × Nat × Nat)
  | 0, _ => none
  | fuel + 1, n =>
    let d1 := m.read (a + 8) 8
    let run := bits d1 32 16
    if n < run then
      some (m.read a 4, m.read (a + 4) 4, bits d1 0 10, n, m.read (a + 16) 8, m.read (a + 24) 8)
    else logRun m (a + 32) fuel (n - run)

/-- The log's entry for the next atomic on an object in replay: none once the log is exhausted. -/
def State.logHead (s : State) (ctx obj : Nat) : Option (Nat × Nat × Nat × Nat × Nat × Nat) :=
  let d := s.dbg
  let pos := lookupD 0 obj d.replayPos
  (List.range (min (d.rrprod - d.rrcons) (2 ^ (d.rrlog2 + 4)))).findSome? fun i =>
    let a := d.rrbase + 256 * ((d.rrcons + i) % 2 ^ (d.rrlog2 + 4))
    let h := s.mem.read a 8
    let first := s.mem.read (a + 16) 8
    if h % 256 = 0x40 ∧ bits h 16 16 = ctx ∧ s.mem.read (a + 8) 4 = obj ∧ first ≤ pos then
      logRun s.mem (a + 32) (min (bits h 8 8) 7) (pos - first)
    else none

/-- Whether an atomic waits at the gate: in record mode while a closed chunk waits for room, in replay mode while the log
is not exhausted. -/
def State.gateHolds (s : State) (k : LogKey) : Bool :=
  if s.rrMode k.ctx = 1 then s.dbg.full && s.dbg.chunks.any Chunk.closed else (s.logHead k.ctx k.obj).isSome

/-- Whether an atomic's thread heads the log position of its object. -/
def State.gateHead (s : State) (k : LogKey) : Bool :=
  s.rrMode k.ctx == 2 && match s.logHead k.ctx k.obj with
    | some (lo, bl, t, _) => lo == k.lord && bl == k.blk && t == k.tid
    | none => false

/-- An ordered atomic has been performed: logged in record mode, counted in replay mode. -/
def State.passed (s : State) (k : LogKey) : State :=
  if s.rrMode k.ctx = 1 then { s with dbg := s.dbg.enter k }
  else { s with dbg := { s.dbg with replayPos := setAt k.obj (lookupD 0 k.obj s.dbg.replayPos + 1) s.dbg.replayPos } }

/-- The atomics of a context that wait at the gate stay unperformed until their blocks are resumed (R457).
(DEDUCED, log entry 36.) -/
def State.shutGate (s : State) (ctx : Nat) : State :=
  let waits (k : Option LogKey) : Bool := k.any fun k => k.ctx == ctx && s.gateHolds k
  { s with reqs := s.reqs.map fun r => if waits (s.reqKey r) then { r with shut := true, locked := false } else r,
           items := s.items.map fun i =>
             if i.committed.isSome && waits (s.itemKey i) then { i with shut := true, locked := false } else i }

/-- A stop of replay (R457, R458): every block of the context halts, the block of the atomic names its thread and what was
logged, RRMODE becomes 0, and what waits at the gate stays unperformed. A block that had halted before writes a record of this stop too,
in place of one that it has not written yet. (DEDUCED, log entries 35 and 36.) -/
def State.replayStop (s : State) (k : LogKey) (reason : Nat) (log : Nat × Nat) : State :=
  let s := s.shutGate k.ctx
  let s1 := (s.blocks.filter fun b => b.ctx == k.ctx && b.st != .finished).foldl (fun s b => s.haltBlock b.uid reason 0 (0, 0)) s
  let s2 := s1.updBlock k.uid fun b =>
    if b.halt = some (reason, false) then { b with haltTid := k.tid, haltLog := log } else b
  { s2 with dbg := { s2.dbg with dbgctl := s2.dbg.dbgctl - bits s2.dbg.dbgctl 24 2 * 2 ^ 24 } }

/-! ### Which request may be performed -/

/-- Whether a request is an acquire. -/
def Req.isAcquire (r : Req) : Bool := match r.kind with
  | .load _ _ _ acq => acq
  | _ => false

/-- Whether a thread has a committed release that is not performed. (DEDUCED, log entry 33.) -/
def State.releasing (s : State) (uid tid : Nat) : Bool :=
  s.items.any fun i => i.blk == uid && i.tid == tid && i.committed.isSome && (match i.eff with
    | .release .. => true
    | _ => false)

/-- Whether an outstanding request may be performed: after the earlier atomics, acquires and same-byte loads of its
thread, and after what is ordered with it because one of the two is to SO memory (R114); an atomic after what its thread has
committed, an acquire after its releases. (DEDUCED, log entries 33 and 108.) -/
def State.respondable (s : State) (r : Req) : Bool :=
  let earlier := (s.reqs.takeWhile fun q => q.id != r.id).filter fun q => q.blk == r.blk && q.tid == r.tid
  !(earlier.any fun q => q.isAtom || q.isAcquire || q.pieces.any fun p => r.pieces.any fun o => p.meets o || p.strong o)
  && !(s.items.any fun i => i.blk == r.blk && i.tid == r.tid && i.committed.isSome
      && i.eff.pieces.any fun p => r.pieces.any fun o => p.strong o)
  && !(r.isAtom && s.pendingOf r.blk r.tid) && !(r.isAcquire && s.releasing r.blk r.tid)

/-- Insertion by ascending home lane. -/
def insertLane {α : Type} (tid : α → Nat) (l : List α) (q : α) : List α :=
  (l.takeWhile fun o => laneOf (tid o) ≤ laneOf (tid q)) ++ [q] ++ (l.dropWhile fun o => laneOf (tid o) ≤ laneOf (tid q))

/-- What a relation joins to an element, step by step: the lanes of a list that go together with it. -/
def joined {α : Type} (rel : α → α → Bool) (lanes : List α) (a : α) : List α :=
  lanes.foldl (fun l _ => lanes.filter fun q => l.any (rel q)) [a]

/-- Whether two lanes of one word are performed in the order of the lanes: they name one location (R121, R272), under whatever
object, or one recorded object (R457). -/
def State.laneOrdered (s : State) (r q : Req) : Bool :=
  r.pieces.map Piece.spot == q.pieces.map Piece.spot
  || ((s.reqKey r).isSome && (s.reqKey r).map LogKey.obj == (s.reqKey q).map LogKey.obj)

/-- The requests of one word whose order is that of the lanes, in ascending home lane: they are performed one after another with
nothing between them (R121). -/
def State.sameWord (s : State) (r : Req) : List Req :=
  if r.isAtom then
    (joined s.laneOrdered (s.reqs.filter fun q => q.isAtom && q.issue == r.issue) r).foldl (insertLane Req.tid) []
  else [r]

/-- Whether a place lies behind a pool port whose link is not up (R101). (DESIGN CHOICE, log entry 16.) -/
def State.cutOff (s : State) (p : Piece) : Bool :=
  p.scratch.isNone && p.peer.isNone && match poolPort (p.addr / 65536) with
    | some n => !((s.ports.getD n {}).up)
    | none => false

/-- Whether the gate of record and replay holds a request. -/
def State.reqGated (s : State) (r : Req) : Bool := (s.reqKey r).any s.gateHolds

/-- Whether a request may be performed at this device as far as its order goes: it, and for an atomic the other lanes of its
word on its location, of which it is the first. (DESIGN CHOICE, log entry 16.) -/
def State.wordReady (s : State) (r : Req) : Bool :=
  (s.sameWord r).head?.any (fun q => q.id == r.id)
  && (s.sameWord r).all fun q => s.respondable q && !q.shut && !(q.pieces.any fun p => s.cutOff p || s.lockedOut q.issue p)

/-- Whether a piece is read here: it lies at this device, or the core's remote-data cache holds it (R75). -/
def State.readHere (s : State) (core : Nat) (p : Piece) : Bool := p.peer.isNone || s.heldRemote (dieOf core) p

/-- The pieces of a load that have not been performed. -/
def Req.due (r : Req) (j : Nat) : Option Piece := if r.got.any fun g => g.1 == j then none else r.pieces[j]?

/-- Whether piece j of a load may be performed at this device now, one of its own or of its order.
(DESIGN CHOICE, log entry 109.) -/
def State.pieceReady (s : State) (r : Req) (j : Nat) : Bool :=
  s.respondable r && (r.due j).any fun p => s.readHere r.core p && !(s.cutOff p)

/-! ### Which committed entry may be performed (R82) -/

/-- Whether a committed entry must wait: a command for room in its queues (R142), any other for the gate, for a link that is
down, for a peer's word, for lanes of its word, or for the lanes of another word that is being performed on its place (R121).
(DESIGN CHOICE, log entry 16.) -/
def State.itemHeld (s : State) (i : Item) : Bool := match i.eff with
  | .command c => !(s.queueRoom i.core c.queue)
  | _ => i.shut || !i.sent.isEmpty || (i.eff.pieces.any fun p => s.cutOff p || s.lockedOut i.issue p)
    || (s.itemKey i).any s.gateHolds || s.awaitsLanes i

/-- Whether any entry that is not performed precedes another. -/
def State.behind (s : State) (i : Item) : Bool := s.items.any fun j => j.precedes i

/-- Whether an entry committed earlier than another on its core, and is no lane of its word in their order. -/
def State.before (s : State) (j i : Item) : Bool :=
  j.core == i.core && j.committed.isSome && decide (j.committed.getD 0 < i.committed.getD 0) && !(s.lanesOf j i)

/-- Whether an earlier entry must be seen before a later one: they share a byte or a counter, one of them is to SO memory (R114),
the later one is a release, or the earlier one is a command of its group, behind which the group's entries wait (R143).
(DEDUCED, log entries 18 and 108.) -/
def Item.orders (j i : Item) : Bool :=
  (j.eff.pieces.any fun p => i.eff.pieces.any p.meets) || (i.isRelease && j.issue != i.issue)
  || (j.eff.spot.isSome && j.eff.spot == i.eff.spot)
  || (j.isCommand && j.precedes i)
  || (j.blk == i.blk && j.tid == i.tid && j.eff.pieces.any fun p => i.eff.pieces.any p.strong)

/-- The chunks whose stores may be performed as one: those of a store, and of a release, whose lanes are one request (R72). -/
def Effect.joins : Effect → List (Option Nat × Option Nat × Nat)
  | .release ps _ _ => ps.flatMap Piece.chunks
  | e => e.chunks

/-- Whether two committed stores share an entry of the store buffer: one group and instance, and one chunk (R78, R79); or are
lanes of one release word on one chunk (R72). Stores to SO memory share only within a word, since R114 orders them.
(DEDUCED, log entry 89.) -/
def Item.shares (i j : Item) : Bool :=
  i.core == j.core && i.blk == j.blk && i.gid == j.gid && i.inst == j.inst && i.isRelease == j.isRelease
  && (i.eff.joins.any fun k => j.eff.joins.contains k)
  && (i.issue == j.issue || (!i.isRelease && (i.eff.pieces ++ j.eff.pieces).all fun p => p.ord != 0))

/-- The stores that are performed with those in `took`, out of later entries in the order of their commits: those that share an
entry with one of them, unless one that stays behind (`left`) orders them. (DEDUCED, log entry 18.) -/
def State.joinStores (s : State) : List Item → List Item → List Item → List Item
  | [], _, took => took
  | j :: js, left, took =>
    if (took.any fun i => i.shares j) && !(s.itemHeld j) && !(left.any fun k => k.orders j) then s.joinStores js left (took ++ [j])
    else s.joinStores js (left ++ [j]) took

/-- The committed entries performed with one: every lane of its word whose order is that of the lanes, in that order (R121); for
a store the later ones that share its entry (R79), in the order of their commits. (DEDUCED, log entry 18.) -/
def State.itemsWith (s : State) (i : Item) : List Item :=
  if i.eff.spot.isSome then
    (joined s.lanesOf (s.items.filter fun j => j.committed.isSome && j.issue == i.issue) i).foldl (insertLane Item.tid) []
  else if i.eff.joins.isEmpty then [i]
  else s.joinStores ((s.committed i.core).filter fun j => decide (i.committed.getD 0 < j.committed.getD 0)) [] [i]

/-- Whether the other entries performed with one are ready too. (DEDUCED, log entry 18.) -/
def State.lanesReady (s : State) (i : Item) : Bool :=
  i.eff.spot.isNone || (s.itemsWith i).all fun j => j.id == i.id || (!(s.itemHeld j) && !(s.behind j))

/-- The committed entry of a core that leaves the store buffer next: the one that committed first among those that may go
(R82). (DEDUCED, log entry 18.) -/
def State.nextEntry (s : State) (core : Nat) : Option Item :=
  firstFree (fun i => s.itemHeld i || !(s.lanesReady i)) (s.committed core) []

/-- The committed entry of a core that is performed next, where it is no command. (DEDUCED, log entry 18.) -/
def State.nextItem (s : State) (core : Nat) : Option Item := (s.nextEntry core).filter fun i => !i.isCommand

/-- The committed command of a core that enters its queues next, once they have room (R82, R142, R143).
(DEDUCED, log entry 18.) -/
def State.nextCommand (s : State) (core : Nat) : Option Item := (s.nextEntry core).filter Item.isCommand

/-- The committed entry `id` of a core where it may be seen before entries that committed earlier: nothing orders it, or one that
is performed with it, behind one of them, and no earlier store shares its entry (R125). (DEDUCED, log entry 18.) -/
def State.outOfTurn (s : State) (core id : Nat) : Option Item :=
  s.items.find? fun i => i.id == id && i.core == core && i.committed.isSome && !i.isCommand && !(s.itemHeld i)
    && !(s.items.any fun j => s.before j i && j.shares i)
    && (s.itemsWith i).all fun k => !(s.itemHeld k) && !(s.items.any fun j => s.before j k && j.orders k && !((s.itemsWith i).contains j))

/-- The places of pieces become poisoned. -/
def State.spoil (s : State) (ps : List Piece) : State :=
  ps.foldl (fun s p => match p.scratch with
    | some u => s.updBlock u fun b => { b with scrPoison := (touched 4 p.addr p.len).foldl (fun l k => insertNat k l) b.scrPoison }
    | none => if p.peer.isSome then s else
        (s.writeAddrs p).foldl (fun s a => { s with mem := s.mem.addPoison (touched 32 a p.len) }) s) s

/-- A committed entry is performed and freed, or for a peer's place stays until the peer has acknowledged it (R107); data that
met an uncorrectable error leaves its place poisoned (R441). -/
def State.performItem (s : State) (i : Item) : State :=
  let s1 := (s.sampleItem i (s.otherLanes i)).perform i.core i.eff
  let s2 := if i.psn then s1.spoil i.eff.pieces else s1
  let s3 := match s.itemKey i with
    | some k => s2.passed k
    | none => s2
  match s3.sentSince s with
  | [] => { s3 with items := s3.items.filter fun j => j.id != i.id }
  | ids => { s3 with items := s3.items.map fun j => if j.id = i.id then { j with sent := ids, locked := false } else j }

/-- A lane of a word: its key in the log, where record or replay orders it, and what performs it. -/
abbrev WordLane := Option LogKey × (State → State)

/-- Lanes of one word are performed one after another, as far as the gate lets them: in replay each that heads its object's log,
compared at its run's first atomic (R457). The others stay locked in, so that nothing comes between (R121).
(DESIGN CHOICE, log entry 110.) -/
def State.runWord : List WordLane → State → State
  | [], s => s
  | (key, act) :: rest, s =>
    match key.filter s.gateHolds with
    | none => State.runWord rest (act s)
    | some k =>
      if s.gateHead k = false then s
      else match s.logHead k.ctx k.obj with
        | some (_, _, _, 0, ret, hash) =>
          if k.ret = ret ∧ k.hash = hash then State.runWord rest (act s) else s.replayStop k 3 (ret, hash)
        | _ => State.runWord rest (act s)

/-- Entries that are performed together, as lanes of a word, and locked in as long as they are not. -/
def State.itemLanes (s : State) (is : List Item) : List WordLane := is.map fun i => (s.itemKey i, fun t => t.performItem i)
def State.lockItems (s : State) (is : List Item) : State :=
  { s with items := s.items.map fun j => if is.any fun i => i.id == j.id then { j with locked := true } else j }

/-- An entry is performed with those that go with it; a granule that they cover together is clean, or poisoned where data of
the entry met an error (R62, R441). -/
def State.performEntry (s : State) (i : Item) : State :=
  let is := s.itemsWith i
  let s1 := State.runWord (s.itemLanes is) (s.lockItems is)
  let ps := is.flatMap fun j => j.eff.stores
  if is.any Item.psn then s1 else s1.mend i.core ps

end Sys2Proof.Machine
end

