-- ==== Sys2Proof/Machine/Responses.lean ====
section
/-!
DEFINITION. How outstanding requests return and committed entries are performed (R79 to R82, R116 to R139, R348, R352,
R355 to R357), and how sleeping, binned and trap-waiting threads go on (R157, R158, R179, R241, R247, R457).
-/

namespace Sys2Proof.Machine

open Sys2Proof

/-! ### What a request returns (R348, R355 to R357) -/

/-- A register of returned bytes. -/
def loaded (t : Tag) (bs : List Byte) (psn : List Bool) : VReg :=
  { val := BitVec.ofNat 64 (bytesToNat bs), tag := t, psn := psn.any id }

/-- The value of a wide-sum cell in a register (R355). -/
def wideValue (t : Tag) (bs : List Byte) (psn : List Bool) : VReg × Nat :=
  let r := wsumRead (fmtOf t) (bytesToNat bs)
  ({ val := BitVec.ofNat 64 (r.1 % 2 ^ t.width), tag := t, psn := psn.any id }, r.2)

/-- A thread after its request has returned bytes with their poison and the tag of their granule. -/
def Thread.receive (x : Thread) (k : ReqKind) (bs : List Byte) (psn : List Bool) (tag : Bool) : Thread :=
  match k with
  | .load d t _ _ => x.putV d (loaded t bs psn)
  | .lane d t n => (List.range n).foldl (fun x i =>
      x.putV (d + i) (loaded t ((bs.drop (8 * i)).take 8) ((psn.drop (8 * i)).take 8))) x
  | .cap d keep =>
    x.putC d (capFrom (bytesToNat bs) (tag && keep) (psn.any id))
  | .wide d t =>
    let r := wideValue t bs psn
    (x.putV d r.1).orFlags r.2
  | .atom d _ t _ _ _ => x.setV d (loaded t bs psn)

/-- Whether a request, once performed, stands before the later loads of its thread though it is no acquire: a returning atomic, or
a load of SO memory (R114, note 4 of R129). (DEDUCED, log entry 108.) -/
def Req.firm (r : Req) : Bool := r.isAtom || r.pieces.any fun p => p.scratch.isNone && p.ord == 0

/-- A thread whose trap has waited for its loads enters its handler once the last has returned (R210).
(DEDUCED, log entry 31.) -/
def State.trapLoaded (s : State) (uid tid : Nat) : State :=
  match s.thread? uid tid with
  | none => s
  | some x => match x.st, x.pend with
    | .trapWait, some t => if t.pinned && !(s.outstanding uid tid) then s.enterHandler uid tid t else s
    | _, _ => s

/-- The request leaves, its thread holds what it returned with the bytes of its own stores in place (R81), and an
acquire makes its core's later loads miss (R70, R100), as does one that stands before them (R139). -/
def State.finishRequest (s : State) (r : Req) (bs : List Byte) (psn : List Bool) (tag : Bool) : State :=
  let own := r.fwd.map Prod.fst
  let psn' := psn.mapIdx fun i p => if own.contains i then r.fwdPsn else p
  let s1 := s.updThread r.blk r.tid fun x => x.receive r.kind (overlay bs r.fwd) psn' (r.fwdTag.getD tag)
  let s2 := if r.isAcquire then s1.missAfter r.core r.scope false else if r.firm then s1.missOlder r.core else s1
  { s2 with reqs := s2.reqs.filter fun q => q.id != r.id }.trapLoaded r.blk r.tid

/-- The contact sheet of a sampled request (R453). (DEDUCED, log entry 34.) -/
def State.sheetOf (s : State) (r : Req) : State :=
  match r.sheet, r.pieces with
  | true, p :: _ =>
    let l1 := !r.isAtom && p.inL1 r.scope && ((touched 32 p.off p.len).all fun k => (s.l1Find r.core p k).isSome)
      && Config.freeChoice (s.sched.fresh + 2)
    s.contactSheet r.blk r.tid r.pc p (s.servedBy r.core p l1 (!r.isAtom))
  | _, _ => s

/-- A returning atomic has been performed and returns what stood at its place before (R352). -/
def State.atomDone (s : State) (r : Req) (old : Nat) (psn : Bool) : State :=
  let n := lenOf r.pieces
  let s1 := match s.reqKey r with
    | some k => s.passed k
    | none => s
  s1.finishRequest r (natToBytes n old) (List.replicate n psn) false

/-- A returning atomic is performed at its home and returns (R121, R352). -/
def State.respondAtom (s0 : State) (r : Req) : State :=
  let s := s0.sheetOf r
  match r.kind, r.pieces with
  | .atom _ op t _ opnd new, p :: _ =>
    let a := s.atomPiece (some r.core) p op t opnd new
    a.1.atomDone r a.2.1 a.2.2
  | _, _ => s

/-- Requests of one word, as lanes that are performed one after another, and locked in as long as they are not (R121). -/
def State.reqLanes (s : State) (rs : List Req) : List WordLane := rs.map fun r => (s.reqKey r, fun t => t.respondAtom r)
def State.lockReqs (s : State) (rs : List Req) : State :=
  { s with reqs := s.reqs.map fun q => if rs.any fun r => r.id == q.id then { q with locked := true } else q }

/-- What the performed pieces of a request have returned, in the order of the pieces. -/
def Req.shares (r : Req) : List Share :=
  (List.range r.pieces.length).filterMap fun j => (r.got.find? fun g => g.1 == j).map Prod.snd

/-- The access to piece j of a request has been performed (R46, R115); with the last one the request returns (R348). -/
def State.gotPiece (s : State) (r : Req) (j : Nat) (sh : Share) : State :=
  let r1 := { r with got := r.got ++ [(j, sh)] }
  if r1.shares.length = r1.pieces.length then
    s.finishRequest r1 (r1.shares.flatMap Share.bytes) (r1.shares.flatMap Share.psn) (r1.shares.head?.any Share.tag)
  else { s with reqs := s.reqs.map fun q => if q.id = r.id then r1 else q }

/-- Piece j of a load is performed at this device. (DESIGN CHOICE, log entry 109.) -/
def State.respondPiece (s0 : State) (r : Req) (j : Nat) : State :=
  match r.due j with
  | none => s0
  | some p =>
    let s := if r.got.isEmpty then s0.sheetOf r else s0
    let l := s.loadPiece r.core r.scope p
    l.1.gotPiece r j { bytes := l.2.1, psn := l.2.2.1, tag := l.2.2.2 }

/-- Whether a returning atomic may be performed at this device now, with the other lanes of its word on its location. -/
def State.atomReady (s : State) (r : Req) : Bool := s.wordReady r && (r.pieces.all fun p => p.peer.isNone)

/-- The lanes of a returning atomic are performed at this device; one at a peer is performed by the peer's answer. -/
def State.performWord (s : State) (r : Req) : State :=
  if s.atomReady r then State.runWord (s.reqLanes (s.sameWord r)) (s.lockReqs (s.sameWord r)) else s

/-- MEMORY_RESPONSE: piece `sub` of the load `id` is performed; or the returning atomic `id` is, with every lane of its word on
its location (R46, R115, R121). (DESIGN CHOICE, log entry 109.) -/
def execMemoryResponse (s : State) : Out :=
  match s.reqs.find? fun r => r.id == s.sched.args.id with
  | none => notNow "memoryResponse: no such request"
  | some r =>
    if r.isAtom then
      if s.atomReady r && !(s.reqGated r) then .next (s.performWord r)
      else notNow "memoryResponse: the atomic must wait"
    else if s.pieceReady r s.sched.args.sub then .next (s.respondPiece r s.sched.args.sub)
    else notNow "memoryResponse: the access must wait"

/-- STORE_BUFFER_PERFORM: the next committed entry of the core `id` is performed (R82), or with `alt` the entry `sub`, which
nothing orders behind an earlier one (R125). (DEDUCED, log entry 18.) -/
def execStoreBufferPerform (s : State) : Out :=
  let a := s.sched.args
  match if a.alt then s.outOfTurn a.id a.sub else s.nextItem a.id with
  | none => notNow "storeBufferPerform: the core has no such committed entry to perform"
  | some i => .next (s.performEntry i)

/-! ### The gate of replay (R457) -/

/-- The ordered atomic of a number that may be performed but for the gate, the first lane of its word that is left: its key,
since when it waits, and the state once it and what follows it have been performed. -/
def State.waitingAtom (s : State) (id : Nat) : Option (LogKey × Nat × State) :=
  match s.reqs.find? fun r => r.id == id with
  | some r =>
    if s.wordReady r then (s.reqKey r).map fun k => (k, r.gateSince, s.performWord r) else none
  | none =>
    (s.items.find? fun i => i.id == id && i.committed.isSome && !i.shut && i.sent.isEmpty).bind fun i =>
      if (s.behind i) || s.awaitsLanes i || (i.eff.pieces.any fun p => s.cutOff p || s.lockedOut i.issue p)
          || (s.itemsWith i).head?.any (fun j => j.id != i.id) || (s.itemsWith i).any s.behind then none
      else (s.itemKey i).map fun k => (k, i.gateSince, s.performEntry i)

/-- REPLAY_GATE_RELEASE: the atomic `id` heads the log of its object: compared at its run's first atomic, performed, or the
context stops (R457). -/
def execReplayGateRelease (s : State) : Out :=
  match s.waitingAtom s.sched.args.id with
  | none => notNow "replayGateRelease: no such atomic waits"
  | some (k, _, done) =>
    if s.gateHead k = false then notNow "replayGateRelease: the atomic does not head its object's log"
    else match s.logHead k.ctx k.obj with
      | some (_, _, _, 0, ret, hash) =>
        if k.ret = ret ∧ k.hash = hash then .next done else .next (s.replayStop k 3 (ret, hash))
      | _ => .next done

/-- REPLAY_GATE_TIMEOUT: the atomic `id` has waited beyond the gate wait limit: the context stops (R457). -/
def execReplayGateTimeout (s : State) : Out :=
  match s.waitingAtom s.sched.args.id with
  | none => notNow "replayGateTimeout: no such atomic waits"
  | some (k, since, _) =>
    if s.rrMode k.ctx ≠ 2 ∨ s.gateHolds k = false then notNow "replayGateTimeout: the gate does not hold the atomic"
    else if s.sched.now ≤ since + 2 ^ s.dbg.rrwait then notNow "replayGateTimeout: the limit is not reached"
    else .next (s.replayStop k 4 (0, 0))

/-! ### Sleeping, filed and waiting threads -/

/-- Whether a thread of a resident block sleeps in `mwait`. -/
def State.asleepIn (s : State) (uid tid : Nat) : Option Thread :=
  (s.thread? uid tid).bind fun x => if x.st = .asleep then some x else none

/-- WATCH_TRIGGER: the thread `tid` of block `id` sleeps on a watch that has triggered, and wakes (R157, R158).
(DEDUCED, log entry 87.) -/
def execWatchTrigger (s : State) : Out :=
  let a := s.sched.args
  match s.asleepIn a.id a.tid with
  | none => notNow "watchTrigger: no such thread sleeps"
  | some x =>
    if x.watch.any Watch.triggered then .next (s.wakeThread a.id a.tid)
    else if a.alt ∧ x.watch.any Watch.hasEntry then .next (s.wakeThread a.id a.tid)
    else notNow "watchTrigger: the watch has not triggered"

/-- MWAIT_TIMEOUT: the thread `tid` of block `id` has slept 2^20 clk, or 1,024 clk without a watch entry (R158).
(DEDUCED, log entry 87.) -/
def execMwaitTimeout (s : State) : Out :=
  let a := s.sched.args
  match s.asleepIn a.id a.tid with
  | none => notNow "mwaitTimeout: no such thread sleeps"
  | some x =>
    let limit := if x.watch.any Watch.hasEntry then 2 ^ 20 else 1024
    if s.sched.now < x.sleptAt + limit then notNow "mwaitTimeout: the limit is not reached"
    else .next (s.wakeThread a.id a.tid)

/-- The bin age limit of a block's context (R177). -/
def State.binAge (s : State) (uid : Nat) : Nat := match s.block? uid with
  | some b => match s.ctx? b.ctx with
    | some c => c.binage
    | none => 32
  | none => 32

/-- BIN_AGED_DRAW: bin `sub` of partition `tid` of core `id` has reached the bin age limit and is drawn (R179). -/
def execBinAgedDraw (s : State) : Out :=
  let a := s.sched.args
  match s.bins.find? fun b => b.core == a.id && b.part == a.tid && b.idx == a.sub with
  | none => notNow "binAgedDraw: the bin is empty"
  | some b =>
    if s.sched.now < b.first + s.binAge b.blk then notNow "binAgedDraw: the bin is not aged"
    else if s.heldBin b then notNow "binAgedDraw: the block is held"
    else .next (s.draw b)

/-- TRAP_DELIVERY: the thread `tid` of block `id`, whose trap waits, finds a free slot and enters its handler (R241,
R247). -/
def execTrapDelivery (s : State) : Out :=
  let a := s.sched.args
  match s.thread? a.id a.tid with
  | none => notNow "trapDelivery: no such thread"
  | some x =>
    match x.st, x.pend with
    | .trapWait, some t =>
      match (s.enterHandler a.id a.tid t) with
      | s1 =>
        if (s1.thread? a.id a.tid).any fun y => y.st == .trapWait then notNow "trapDelivery: no slot is free" else .next s1
    | _, _ => notNow "trapDelivery: the thread has no trap that waits"

end Sys2Proof.Machine
end

