-- ==== Sys2Proof/Machine/Answers.lean ====
section
/-!
DEFINITION. Fault records reach the fault ring (R51, R52, R429), and the groups that wait on an answered record go on
(R51).
-/

namespace Sys2Proof.Machine

open Sys2Proof

/-- The address of a context's descriptor (R426). -/
def State.ctxAt (s : State) (n : Nat) : Nat := s.link.ctxtb + 256 * n

/-- The bytes of a fault record (R52). -/
def FaultRec.bytes (r : FaultRec) : List Byte :=
  natToBytes 8 (r.obj % 2 ^ 32 + r.ctx * 2 ^ 32 + r.src * 2 ^ 48 + bit r.write * 2 ^ 51 + bit r.host * 2 ^ 52)
  ++ natToBytes 8 (r.off % 2 ^ 48) ++ natToBytes 8 (r.unitNo + r.seq * 2 ^ 32) ++ natToBytes 8 0

/-- FAULT_RECORD_WRITE: the oldest fault record of context `id` that is not yet written goes into its fault ring when
there is room (R51, R429). -/
def execFaultRecordWrite (s : State) : Out :=
  let n := s.sched.args.id
  match s.ctx? n, s.faults.find? fun r => r.ctx == n && !r.written with
  | some c, some r =>
    let d := s.ctxAt n
    let prod := s.mem.read (d + 64) 8
    let cons := s.mem.read (d + 72) 8
    let size := 2 ^ (c.frlog2 + 4)
    let a := c.frbase + 32 * (prod % size)
    if s.hbmHas d 256 = false then .fault (.noSuchAddress d)
    else if (prod + 2 ^ 64 - cons) % 2 ^ 64 ≥ size then notNow "faultRecordWrite: the fault ring is full"
    else if s.hbmHas a 32 = false then .fault (.noSuchAddress a)
    else
      let next := (prod + 1) % 2 ^ 64
      let s1 := (s.devWrite a r.bytes).devStore (d + 64) 8 next
      let mark (q : FaultRec) : FaultRec := if q.ctx = n ∧ q.seq = r.seq then { q with written := true } else q
      .next ({ s1 with faults := s1.faults.map mark }.postEvent 2 n next)
  | _, _ => notNow "faultRecordWrite: no record waits"

/-- The object number that a thread's first FAIL answer names: the lower offset of its access (R51).
(DEDUCED, log entry 32.) -/
def Thread.failedObj (x : Thread) : Option Nat := x.faults.findSome? fun f => f.2

/-- A group all of whose records are answered goes on (R51): threads that met a FAIL take TRANSLATION_FATAL at the faulting
instruction; the others issue it again where the group ran pinned, and re-enter their regions where it did not.
(DEDUCED, log entry 32.) -/
def State.unpark (s : State) (gid : Nat) : State :=
  match s.group? gid with
  | none => s
  | some g =>
    match s.block? g.blk with
    | none => s
    | some b =>
      let xs := sortByLane (b.members g.tids)
      let traps := xs.filterMap fun x => x.failedObj.map fun o => (x.tid, cFatal, auxFatal 3 o)
      let s1 := s.updBlock g.blk fun b => b.updThreads fun x => if g.tids.contains x.tid then { x with faults := [] } else x
      let s2 := if traps.isEmpty then s1 else s1.takeTraps gid traps g.faultPc
      if !traps.isEmpty && s.tmode b.ctx then s2
      else match s2.group? gid, s2.block? g.blk with
        | some h, some k =>
          if g.pinnedFault then s2.updGroup gid fun h => { h with st := .ready, waits := [], readyAt := s.sched.now + 1 }
          else ((s2.dropGroup gid).fileAll g.blk (k.members h.tids)).drawAll g.core g.part
        | _, _ => s2

/-- Every group that waits on a record of a context learns its answer; those that wait on nothing more go on. -/
def State.answerGroups (s : State) (ctx seq obj : Nat) (fail : Bool) : State :=
  let mine (uid : Nat) : Bool := (s.block? uid).any fun b => b.ctx == ctx
  let mark (f : Nat × Option Nat) : Nat × Option Nat := if f.1 = seq ∧ fail ∧ f.2 = none then (f.1, some obj) else f
  let hit (g : Group) : Bool := g.st == .parked && g.waits.contains seq && mine g.blk
  let s1 := { s with
    blocks := s.blocks.map fun b => if b.ctx = ctx then b.updThreads fun x => { x with faults := x.faults.map mark } else b
    groups := s.groups.map fun g => if hit g then { g with waits := g.waits.filter fun q => q != seq } else g }
  (s.groups.filter hit).foldl (fun t g =>
    if (t.group? g.gid).any fun h => h.st == .parked && h.waits.isEmpty then t.unpark g.gid else t) s1

end Sys2Proof.Machine
end

