-- ==== Sys2Proof/Machine/Memory.lean ====
section
/-!
DEFINITION. Loads and stores, lane-matrix and capability transfers, fences, prefetch, cache control, monitor and wait
(R344 to R350, R356 to R362, R156 to R159).
-/

namespace Sys2Proof

open Sys2Proof.Machine

/-- The form of an M-form word: its index register where it has one, further sources, the capability it goes through,
and the registers it writes (R346). -/
def MemW.form (w : MemW) (op : Nat) (indexed cap : Bool) (srcs : List Src) (dV : List Nat) : Form :=
  { guard := w.guard, regs := (w.view op).regs, srcs := (if indexed then [srcIndex w.index] else []) ++ srcs,
    caps := if cap then [w.cap] else [], dV := dV }

end Sys2Proof

namespace Sys2Proof.Machine

open Sys2Proof

/-! ### Shared forms -/

/-- The outcome of an access with a further step on its success. -/
def LaneRes.map {α β : Type} (f : α → β) : LaneRes α → LaneRes β
  | .ok a => .ok (f a)
  | .trap c a => .trap c a
  | .poison => .poison
  | .wait => .wait
  | .tfault fs => .tfault fs
  | .noMem a => .noMem a

/-- The low n bytes of a register. -/
def lowBytes (x : Thread) (r n : Nat) : Nat := bits (x.vreg r).val.toNat 0 (8 * n)

/-- Part of an access: n bytes from place `off` in its pieces. -/
def slice : List Piece → Nat → Nat → List Piece
  | [], _, _ => []
  | p :: ps, off, n =>
    if off ≥ p.len then slice ps (off - p.len) n
    else
      let k := if n < p.len - off then n else p.len - off
      { p with addr := p.addr + off, off := p.off + off, len := k } :: (if k < n then slice ps 0 (n - k) else [])

/-- A memory word whose lanes go through c[cap] for n bytes: what each does with its pieces (R346). -/
def capLane (w : MemW) (n : Nat) (op : AccOp) (eff : Thread → List Piece → Eff) : LaneFn := fun s b _ x =>
  let r := s.access b (x.creg w.cap) (MemW.offset w x true) n n op
  (r.1, r.2.map (eff x))

/-- A scratch word whose lanes access n bytes: a lane out of range is switched off (R346, R350). -/
def spadLane (w : MemW) (n align : Nat) (eff : Thread → Piece → Eff) : LaneFn := fun s b _ x =>
  (s, (s.scratchAccess b (MemW.offset w x false) n align).map fun p => match p with
    | some p => eff x p
    | none => { off := true })

/-- The request of a load: an acquire where its frames are SO or RC (R117, R349). -/
def loadEff (w : MemW) (acquire : Bool) (ps : List Piece) : Eff :=
  { req := some (.load w.data w.type (sizeBytes w.size) (acquire && ps.all fun p => p.ord != 2), w.scope, ps) }

/-! ### Loads and stores (R349, R350) -/

/-- `ld` (R349). -/
def execLd (w : MemW) (s : State) : Out :=
  laneWord [w.form 0x00 (w.width != 0) true [] [w.data]] true 1
    (capLane w (sizeBytes w.size) opLoad fun _ ps => loadEff w false ps) s

/-- `ldacq` (R349). -/
def execLdacq (w : MemW) (s : State) : Out :=
  laneWord [w.form 0x01 (w.width != 0) true [] [w.data]] true 1
    (capLane w (sizeBytes w.size) opLoad fun _ ps => loadEff w true ps) s

/-- `st` (R349). -/
def execSt (w : MemW) (s : State) : Out :=
  laneWord [w.form 0x02 (w.width != 0) true [srcAny 3 w.data] []] true 1
    (capLane w (sizeBytes w.size) opStore fun x ps => { effects := [.store ps (lowBytes x w.data (sizeBytes w.size))] }) s

/-- The effect of `strel`: a store where its frames are UN (R117). -/
def strelEffect (w : MemW) (x : Thread) (ps : List Piece) : Effect :=
  let v := lowBytes x w.data (sizeBytes w.size)
  if ps.all fun p => p.ord == 2 then .store ps v else .release ps v w.scope

/-- `strel` (R349): it commits, and its write follows everything its block has committed (R82, R134, R135). -/
def execStrel (w : MemW) (s : State) : Out :=
  commitWord [w.form 0x03 (w.width != 0) true [srcAny 3 w.data] []] drainNone
    (capLane w (sizeBytes w.size) opStore fun x ps => { effects := [strelEffect w x ps] }) performPlain s

/-- `lds` (R350). -/
def execLds (w : MemW) (s : State) : Out :=
  laneWord [w.form 0x04 (w.width != 0) false [] [w.data]] true 1
    (spadLane w (sizeBytes w.size) (sizeBytes w.size) fun _ p => loadEff w false [p]) s

/-- `sts` (R350). -/
def execSts (w : MemW) (s : State) : Out :=
  laneWord [w.form 0x05 (w.width != 0) false [srcAny 3 w.data] []] true 1
    (spadLane w (sizeBytes w.size) (sizeBytes w.size) fun x p =>
      { effects := [.store [p] (lowBytes x w.data (sizeBytes w.size))] }) s

/-! ### Lane matrices (R356) -/

/-- The order n of an `mld` or `mst` word, the bytes of an element and of the matrix, and the registers of the run. -/
def laneN (w : MemW) : Nat := laneOrder w.width (bit w.sgn)
def laneElem (w : MemW) : Nat := w.type.width / 8
def laneBytes (w : MemW) : Nat := laneElem w * (laneN w * laneN w)
def laneRun (w : MemW) : Nat := matRegs w.type.code (laneN w)

/-- The effective offset of a lane-matrix word: its index is the unsigned low 32 bits of v[index] (R356). -/
def laneOffset (w : MemW) (x : Thread) : Int :=
  ((x.creg w.cap).cursor : Int) + indexOf x w.index 2 false w.scale + sext 10 w.off

/-- The checks of a lane-matrix word. -/
def matLane (w : MemW) (op : AccOp) (eff : Thread → List Piece → Eff) : LaneFn := fun s b _ x =>
  let r := s.access b (x.creg w.cap) (laneOffset w x) (laneBytes w) 8 op
  (r.1, r.2.map (eff x))

/-- Bytes of register k of a run: 8, or what is left of the matrix in the last one. -/
def laneChunk (w : MemW) (k : Nat) : Nat := if 8 * k + 8 ≤ laneBytes w then 8 else laneBytes w - 8 * k

/-- The accesses of a lane-matrix word: one for each register of its run, in its pieces (R115). -/
def laneAccesses (w : MemW) (ps : List Piece) : List (List Piece) :=
  (List.range (laneRun w)).map fun k => slice ps (8 * k) (laneChunk w k)

/-- `mld` (R356): one access for each register. -/
def execMld (w : MemW) (s : State) : Out :=
  laneWord [w.form 0x32 true true [] (span w.data (laneRun w))] true 1
    (matLane w opLoad fun _ ps => { req := some (.lane w.data w.type (laneRun w), w.scope, (laneAccesses w ps).flatten) }) s

/-- `mst` (R356): one access for each register, the padding half not stored. -/
def execMst (w : MemW) (s : State) : Out :=
  laneWord [w.form 0x33 true true ((span w.data (laneRun w)).map fun r => srcAny 3 r) []] true 1
    (matLane w opStore fun x ps =>
      { effects := (List.range (laneRun w)).map fun k =>
          .store (slice ps (8 * k) (laneChunk w k)) (lowBytes x (w.data + k) (laneChunk w k)) }) s

/-! ### Capabilities (R357) -/

/-- `ldcap` (R357): the right load-cap of the capability it goes through keeps the tag (R24). -/
def execLdcap (w : MemW) (s : State) : Out :=
  laneWord [{ w.form 0x34 (w.width != 0) true [] [] with dC := [w.data] }] true 1
    (capLane w 16 opLoad fun x ps => { req := some (.cap w.data (bitAt (x.creg w.cap).rights 3), w.scope, ps) }) s

/-- `stcap` (R357): of a tagged value, the store right first and then store-cap (R15). -/
def execStcap (w : MemW) (s : State) : Out :=
  let form := w.form 0x35 (w.width != 0) true [] []
  laneWord [{ form with caps := [w.cap, w.data] }] true 1
    (fun s b act x =>
      let c := x.creg w.data
      match (x.creg w.cap).check (MemW.offset w x true) 16 opStore.rights with
      | some r => (s, .trap cCapability (auxCap r))
      | none => capLane w 16 (opStcap c.tag) (fun _ ps => match ps with
          | p :: _ => { effects := [.cap p c.nat c.tag] }
          | [] => {}) s b act x) s

/-! ### Fences (R358) -/

/-- A fence that has nothing left to wait for: what its scope names is missed by its core's later loads (R70, R100). -/
def fencePerform (w : MemW) : PerformFn := performThen fun s _ b _ => s.missAfter b.core w.scope (w.size != 0)

/-- `fence` (R358). (DEDUCED, log entry 19.) -/
def execFence (w : MemW) (s : State) : Out :=
  commitWord [w.form 0x38 false false [] []] (drainFence (w.size != 0)) (fun s _ _ _ => (s, .ok {})) (fencePerform w) s

/-! ### Prefetch and cache control (R359, R360) -/

/-- The 128-byte line that holds the first byte of a piece. -/
def Piece.line (p : Piece) : Piece := { p with addr := p.addr / 128 * 128, off := p.off / 128 * 128, len := 128 }

/-- `prefetch` (R359): a lane whose capability or walk fails does nothing; a line of a peer is asked for. -/
def execPrefetch (w : MemW) (s : State) : Out :=
  laneWord [w.form 0x39 (w.width != 0) true [] []] false 1
    (fun s b _ x =>
      match s.access b (x.creg w.cap) (MemW.offset w x true) 1 1 opLoad with
      | (s', .ok ps) => (s', .ok { acts := (ps.filter Piece.cached).map fun p => .fill w.scope p.line })
      | (s', .wait) => (s', .wait)
      | _ => (s, .ok {})) s

/-- The lines at which a cacheable piece lies: every present copy of a replicated frame (R360), or a peer's. -/
def State.copies (s : State) (p : Piece) : List Piece :=
  if p.cached then (s.writeAddrs p).map fun a => { p with addr := a / 128 * 128, len := 128, repl := none } else []

/-- Whether a committed store of a thread is still to be performed on a line of a list (ST→ST is A, R360). -/
def State.storesTo (s : State) (uid tid : Nat) (ps : List Piece) : Bool :=
  s.items.any fun i => i.blk == uid && i.tid == tid && i.committed.isSome
    && (i.eff.pieces.any fun q => q.scratch.isNone && (s.writeAddrs q).any fun a =>
        ps.any fun p => p.peer == q.peer && (linesOf a q.len).contains (p.addr / 128))

/-- A `cachectl` word (R360), which acts after its thread's committed stores to the line. -/
def cacheWord (op : Nat) (w : MemW) (s : State) : Out :=
  laneWord [w.form 0x3A (w.width != 0) true [] []] true 1
    (fun s b _ x =>
      match s.access b (x.creg w.cap) (MemW.offset w x true) 1 1 opCachectl with
      | (s', .ok ps) =>
        let lines := ps.flatMap fun p => s'.copies p
        if s'.storesTo b.uid x.tid lines then (s', .wait)
        else (s', .ok { acts := if lines.isEmpty then [] else [.cache op lines] })
      | (s', r) => (s', r.map fun _ => {})) s

/-- `cachectl.wb` (R360). -/
def execCachectlWb (w : MemW) (s : State) : Out := cacheWord 0 w s

/-- `cachectl.evict` (R360). -/
def execCachectlEvict (w : MemW) (s : State) : Out := cacheWord 1 w s

/-- `cachectl.l1drop` (R360). -/
def execCachectlL1drop (w : MemW) (s : State) : Out := cacheWord 2 w s

/-! ### Monitor and wait (R361, R362) -/

/-- `mon` (R361). -/
def execMon (w : Plain) (s : State) : Out :=
  laneWord [{ guard := w.guard, regs := (w.view 0xE4).regs, srcs := [srcWord 1 w.b],
              caps := if w.opx = 0 then [w.a] else [] }] true 1
    (fun s b _ x =>
      if w.opx = 0 then
        let c := x.creg w.a
        let r := s.access b c ((c.cursor : Int) + (x.vreg w.b).val.toInt) 1 1 opLoad
        (r.1, r.2.map fun ps => { acts := (ps.take 1).map fun p => .watch none (watchPlace p) })
      else
        (s, (s.scratchAccess b ((x.vreg w.b).val.toNat : Nat) 4 4).map fun p => match p with
          | some p => { acts := [.watch p.scratch p.addr] }
          | none => { off := true, acts := [.unwatch] })) s

/-- A thread returns from `mwait` at once, or falls asleep with its PC at the next word (R158). -/
def State.mwaitThread (s : State) (uid tid : Nat) (rgnNext : Bool) : State :=
  match s.thread? uid tid with
  | none => s
  | some x =>
    if x.watch.any fun w => !w.triggered then
      (s.sleep uid tid .asleep).updThread uid tid fun x => { x.afterCommit rgnNext with pc := x.pc + 8 }
    else s.updThread uid tid fun x => { x with watch := none }

/-- `mwait` (R362, R158). -/
def execMwait (w : Plain) (s : State) : Out :=
  commitWord [{ guard := w.guard, regs := (w.view 0xE5).regs }] drainNone (fun s _ _ _ => (s, .ok {}))
    (performThen fun s g b oks =>
      let next := s.rgnAt b g.space (g.pc + 8)
      oks.foldl (fun t xe => t.mwaitThread b.uid xe.1.tid next) s) s

end Sys2Proof.Machine
end

