-- ==== Sys2Proof/Machine/Atomics.lean ====
section
/-!
DEFINITION. Atomics and reductions on memory and scratch, and the wide sum (R351 to R355).
-/

namespace Sys2Proof.Machine

open Sys2Proof

/-- The operands of an atomic by operation number (R351): any tag for xchg and cas, the float tag exactly, RAW or the
integer tag otherwise; cas reads the new value in data + 1. -/
def atomSrcs (k : Nat) (w : MemW) : List Src :=
  if k = 7 then [srcAny 3 w.data, srcAny 3 (w.data + 1)]
  else if k = 6 then [srcAny 3 w.data]
  else if w.type.isFloat then [srcExact 3 w.data w.type] else [srcRaw 3 w.data w.type]

/-- The request of one lane of a returning atomic. -/
def atomEff (k : Nat) (w : MemW) (x : Thread) (ps : List Piece) : Eff :=
  let n := sizeBytes w.size
  { req := some (.atom w.data k w.type n (lowBytes x w.data n) (if k = 7 then lowBytes x (w.data + 1) n else 0), w.scope, ps) }

/-- The buffered effect of one lane of a reduction. -/
def redEff (k : Nat) (w : MemW) (x : Thread) (ps : List Piece) : Eff :=
  { effects := (ps.take 1).map fun p => .red p k w.type (lowBytes x w.data (sizeBytes w.size)) }

/-- `atom` by operation number (R352): commit-class. -/
def atomWord (k : Nat) (w : MemW) (s : State) : Out :=
  commitWord [w.form (0x10 + k) (w.width != 0) true (atomSrcs k w) []] drainNone
    (capLane w (sizeBytes w.size) opAtomic (atomEff k w)) performPlain s

/-- `red` by operation number (R352): buffered. -/
def redWord (k : Nat) (w : MemW) (s : State) : Out :=
  laneWord [w.form (0x18 + k) (w.width != 0) true (atomSrcs k w) []] true 1
    (capLane w (sizeBytes w.size) opAtomic (redEff k w)) s

/-- `atoms` by operation number (R353): the bit NR of the cap field makes it a buffered reduction. -/
def atomsWord (k : Nat) (w : MemW) (s : State) : Out :=
  let form := w.form (0x28 + k) (w.width != 0) false (atomSrcs k w) []
  let n := sizeBytes w.size
  if w.cap % 2 = 1 then laneWord [form] true 1 (spadLane w n n fun x p => redEff k w x [p]) s
  else commitWord [form] drainNone (spadLane w n n fun x p => atomEff k w x [p]) performPlain s

/-- `atom.add` (R352). -/
def execAtomAdd (w : MemW) (s : State) : Out := atomWord 0 w s
/-- `atom.min` (R352). -/
def execAtomMin (w : MemW) (s : State) : Out := atomWord 1 w s
/-- `atom.max` (R352). -/
def execAtomMax (w : MemW) (s : State) : Out := atomWord 2 w s
/-- `atom.and` (R352). -/
def execAtomAnd (w : MemW) (s : State) : Out := atomWord 3 w s
/-- `atom.or` (R352). -/
def execAtomOr (w : MemW) (s : State) : Out := atomWord 4 w s
/-- `atom.xor` (R352). -/
def execAtomXor (w : MemW) (s : State) : Out := atomWord 5 w s
/-- `atom.xchg` (R352). -/
def execAtomXchg (w : MemW) (s : State) : Out := atomWord 6 w s
/-- `atom.cas` (R352). -/
def execAtomCas (w : MemW) (s : State) : Out := atomWord 7 w s

/-- `red.add` (R352). -/
def execRedAdd (w : MemW) (s : State) : Out := redWord 0 w s
/-- `red.min` (R352). -/
def execRedMin (w : MemW) (s : State) : Out := redWord 1 w s
/-- `red.max` (R352). -/
def execRedMax (w : MemW) (s : State) : Out := redWord 2 w s
/-- `red.and` (R352). -/
def execRedAnd (w : MemW) (s : State) : Out := redWord 3 w s
/-- `red.or` (R352). -/
def execRedOr (w : MemW) (s : State) : Out := redWord 4 w s
/-- `red.xor` (R352). -/
def execRedXor (w : MemW) (s : State) : Out := redWord 5 w s

/-- `atoms.add` (R353). -/
def execAtomsAdd (w : MemW) (s : State) : Out := atomsWord 0 w s
/-- `atoms.min` (R353). -/
def execAtomsMin (w : MemW) (s : State) : Out := atomsWord 1 w s
/-- `atoms.max` (R353). -/
def execAtomsMax (w : MemW) (s : State) : Out := atomsWord 2 w s
/-- `atoms.and` (R353). -/
def execAtomsAnd (w : MemW) (s : State) : Out := atomsWord 3 w s
/-- `atoms.or` (R353). -/
def execAtomsOr (w : MemW) (s : State) : Out := atomsWord 4 w s
/-- `atoms.xor` (R353). -/
def execAtomsXor (w : MemW) (s : State) : Out := atomsWord 5 w s
/-- `atoms.xchg` (R353). -/
def execAtomsXchg (w : MemW) (s : State) : Out := atomsWord 6 w s
/-- `atoms.cas` (R353). -/
def execAtomsCas (w : MemW) (s : State) : Out := atomsWord 7 w s

/-! ### Wide sums (R354, R355) -/

/-- What one lane of `wsum` does with the piece of its cell: an addend, or nothing but the flag where it is rejected. -/
def wsumEff (w : MemW) (x : Thread) (ps : List Piece) : Eff :=
  let r := wsumAddend (fmtOf w.type) (elem w.type.width (x.vreg w.data).val 0)
  { fl := r.2, effects := match r.1, ps with
      | some q, p :: _ => [.wsum p q (x.vreg w.data).val.toNat]
      | _, _ => [] }

/-- `wsum` (R354). -/
def execWsum (w : MemW) (s : State) : Out :=
  let mem := w.size = 0
  laneWord [w.form 0x30 (w.width != 0) mem [srcExact 3 w.data w.type] []] true 1
    (if mem then capLane w 16 opAtomic (wsumEff w) else spadLane w 16 16 fun x p => wsumEff w x [p]) s

/-- `wrd` (R355). -/
def execWrd (w : MemW) (s : State) : Out :=
  let mem := w.size = 0
  let eff (_ : Thread) (ps : List Piece) : Eff := { req := some (.wide w.data w.type, w.scope, ps) }
  laneWord [w.form 0x31 (w.width != 0) mem [] [w.data]] true 1
    (if mem then capLane w 16 opLoad eff else spadLane w 16 16 fun x p => eff x [p]) s

end Sys2Proof.Machine
end

