-- ==== Sys2Proof/Machine/Records.lean ====
section
/-!
DEFINITION. The ring entry that `launch` writes (R232, R404, R430).
-/

namespace Sys2Proof.Machine

open Sys2Proof

/-- An entry's granules are written at a physical address with their tags (R404). -/
def State.writeEntry (s : State) (a : Nat) (e : Entry) : State :=
  (List.range 16).foldl (fun s i =>
    s.writePiece none (devPiece (a + 16 * i) 16) (natToBytes 8 (e.dwords.getD (2 * i) 0) ++ natToBytes 8 (e.dwords.getD (2 * i + 1) 0))
      (e.tags.getD i false)) s

/-- `launch` writes its ring entry (R232, R430): whether the slot is bound to the context and its ring has room. -/
def State.queueLaunch (s : State) (ctx slot : Nat) (e : Entry) : State × Bool :=
  let q := s.queues.slots.getD slot {}
  let tail := s.mem.read (s.qcbAt q.queue + 12) 4
  if q.bound = false ∨ q.ctx ≠ ctx ∨ (tail + 2 ^ 32 - q.head) % 2 ^ 32 ≥ 2 ^ q.log2n then (s, false)
  else
    let s1 := s.writeEntry (q.ring + 256 * (tail % 2 ^ q.log2n)) e
    let s2 := s1.devStore (s.qcbAt q.queue + 12) 4 ((tail + 1) % 2 ^ 32)
    (s2.updSlot slot fun q => { q with tail := (tail + 1) % 2 ^ 32 }, true)

/-- An address at which `launch` of a context would reach no memory: the QCB of a slot that is bound to it, or its ring where
that has room. -/
def State.badRing (s : State) (ctx slot : Nat) : Option Nat :=
  let q := s.queues.slots.getD slot {}
  if q.bound = false ∨ q.ctx ≠ ctx then none
  else if s.hbmHas (s.qcbAt q.queue) 64 = false then some (s.qcbAt q.queue)
  else if (s.mem.read (s.qcbAt q.queue + 12) 4 + 2 ^ 32 - q.head) % 2 ^ 32 ≥ 2 ^ q.log2n then none
  else if s.hbmHas q.ring (256 * 2 ^ q.log2n) = false then some q.ring
  else none

end Sys2Proof.Machine
end

