-- ==== Sys2Proof/Machine/Cellar.lean ====
section
/-!
DEFINITION. What an agent of the device itself reads through an object (R46, R107), the page launch unit, the stages of a
page read, its arrival and its delivery (R34 to R37, R85 to R93, R188, R189), and PGM and ERASE (R95, R96).
-/

namespace Sys2Proof.Machine

open Sys2Proof

/-! ### Reading through an object -/

/-- What an agent finds when it reads: bytes with their poison, nothing readable, the entry of a CELLAR object, a wait,
translation faults, or a table at no address. -/
inductive Got where
  | ok (bs : List Byte) (psn : List Bool)
  | bad
  | cellar (entry : List Nat)
  | wait
  | fault (fs : List FaultAt)
  | noMem (addr : Nat)

/-- The bytes of a piece as an agent reads them at device scope: what a peer has answered, memory, or scratch. -/
def State.agentBytes (s : State) (p : Piece) : List Byte × List Bool :=
  match p.peer with
  | some peer =>
    match s.caches.asks.find? fun a => a.agent && a.peer == some peer && a.ctx == p.ctx && a.obj == p.obj && a.off == p.off
        && a.len == p.len && !a.write && a.state == 1 with
    | some a => (natToBytes p.len a.data, List.replicate p.len a.psn)
    | none => (List.replicate p.len 0, List.replicate p.len false)
  | none => ((s.peek p).1, s.marks p)

/-- An agent on a die reads n bytes of an object: the answers it has waited for have then served it. -/
def State.agentRead (s : State) (die ctx obj o n : Nat) (op : AccOp) : State × Got :=
  let served (t : State) : State := t.dropAsks (t.asker none)
  match translate s none die ctx obj o n op with
  | (s1, .ok ps) => (served s1, .ok (ps.flatMap fun p => (s1.agentBytes p).1) (ps.flatMap fun p => (s1.agentBytes p).2))
  | (s1, .cellar e _) => (served s1, .cellar e)
  | (s1, .trap _ _) => (served s1, .bad)
  | (s1, .wait) => (s1, .wait)
  | (s1, .tfault fs) => (served s1, .fault fs)
  | (s1, .noMem a) => (s1, .noMem a)

/-! ### Physical pages (R85) -/

/-- The flash die of a physical page within its channel, and its erase block. -/
def pageDie (q : Nat) : Nat := q / 16384 % 8
def eraseBlock (q : Nat) : Nat := q % 64 + 64 * (q / 16384)

/-- Whether two physical pages lie on one flash die. -/
def sameDie (q r : Nat) : Bool := pageChannel q == pageChannel r && pageDie q == pageDie r

/-- The page a flash command concerns: its page, or the first page of its erase block. -/
def FlashOp.page (f : FlashOp) : Nat := if f.program then f.target else f.target % 64 + 16384 * (f.target / 64)

/-- What a cellar page holds; none for an erased one. (DESIGN CHOICE, log entry 1.) -/
def State.cellarPage (s : State) (q : Nat) : Option CellarPage := s.cellar.pages.find? fun c => c.page == q

/-- A page's 16 KiB as bytes. -/
def pageBytes (cs : List Host.Cell) : List Byte := cellsAt cs 0 16384

/-! ### Reads -/

/-- One read changed. -/
def State.updRead (s : State) (id : Nat) (f : PageRead → PageRead) : State :=
  { s with cellar := { s.cellar with reads := s.cellar.reads.map fun r => if r.id = id then f r else r } }

/-- A read that nobody waits for any longer goes. (DEDUCED, log entry 58.) -/
def State.dropRead (s : State) (id : Nat) : State :=
  { s with cellar := { s.cellar with reads := s.cellar.reads.filter fun r => r.id != id } }

/-- The read of a number. -/
def State.read? (s : State) (id : Nat) : Option PageRead := s.cellar.reads.find? fun r => r.id == id

/-- A read of a physical page is received by the controller (R87, R96): the state and its number. -/
def State.startRead (s : State) (q hint : Nat) (f : PageRead → PageRead) : State × Nat :=
  let r : PageRead := { id := s.sched.nextId, page := q, hint := hint, level := hint, order := s.cellar.order }
  ({ s.bump with cellar := { s.cellar with reads := s.cellar.reads ++ [f r], order := s.cellar.order + 1 } }, s.sched.nextId)

/-- Whether a read is still before its correction's success. -/
def PageRead.early (r : PageRead) : Bool := r.stage != .corrected && r.stage != .buffered

/-- Blocks that wait for a read, in list order. -/
def State.usersOf (s : State) (r : PageRead) : List Block := s.blocks.filter fun b => r.users.contains b.uid

/-- Slots in use: reads of page launches (R90). -/
def State.slotsUsed (s : State) : Nat := (s.cellar.reads.filter fun r => !r.users.isEmpty).length

/-! ### The page launch unit (R36, R90) -/

/-- Block i of a launch. -/
def State.entryBlock (s : State) (launch i : Nat) : Option Block := s.blocks.find? fun b => b.launch == launch && b.blk == i

/-- The entry is no longer read: the unit moves past it, or it is no longer held. -/
def Launch.taken (l : Launch) (i : Nat) : Launch :=
  { l with nextEntry := if i = l.nextEntry then i + 1 else l.nextEntry, held := l.held.filter fun h => h.1 != i }

/-- An entry is held on fault records (R90). -/
def State.holdEntry (s : State) (launch i die : Nat) (fs : List FaultAt) : State :=
  let r := s.recordFaults 2 die fs
  r.1.updLaunch launch fun l => { l.taken i with held := (l.taken i).held ++ r.2.map fun q => (i, q) }

/-- An entry takes outcome INVALID without being sensed (R36, R89). -/
def State.invalidEntry (s : State) (launch i pgno : Nat) : State :=
  (s.updLaunch launch fun l => l.taken i).arrive launch i pgno 3 0 64 true

/-- The page number of a list entry is known (R184). -/
def State.notePage (s : State) (launch i pgno : Nat) : State :=
  { s with blocks := s.blocks.map fun b => if b.launch = launch ∧ b.blk = i then { b with pgno := pgno } else b }

/-- The page-map part of an entry with page number p (R36, R86, R90), through the extent cache of a die (R49). `join` takes the
sense of an outstanding read of the same page. (DESIGN CHOICE, log entry 6.) -/
def State.mapEntry (s : State) (l : Launch) (i p die : Nat) (join : Bool) : Out :=
  let c := l.cellar
  let o := p * 16384
  if (c.check (o : Nat) 16384 [30]).isSome then .next (s.invalidEntry l.id i p)
  else match walk s none die l.ctx c.obj o 16384 opCopySrc with
    | (_, .noMem a) => .fault (.noSuchAddress a)
    | (s1, .cellar _ m) =>
      if bitAt m 0 = false then
        let s2 := s1.updLaunch l.id fun l => { l with read := insertNat i l.read }
        .next (s2.holdEntry l.id i die [{ ctx := l.ctx, obj := c.obj, unit := p, off := o, write := false, host := false }])
      else if s1.badMapEntry m then .next (s1.invalidEntry l.id i p)
      else match s1.entryBlock l.id i with
        | none => .next s1
        | some b =>
          let q := bits m 8 30
          let s2 := s1.updLaunch l.id fun l => l.taken i
          match if join then s2.cellar.reads.find? fun r => r.page == q && r.early && !r.users.isEmpty else none with
          | some r => .next (s2.updRead r.id fun r => { r with users := r.users ++ [b.uid] })
          | none => .next (s2.startRead q (bits m 38 3) fun r => { r with users := [b.uid] }).1
    | (s1, .trap _ _) => .next (s1.invalidEntry l.id i p)
    | (_, _) => .next (s.invalidEntry l.id i p)

/-- The unit reads entry i of a launch's list (R36). -/
def State.readEntry (s : State) (l : Launch) (i die : Nat) (join : Bool) : Out :=
  match s.agentRead die l.ctx l.list.obj (l.list.cursor + 4 * i) 4 opLoad with
  | (s1, .ok bs _) => (s1.notePage l.id i (bytesToNat bs)).mapEntry l i (bytesToNat bs) die join
  | (s1, .wait) => .next s1
  | (s1, .fault fs) => .next (s1.holdEntry l.id i die fs)
  | (_, .noMem a) => .fault (.noSuchAddress a)
  | (s1, _) => .next (s1.invalidEntry l.id i 0)

/-- A held entry goes on: one that was held on its page-map entry keeps the page number it has read (R36). -/
def State.resumeEntry (s : State) (l : Launch) (i die : Nat) (join : Bool) : Out :=
  match if l.read.contains i then s.entryBlock l.id i else none with
  | some b => s.mapEntry l i b.pgno die join
  | none => s.readEntry l i die join

/-- The entries of a launch that wait for a slot: those its unit has not come to, and held ones whose faults are answered. -/
def Launch.left (l : Launch) : Nat := (l.nblk - l.nextEntry) + (l.held.filter fun h => h.2 == 0).length

/-- Slots that a launch holds. -/
def State.slotsOf (s : State) (launch : Nat) : Nat :=
  (s.cellar.reads.filter fun r => (s.usersOf r).any fun b => b.launch == launch).length

/-- Whether the next free slot goes to a launch (R223): any one while slots are not short, else the first by priority and
age among those that hold fewer than 1,024, or among all where none does. -/
def State.slotGoes (s : State) (l : Launch) : Bool :=
  let waiting := s.launches.filter fun k => k.st == .released && k.paged && !k.cancelled && decide (0 < k.left)
  let left := waiting.foldl (fun n k => n + k.left) 0
  let low := waiting.filter fun k => decide (s.slotsOf k.id < 1024)
  let before (k : Launch) : Bool := k.prio > l.prio || (k.prio == l.prio && k.seq < l.seq)
  decide (left ≤ 4096 - s.slotsUsed)
  || if low.isEmpty then !(waiting.any before) else decide (s.slotsOf l.id < 1024) && !(low.any before)

/-- PAGE_READ_START: the page launch unit takes the next entry of launch `id`, or, with `ok`, the held entry `tid` whose
fault has been answered, through the extent cache of die `sub`; `alt` shares an outstanding sense of the same page.
(DEDUCED, log entry 41.) -/
def execPageReadStart (s : State) : Out :=
  let a := s.sched.args
  match s.launch? a.id with
  | none => notNow "pageReadStart: no such launch"
  | some l =>
    if l.st ≠ .released ∨ l.paged = false ∨ l.cancelled then notNow "pageReadStart: the launch reads no pages"
    else if s.slotsUsed ≥ 4096 then notNow "pageReadStart: no slot is free"
    else if s.slotGoes l = false then notNow "pageReadStart: another launch has the slot first"
    else if a.ok then
      if (l.held.filter fun h => h.1 == a.tid) = [(a.tid, 0)] then s.resumeEntry l a.tid (a.sub % 8) a.alt
      else notNow "pageReadStart: the entry is not ready to go on"
    else if l.nextEntry < l.nblk then s.readEntry l l.nextEntry (a.sub % 8) a.alt
    else notNow "pageReadStart: the list is read"

/-! ### The stages of a read (R87, R88, R96) -/

/-- Reads of a channel in given stages. -/
def State.inStage (s : State) (channel : Nat) (f : RStage → Bool) : List PageRead :=
  s.cellar.reads.filter fun r => pageChannel r.page == channel && f r.stage

/-- Whether the flash die of a page has nothing to do before a read: no flash command received earlier, no read received
earlier that is to be sensed, none that is being sensed, and no page that waits for its bus. (DEDUCED, log entry 41.) -/
def State.dieReady (s : State) (r : PageRead) : Bool :=
  (s.cellar.ops.all fun f => !(sameDie f.page r.page) || decide (f.order > r.order))
  && s.cellar.reads.all fun q => !(sameDie q.page r.page) || q.id == r.id
      || (q.stage != .sensed && q.stage != .sensing && !(q.stage == .queued && decide (q.order < r.order)))

/-- Whether the sense of a read may start: its die is ready, and a page buffer of its channel is free (R87, R224).
(DEDUCED, log entry 41.) -/
def State.maySense (s : State) (r : PageRead) : Bool :=
  r.stage == .queued && s.dieReady r && decide ((s.inStage (pageChannel r.page) fun t => t == .buffered).length < 8)

/-- SENSE_DONE: the sense of read `id` ends (R87, R96); `alt` says that it starts. One that is not seen to start may start and end
in this move. (DEDUCED, log entry 41.) -/
def execSenseDone (s : State) : Out :=
  match s.read? s.sched.args.id with
  | none => notNow "senseDone: no such read"
  | some r =>
    if s.sched.args.alt then
      if s.maySense r then .next (s.updRead r.id fun r => { r with stage := .sensing }) else notNow "senseDone: the sense cannot start"
    else if r.stage = .sensing ∨ s.maySense r then .next (s.updRead r.id fun r => { r with stage := .sensed, stamp := s.sched.now })
    else notNow "senseDone: the page is not sensed"

/-- TRANSFER_DONE: the page of read `id` reaches a decoder; the one whose sense ended first goes first (R87).
(DEDUCED, log entry 41.) -/
def execTransferDone (s : State) : Out :=
  match s.read? s.sched.args.id with
  | none => notNow "transferDone: no such read"
  | some r =>
    let sensed := s.inStage (pageChannel r.page) fun t => t == .sensed
    let before (q : PageRead) : Bool := q.stamp < r.stamp || (q.stamp == r.stamp && pageDie q.page < pageDie r.page)
    if r.stage ≠ .sensed then notNow "transferDone: the page is not sensed"
    else if sensed.any before then notNow "transferDone: another page has the bus first"
    else if (s.inStage (pageChannel r.page) fun t => t == .transferred || t == .corrected).length ≥ 4 then
      notNow "transferDone: no decoder is free"
    else .next (s.updRead r.id fun r => { r with stage := .transferred })

/-- The outcome of a read is final: its entries arrive (R91) and its copies learn of it (R94). -/
def State.pageOutcome (s : State) (r : PageRead) (code : Nat) (data : List Host.Cell) : State :=
  let level := if code = 3 then 0 else r.level
  let s1 := (s.usersOf r).foldl (fun s b => s.arrive b.launch b.blk b.pgno code level (pageChannel r.page) (decide (2 ≤ code))) s
  let tell (p : CmdPage) : CmdPage := if p.read = some r.id then { p with read := none, code := code, data := data } else p
  let cmds := s1.engines.cmds.map fun c => if r.cmds.contains c.id then { c with pages := c.pages.map tell } else c
  { s1 with engines := { s1.engines with cmds := cmds } }

/-- A PGREAD whose page is final writes the payload, or zeros, and completes (R428). -/
def State.endPgread (s : State) (r : PageRead) (code : Nat) (data : List Host.Cell) : Out :=
  match r.pgread with
  | none => .next s
  | some (idx, dest) =>
    if s.hbmHas dest 16384 = false then .fault (.noSuchAddress dest)
    else
      let s1 := s.devWrite dest (if 2 ≤ code then List.replicate 16384 0 else pageBytes data)
      s1.finishCommand idx 0x0C (if 2 ≤ code then 3 else 0) (code + r.level * 2 ^ 8)

/-- A read whose outcome is final: it waits in the page buffer or its decoder for delivery (R92), or ends. One that only copies or
PGREAD wait for takes no place in the buffer. (DESIGN CHOICE, log entry 98.) -/
def State.endCorrection (s : State) (r : PageRead) (code : Nat) (data : List Host.Cell) : Out :=
  let s1 := s.pageOutcome r code data
  let stays := decide (code < 2) && !r.users.isEmpty
  let room := (s.inStage (pageChannel r.page) fun t => t == .buffered).length < 8
  let s2 := if stays then
      s1.updRead r.id fun r => { r with stage := if room then .buffered else .corrected, code := code, data := data, cmds := [], pgread := none }
    else s1.dropRead r.id
  s2.endPgread r code data

/-- CORRECTION_DONE: the correction of read `id` ends: in success with `ok`, else in a sense at the next level, or in
UNCORRECTABLE after eight (R88, R89); an erased page is found so, an unreadable one is never corrected. -/
def execCorrectionDone (s : State) : Out :=
  match s.read? s.sched.args.id with
  | none => notNow "correctionDone: no such read"
  | some r =>
    if r.stage ≠ .transferred then notNow "correctionDone: the page is in no decoder"
    else match s.cellarPage r.page with
      | none => s.endCorrection r 4 []
      | some c =>
        if s.sched.args.ok && c.readable then s.endCorrection r (if r.tried = 1 then 0 else 1) c.data
        else if r.tried ≥ 8 then s.endCorrection r 2 []
        else .next (s.updRead r.id fun r => { r with level := (r.level + 1) % 8, tried := r.tried + 1, stage := .queued })

/-- PAGE_BUFFER_ENTER: the corrected page of read `id` moves from its decoder into its channel's buffer (R87, R92). -/
def execPageBufferEnter (s : State) : Out :=
  match s.read? s.sched.args.id with
  | none => notNow "pageBufferEnter: no such read"
  | some r =>
    if r.stage ≠ .corrected then notNow "pageBufferEnter: the page does not wait in a decoder"
    else if (s.inStage (pageChannel r.page) fun t => t == .buffered).length ≥ 8 then notNow "pageBufferEnter: the buffer is full"
    else .next (s.updRead r.id fun r => { r with stage := .buffered })

/-- PAGE_DELIVERY: the page of read `id` is written into the landing area of block `tid`, which has been placed (R92, R188);
the last block it serves frees its place. -/
def execPageDelivery (s : State) : Out :=
  let a := s.sched.args
  match s.read? a.id, s.block? a.tid with
  | some r, some b =>
    if r.stage ≠ .buffered ∨ r.users.contains b.uid = false then notNow "pageDelivery: the page does not wait for that block"
    else if b.st ≠ .clearing ∨ b.landed then notNow "pageDelivery: the block is not placed"
    else
      let s1 := s.updBlock b.uid fun b => { b with scr := setCells 0 (pageBytes r.data) b.scr, landed := true }
      let left := r.users.filter fun u => u != b.uid
      .next (if left.isEmpty then s1.dropRead r.id else s1.updRead r.id fun r => { r with users := left })
  | _, _ => notNow "pageDelivery: no such read or block"

/-! ### PGM and ERASE (R95, R96, R428) -/

/-- Whether a flash command may end: nothing received before it is left on its die. -/
def State.opReady (s : State) (f : FlashOp) : Bool :=
  (s.cellar.ops.all fun g => !(sameDie g.page f.page) || decide (g.order ≥ f.order))
  && s.cellar.reads.all fun r => !(sameDie r.page f.page) || decide (r.order > f.order) || !r.early

/-- A page of the cellar replaced; none erases it. -/
def State.setPage (s : State) (q : Nat) (c : Option CellarPage) : State :=
  { s with cellar := { s.cellar with pages := (s.cellar.pages.filter fun p => p.page != q) ++ c.toList } }

/-- PGM_ERASE_COMPLETE: the PGM or ERASE `id` ends and its command completes; `alt` is an error of the flash die (R95).
(DESIGN CHOICE, log entry 40; DEDUCED, log entry 61.) -/
def execPgmEraseComplete (s : State) : Out :=
  let a := s.sched.args
  match s.cellar.ops.find? fun f => f.id == a.id with
  | none => notNow "pgmEraseComplete: no such command"
  | some f =>
    if s.opReady f = false then notNow "pgmEraseComplete: the flash die has earlier work"
    else
      let s1 := { s with cellar := { s.cellar with ops := s.cellar.ops.filter fun g => g.id != f.id } }
      if f.program then
        if s.hbmHas f.source 16384 = false then .fault (.noSuchAddress f.source)
        else
          let failed := a.alt || (s.cellarPage f.target).isSome
          let page : CellarPage := { page := f.target, readable := !failed,
                                     data := if failed then [] else setCells 0 (s.mem.bytes f.source 16384) [] }
          (s1.setPage f.target (some page)).finishCommand f.cmd 0x09 (if failed then 3 else 0) 0
      else if a.alt then s1.finishCommand f.cmd 0x0A 3 0
      else
        let pages := s1.cellar.pages.filter fun p => eraseBlock p.page != f.target
        { s1 with cellar := { s1.cellar with pages := pages } }.finishCommand f.cmd 0x0A 0 0

end Sys2Proof.Machine
end

