-- ==== Sys2Proof/Machine/Integer.lean ====
section
/-!
DEFINITION. Integer arithmetic, bitwise operations, shifts, bit fields, select, compare, integer conversion, packing and
retagging (R301 to R307, R310 to R312), and the immediate instructions (R316 to R318).
-/

namespace Sys2Proof

open Sys2Proof.Machine

/-! ### Shared forms (R301) -/

/-- The form of a ROUNDED word with given sources, writing d. -/
def Rounded.form (w : Rounded) (op : Nat) (srcs : List Src) : Form :=
  { guard := w.guard, regs := (w.view op).regs, srcs := srcs, dV := [w.d] }

/-- The first n of the sources a, b, c, each RAW or the tag field. -/
def Rounded.rawSrcs (w : Rounded) (n : Nat) : List Src := [srcRaw 0 w.a w.tag, srcRaw 1 w.b w.tag, srcRaw 2 w.c w.tag].take n

/-- Element i of the sources a, b and c of a word under its tag. -/
def Rounded.elemsAt (w : Rounded) (x : Thread) (i : Nat) : Nat × Nat × Nat :=
  (elem w.tag.width (x.vreg w.a).val i, elem w.tag.width (x.vreg w.b).val i, elem w.tag.width (x.vreg w.c).val i)

/-- The form of a PLAIN word with given sources, writing d. -/
def Plain.form (w : Plain) (op : Nat) (srcs : List Src) : Form :=
  { guard := w.guard, regs := (w.view op).regs, srcs := srcs, dV := [w.d] }

/-- The form of an I-form word with given sources, writing d. -/
def Imm.form (w : Imm) (op : Nat) (srcs : List Src) : Form :=
  { guard := w.guard, regs := (w.view op).regs, srcs := srcs, dV := [w.d] }

end Sys2Proof

namespace Sys2Proof.Machine

open Sys2Proof

/-- A word that computes each element of d from the elements of its sources. -/
def elemWord (op n : Nat) (f : Nat → Nat → Nat → Nat) (w : Rounded) (s : State) : Out :=
  laneWord [w.form op (w.rawSrcs n)] false 1 (fun s _ _ x =>
    (s, .ok (Eff.vec w.d w.tag (packWord w.tag.width ((List.range w.tag.ne).map fun i =>
      let e := w.elemsAt x i
      f e.1 e.2.1 e.2.2))))) s

/-- An exact integer result as an element: modulo 2^w, or clamped under SAT (R256). -/
def narrow (t : Tag) (sat : Bool) (z : Int) : Nat := if sat then clamp t.width t.isSigned z else wrap t.width z

/-- An integer word: exact on the values of its elements, then narrowed (R303). -/
def intWord (op n : Nat) (f : Int → Int → Int → Int) (w : Rounded) (s : State) : Out :=
  elemWord op n (fun x y z => narrow w.tag w.sat (f (intVal w.tag x) (intVal w.tag y) (intVal w.tag z))) w s

/-! ### Integer arithmetic (R303) -/

/-- The exact results of R303. -/
def addZ (x y : Int) : Int := x + y
def subZ (x y : Int) : Int := x - y
def mulZ (x y : Int) : Int := x * y
def minZ (x y : Int) : Int := if x ≤ y then x else y
def maxZ (x y : Int) : Int := if x ≥ y then x else y
def absZ (t : Tag) (x : Int) : Int := if t.isSigned then (x.natAbs : Int) else x
def negZ (x : Int) : Int := -x

/-- `mov` (R303). -/
def execMov (w : Rounded) (s : State) : Out :=
  laneWord [w.form 0x00 [srcAny 0 w.a]] false 1 (fun s _ _ x =>
    (s, .ok (Eff.vec w.d (x.vreg w.a).tag (x.vreg w.a).val))) s

/-- `add` (R303). -/
def execAdd (w : Rounded) (s : State) : Out := intWord 0x01 2 (fun x y _ => addZ x y) w s

/-- `sub` (R303). -/
def execSub (w : Rounded) (s : State) : Out := intWord 0x02 2 (fun x y _ => subZ x y) w s

/-- `mul` (R303). -/
def execMul (w : Rounded) (s : State) : Out := intWord 0x03 2 (fun x y _ => mulZ x y) w s

/-- `mulhi` (R303). -/
def execMulhi (w : Rounded) (s : State) : Out := intWord 0x04 2 (fun x y _ => x * y / (2 ^ w.tag.width : Nat)) w s

/-- `mad` (R303). -/
def execMad (w : Rounded) (s : State) : Out := intWord 0x05 3 (fun x y z => x * y + z) w s

/-- `min` (R303). -/
def execMin (w : Rounded) (s : State) : Out := intWord 0x06 2 (fun x y _ => minZ x y) w s

/-- `max` (R303). -/
def execMax (w : Rounded) (s : State) : Out := intWord 0x07 2 (fun x y _ => maxZ x y) w s

/-- `abs` (R303). -/
def execAbs (w : Rounded) (s : State) : Out := intWord 0x08 1 (fun x _ _ => absZ w.tag x) w s

/-- `neg` (R303). -/
def execNeg (w : Rounded) (s : State) : Out := intWord 0x09 1 (fun x _ _ => negZ x) w s

/-! ### Bitwise operations, shifts and counts (R304) -/

/-- The element results of R304, by width. -/
def notE (w x : Nat) : Nat := 2 ^ w - 1 - x
def andnE (w x y : Nat) : Nat := x &&& notE w y
def shlE (w x n : Nat) : Nat := if n ≥ w then 0 else x * 2 ^ n % 2 ^ w
def shrE (w x n : Nat) : Nat := if n ≥ w then 0 else x / 2 ^ n
def sarE (w x n : Nat) : Nat := wrap w (sext w x / (2 ^ (if n ≥ w then w else n) : Nat))
def rotE (w x n : Nat) : Nat := x * 2 ^ (n % w) % 2 ^ w + x / 2 ^ (w - n % w)
def clzE (w x : Nat) : Nat := if x = 0 then w else w - 1 - x.log2
def brevE (w x : Nat) : Nat := packNat 1 ((List.range w).map fun j => bits x (w - 1 - j) 1)

/-- `and` (R304). -/
def execAnd (w : Rounded) (s : State) : Out := elemWord 0x0A 2 (fun x y _ => x &&& y) w s

/-- `or` (R304). -/
def execOr (w : Rounded) (s : State) : Out := elemWord 0x0B 2 (fun x y _ => x ||| y) w s

/-- `xor` (R304). -/
def execXor (w : Rounded) (s : State) : Out := elemWord 0x0C 2 (fun x y _ => x ^^^ y) w s

/-- `not` (R304). -/
def execNot (w : Rounded) (s : State) : Out := elemWord 0x0D 1 (fun x _ _ => notE w.tag.width x) w s

/-- `andn` (R304). -/
def execAndn (w : Rounded) (s : State) : Out := elemWord 0x0E 2 (fun x y _ => andnE w.tag.width x y) w s

/-- `shl` (R304). -/
def execShl (w : Rounded) (s : State) : Out := elemWord 0x0F 2 (fun x y _ => shlE w.tag.width x y) w s

/-- `shr` (R304). -/
def execShr (w : Rounded) (s : State) : Out := elemWord 0x10 2 (fun x y _ => shrE w.tag.width x y) w s

/-- `sar` (R304). -/
def execSar (w : Rounded) (s : State) : Out := elemWord 0x11 2 (fun x y _ => sarE w.tag.width x y) w s

/-- `rot` (R304). -/
def execRot (w : Rounded) (s : State) : Out := elemWord 0x12 2 (fun x y _ => rotE w.tag.width x y) w s

/-- `clz` (R304). -/
def execClz (w : Rounded) (s : State) : Out := elemWord 0x13 1 (fun x _ _ => clzE w.tag.width x) w s

/-- `popc` (R304). -/
def execPopc (w : Rounded) (s : State) : Out := elemWord 0x14 1 (fun x _ _ => popcount w.tag.width x) w s

/-- `brev` (R304). -/
def execBrev (w : Rounded) (s : State) : Out := elemWord 0x15 1 (fun x _ _ => brevE w.tag.width x) w s

/-! ### Bit fields, select and compare (R305 to R307) -/

/-- Position and length of a bit field of an element of w bits (R305). -/
def fieldOf (w y : Nat) : Nat × Nat :=
  let pos := if y % 2 ^ (w / 2) < w then y % 2 ^ (w / 2) else w
  (pos, if y / 2 ^ (w / 2) < w - pos then y / 2 ^ (w / 2) else w - pos)

/-- `bfx` on one element (R305). -/
def bfxE (t : Tag) (x y : Nat) : Nat :=
  let p := fieldOf t.width y
  let f := bits x p.1 p.2
  if t.isSigned ∧ p.2 > 0 then wrap t.width (sext p.2 f) else f

/-- `bfi` on one element (R305). -/
def bfiE (w x y z : Nat) : Nat :=
  let p := fieldOf w y
  let m := (2 ^ p.2 - 1) * 2 ^ p.1
  (z &&& notE w m) ||| (x * 2 ^ p.1 &&& m)

/-- `bfx` (R305). -/
def execBfx (w : Rounded) (s : State) : Out := elemWord 0x16 2 (fun x y _ => bfxE w.tag x y) w s

/-- `bfi` (R305). -/
def execBfi (w : Rounded) (s : State) : Out := elemWord 0x17 3 (fun x y z => bfiE w.tag.width x y z) w s

/-- `sel` (R306). -/
def execSel (w : Rounded) (s : State) : Out :=
  laneWord [w.form 0x18 [srcExact 0 w.a w.tag, srcExact 1 w.b w.tag]] false 1 (fun s _ _ x =>
    (s, .ok (Eff.vec w.d w.tag (x.vreg (if x.pred w.c then w.a else w.b)).val))) s

/-- A condition of `cmp` and `cmpi`: 0 eq, 1 ne, 2 lt, 3 le, 4 gt, 5 ge (R307). -/
def condHolds (cond : Nat) (x y : Int) : Bool :=
  match cond with
  | 0 => x == y
  | 1 => x != y
  | 2 => x < y
  | 3 => x ≤ y
  | 4 => x > y
  | _ => x ≥ y

/-- `cmp` (R307). -/
def execCmp (w : Rounded) (s : State) : Out :=
  laneWord [{ w.form 0x19 (w.rawSrcs 2) with dV := [], dP := [w.d] }] false 1 (fun s _ _ x =>
    let all := (List.range w.tag.ne).all fun i =>
      let e := w.elemsAt x i
      condHolds w.sub (intVal w.tag e.1) (intVal w.tag e.2.1)
    (s, .ok { p := [(w.d, all)] })) s

/-! ### Conversion, packing and retagging (R310 to R312) -/

/-- The value of an integer or M element (R257, R310). -/
def elemValue (t : Tag) (e : Nat) : Int :=
  match t with
  | .m8x8 => mValue 8 e
  | .m4x16 => mValue 4 e
  | t => intVal t e

/-- The clamp of an M format: ±127 or ±7 (R310). -/
def clampM (w : Nat) (z : Int) : Int :=
  let m : Int := (2 ^ (w - 1) - 1 : Nat)
  if z > m then m else if z < -m then -m else z

/-- An exact integer as an element of a format (R310). -/
def encodeInt (t : Tag) (sat : Bool) (z : Int) : Nat :=
  match t with
  | .m8x8 => mCode 8 (clampM 8 z)
  | .m4x16 => mCode 4 (clampM 4 z)
  | t => narrow t sat z

/-- The source element for destination element i (R310). -/
def cvtIndex (nes ned sub i : Nat) : Nat := if nes ≥ ned then sub * ned + i else i

/-- The SUB bound of R310 for a thread's source tag. -/
def cvtLate (a : Nat) (t : Tag) (sub : Nat) (x : Thread) : Option Viol :=
  let nes := (x.vreg a).tag.ne
  if (if nes > t.ne then sub < nes / t.ne else sub = 0) then none else some ⟨9, 10, 0⟩

/-- `cvt.i` (R310). -/
def execCvtI (w : Rounded) (s : State) : Out :=
  let src : Src := { code := 0, reg := w.a, accept := [.u64, .s64, .u32x2, .s32x2, .u16x4, .s16x4, .u8x8, .s8x8, .m8x8, .m4x16],
                     report := w.tag.code }
  laneWord [{ w.form 0x26 [src] with late := cvtLate w.a w.tag w.sub }] false 1 (fun s _ _ x =>
    let st := (x.vreg w.a).tag
    (s, .ok (Eff.vec w.d w.tag (packWord w.tag.width ((List.range w.tag.ne).map fun i =>
      let j := cvtIndex st.ne w.tag.ne w.sub i
      encodeInt w.tag w.sat (if j < st.ne then elemValue st (elem st.width (x.vreg w.a).val j) else 0)))))) s

/-- `pack` (R311). -/
def execPack (w : Plain) (s : State) : Out :=
  laneWord [w.form 0x27 [srcRaw 0 w.a w.tag, srcRaw 1 w.b w.tag]] false 1 (fun s _ _ x =>
    (s, .ok (Eff.vec w.d w.tag (packWord 32 [elem 32 (x.vreg w.a).val 0, elem 32 (x.vreg w.b).val 0])))) s

/-- `unpack` (R311). -/
def execUnpack (w : Plain) (s : State) : Out :=
  laneWord [w.form 0x28 [srcRaw 0 w.a w.tag]] false 1 (fun s _ _ x =>
    (s, .ok (Eff.vec w.d w.tag (packWord 32 [elem 32 (x.vreg w.a).val (w.opx % 2)])))) s

/-- `retag` (R312). -/
def execRetag (w : Plain) (s : State) : Out :=
  laneWord [w.form 0x29 [srcAny 0 w.a]] false 1 (fun s _ _ x => (s, .ok (Eff.vec w.d w.tag (x.vreg w.a).val))) s

/-! ### Immediates (R316 to R318) -/

/-- An exact integer as a 64-bit word. -/
def wordOf (z : Int) : Word := BitVec.ofNat 64 (wrap 64 z)

/-- `movi` (R316). -/
def execMovi (w : Imm) (s : State) : Out :=
  laneWord [w.form 0x00 []] false 1 (fun s _ _ _ =>
    (s, .ok (Eff.vec w.d .raw (wordOf (sext 35 (w.a % 64 * 2 ^ 29 + w.imm)))))) s

/-- `movhi` (R316). -/
def execMovhi (w : Imm) (s : State) : Out :=
  laneWord [w.form 0x01 [srcWord 0 w.a]] false 1 (fun s _ _ x =>
    (s, .ok (Eff.vec w.d .raw (BitVec.ofNat 64 (w.imm * 2 ^ 35 + bits (x.vreg w.a).val.toNat 0 35))))) s

/-- `addi` (R317). -/
def execAddi (w : Imm) (s : State) : Out :=
  laneWord [w.form 0x02 [srcWord 0 w.a]] false 1 (fun s _ _ x =>
    (s, .ok (Eff.vec w.d (x.vreg w.a).tag ((x.vreg w.a).val + wordOf (sext 29 w.imm))))) s

/-- `andi` (R317). -/
def execAndi (w : Imm) (s : State) : Out :=
  laneWord [w.form 0x03 [srcSome 0 w.a intTags]] false 1 (fun s _ _ x =>
    (s, .ok (Eff.vec w.d (x.vreg w.a).tag ((x.vreg w.a).val &&& wordOf (sext 29 w.imm))))) s

/-- `ori` (R317). -/
def execOri (w : Imm) (s : State) : Out :=
  laneWord [w.form 0x04 [srcSome 0 w.a intTags]] false 1 (fun s _ _ x =>
    (s, .ok (Eff.vec w.d (x.vreg w.a).tag ((x.vreg w.a).val ||| BitVec.ofNat 64 w.imm)))) s

/-- `cmpi` (R318). -/
def execCmpi (w : Imm) (s : State) : Out :=
  laneWord [{ w.form 0x05 [srcWord 0 w.a] with dV := [], dP := [w.d] }] false 1 (fun s _ _ x =>
    let a := x.vreg w.a
    let k := wordOf (sext 26 (bits w.imm 0 26))
    let r := if a.tag = .u64 then condHolds (w.imm / 2 ^ 26) a.val.toNat k.toNat else condHolds (w.imm / 2 ^ 26) a.val.toInt k.toInt
    (s, .ok { p := [(w.d, r)] })) s

end Sys2Proof.Machine
end

