-- ==== Sys2Proof/Machine/Commands.lean ====
section
/-!
DEFINITION. The words that hand commands to the engines, arm barriers, count experts, look experts up, and take and mark
Press reservations (R141 to R143, R147, R153, R161, R373 to R384).
-/

namespace Sys2Proof.Machine

open Sys2Proof

/-! ### The leader's checks (R142, R375) -/

/-- One check of a command: the leader goes on (true), or its command is switched off (false), or another outcome. -/
abbrev Check := State → State × LaneRes Bool

/-- Checks one after another, to the first that does not pass. -/
def runChecks : List Check → State → State × LaneRes Bool
  | [], s => (s, .ok true)
  | c :: cs, s => match c s with
    | (s', .ok true) => runChecks cs s'
    | r => r

/-- A range of an object that a command names: the capability, where it starts, its length and the operation. -/
structure ObjRange where
  cap : CapReg
  off : Nat
  len : Nat
  op : AccOp

/-- R14 over an object range. -/
def capCheck (q : ObjRange) : Check := fun s =>
  match q.cap.check q.off q.len q.op.rights with
  | some r => (s, .trap cCapability (auxCap r))
  | none => (s, .ok true)

/-- R32 over a scratch range (address, length). -/
def spadCheck (b : Block) (q : Nat × Nat) : Check := fun s => (s, .ok (s.scratchPiece b q.1 q.2).isSome)

/-- ALIGN of an address (address, alignment). -/
def alignCheck (q : Nat × Nat) : Check := fun s =>
  if q.1 % q.2 ≠ 0 then (s, .trap cAlign (auxAlign q.1 q.2)) else (s, .ok true)

/-- The object-entry part of the walk over an object range. -/
def entryCheck (b : Block) (q : ObjRange) : Check := fun s =>
  match entryPart s b.ctx q.cap.obj q.off q.len q.op with
  | (s', .trap c a) => (s', .trap c a)
  | (s', .noMem a) => (s', .noMem a)
  | (s', _) => (s', .ok true)

/-- Items 3 to 6 of R375. -/
def rangeChecks (b : Block) (objs : List ObjRange) (spads aligns : List (Nat × Nat)) : List Check :=
  objs.map capCheck ++ spads.map (spadCheck b) ++ aligns.map alignCheck ++ objs.map (entryCheck b)

/-- A command of the group, issued with the leader's operands (R142, R143). -/
def commandWord (f : Form) (checks : Block → Thread → List Check) (cmd : Block → Thread → Cmd) (s : State) : Out :=
  laneWord [{ f with leader := true }] true 1 (fun s b act x =>
    if isLeader act x then
      let r := runChecks (checks b x) s
      (r.1, r.2.map fun go =>
        if go then { effects := [.command { cmd b x with core := b.core, blk := b.uid, tid := x.tid, ctx := b.ctx }] } else { off := true })
    else (s, .ok {})) s

/-! ### The parameters of copies (R374, R378, R379) -/

/-- A register's value as a number. -/
def regNat (x : Thread) (r : Nat) : Nat := (x.vreg r).val.toNat

/-- The flags of OPX: a notify register, a scratch source, a scratch destination. -/
def nfy (w : Plain) : Bool := bitAt w.opx 4
def ssp (w : Plain) : Bool := bitAt w.opx 2
def dsp (w : Plain) : Bool := bitAt w.opx 3

/-- A value of a register that has bits above n set is refused under a FIELD (R375 item 1). -/
def tooWide (x : Thread) (r n field : Nat) : List Viol := if regNat x r ≥ 2 ^ n then [⟨0x0C, field, 0⟩] else []

/-- The refused values of the control, notify and scratch registers. -/
def ctlViols (w : Plain) (x : Thread) : List Viol :=
  let n := regNat x (w.d + 1)
  (if bits (regNat x w.d) 22 10 ≠ 0 then [⟨0x0C, 1, 0⟩] else [])
  ++ (if nfy w ∧ (bits n 48 15 ≠ 0 ∨ (bitAt n 63 ∧ bits n 21 27 ≠ 0) ∨ (bitAt n 63 = false ∧ dsp w)) then [⟨0x0C, 1, 0⟩] else [])
  ++ (if ssp w then tooWide x w.a 21 2 else []) ++ (if dsp w then tooWide x w.b 21 3 else [])

/-- The registers that a copy word reads; those that it reads through field d, of which R474 names none, have the operand code 0.
(DESIGN CHOICE, log entry 119.) -/
def copySrcs (w : Plain) (params : List Nat) : List Src :=
  [srcWord 0 w.d] ++ (if nfy w then [srcWord 0 (w.d + 1)] else []) ++ (if ssp w then [srcWord 0 w.a] else [])
  ++ (if dsp w then [srcWord 1 w.b] else []) ++ params.map fun r => srcWord 2 r

/-- The form of a copy word. -/
def copyForm (op : Nat) (w : Plain) (params : List Nat) (values : Thread → List Viol) : Form :=
  { guard := w.guard, regs := (w.view op).regs, srcs := copySrcs w params,
    caps := (if ssp w then [] else [w.a]) ++ (if dsp w then [] else [w.b]), values := fun x => ctlViols w x ++ values x }

/-- Source and destination of a copy word. -/
def copyLoc (b : Block) (x : Thread) (spad : Bool) (r : Nat) : Loc :=
  if spad then .spad b.uid (bits (regNat x r) 0 21) else .object (x.creg r) (x.creg r).cursor

def copySrc (w : Plain) (b : Block) (x : Thread) : Loc := copyLoc b x (ssp w) w.a
def copyDst (w : Plain) (b : Block) (x : Thread) : Loc := copyLoc b x (dsp w) w.b

/-- The landing barrier and the notify target that the control registers name. -/
def copyLbar (w : Plain) (x : Thread) : Option Nat :=
  if bitAt (regNat x w.d) 21 then some (bits (regNat x w.d) 0 21) else none

def copyNotify (w : Plain) (b : Block) (x : Thread) : Option Loc :=
  let n := regNat x (w.d + 1)
  if nfy w = false then none
  else some (if bitAt n 63 then .spad b.uid (bits n 0 21) else .object (x.creg w.b) (bits n 0 48))

/-- Object ranges of a place for n bytes. -/
def Loc.objs (l : Loc) (n : Nat) (op : AccOp) : List ObjRange := match l with
  | .object c o => [{ cap := c, off := o, len := n, op := op }]
  | .spad _ _ => []

/-- Scratch ranges of a place for n bytes. -/
def Loc.spads (l : Loc) (n : Nat) : List (Nat × Nat) := match l with
  | .object _ _ => []
  | .spad _ a => [(a, n)]

/-- The address of a place, for its alignment. -/
def Loc.place : Loc → Nat
  | .object _ o => o
  | .spad _ a => a

/-- The checks of a copy word: source and destination ranges where they are checked at issue, the control ranges, further
scratch ranges, and alignments. -/
def copyChecks (w : Plain) (b : Block) (x : Thread) (src dst : Option Nat) (spads aligns : List (Nat × Nat)) : List Check :=
  let n := copyNotify w b x
  let l := copyLbar w x
  let ofLen (p : Loc) (k : Option Nat) (op : AccOp) : List ObjRange := match k with
    | some k => p.objs k op
    | none => []
  let spadLen (p : Loc) (k : Option Nat) : List (Nat × Nat) := match k with
    | some k => p.spads k
    | none => []
  rangeChecks b
    (ofLen (copySrc w b x) src opCopySrc ++ ofLen (copyDst w b x) dst opCopyDst ++ (n.toList.flatMap fun p => p.objs 4 opStore))
    (spadLen (copySrc w b x) src ++ spadLen (copyDst w b x) dst ++ (l.toList.map fun a => (a, 16))
      ++ (n.toList.flatMap fun p => p.spads 4) ++ spads)
    ((l.toList.map fun a => (a, 16)) ++ (n.toList.map fun p => (p.place, 4)) ++ aligns)

/-- The parts of a command that every copy word gives. -/
def copyCmd (kind : CmdKind) (w : Plain) (b : Block) (x : Thread) : Cmd :=
  { kind := kind, queue := 2 ^ (w.opx % 4), src := copySrc w b x, dst := copyDst w b x, lbar := copyLbar w x,
    notify := copyNotify w b x, value := bits (regNat x w.d) 32 32 }

/-- Whether a `cpy` keeps tags as far as its capabilities and offsets say (R26): the kinds of its objects decide the
rest when it runs. -/
def keepsTags (w : Plain) (x : Thread) : Bool :=
  !(ssp w) && !(dsp w) && (x.creg w.a).cursor % 16 == 0 && (x.creg w.b).cursor % 16 == 0
  && bitAt (x.creg w.a).rights 3 && bitAt (x.creg w.b).rights 4

/-- A length beyond 2^30 is refused (R378). -/
def lenViols (w : Plain) (x : Thread) : List Viol := if regNat x w.c > 2 ^ 30 then [⟨0x0C, 4, 0⟩] else []

/-- `cpy` (R378, R147). -/
def execCpy (w : Plain) (s : State) : Out :=
  commandWord (copyForm 0xC3 w [w.c] (lenViols w))
    (fun b x => copyChecks w b x (some (regNat x w.c)) (some (regNat x w.c)) [] [])
    (fun b x => { copyCmd .cpy w b x with len := regNat x w.c, keepTags := keepsTags w x }) s

/-- COUNT, SIZE and STRIDE of `cpyg` (R378). -/
def gatherCount (w : Plain) (x : Thread) : Nat := bits (regNat x w.c) 0 13
def gatherSize (w : Plain) (x : Thread) : Nat := bits (regNat x w.c) 13 13
def gatherStride (w : Plain) (x : Thread) : Nat := bits (regNat x w.c) 26 25

/-- The refused parameters of `cpyg` (R378). -/
def gatherViols (w : Plain) (x : Thread) : List Viol :=
  (if gatherCount w x = 0 ∨ gatherCount w x > 4096 ∨ gatherSize w x = 0 ∨ gatherSize w x > 4096 ∨ gatherStride w x > 2 ^ 24
      ∨ regNat x w.c ≥ 2 ^ 51 then [⟨0x0C, 4, 0⟩] else [])
  ++ tooWide x (w.c + 1) 21 4

/-- `cpyg` (R378, R148). -/
def execCpyg (w : Plain) (s : State) : Out :=
  commandWord (copyForm 0xC4 w [w.c, w.c + 1] (gatherViols w))
    (fun b x => copyChecks w b x none (some (gatherCount w x * gatherSize w x))
      [(bits (regNat x (w.c + 1)) 0 21, 4 * gatherCount w x)] [(bits (regNat x (w.c + 1)) 0 21, 4)])
    (fun b x => { copyCmd .cpyg w b x with rows := gatherCount w x, len := gatherSize w x, stride := gatherStride w x,
                                            idx := bits (regNat x (w.c + 1)) 0 21 }) s

/-- `cpym` (R378, R168). -/
def execCpym (w : Plain) (s : State) : Out :=
  commandWord (copyForm 0xC5 w [w.c, w.c + 1] fun x => lenViols w x ++ tooWide x (w.c + 1) 21 4)
    (fun b x => copyChecks w b x (some (regNat x w.c)) (some (regNat x w.c))
      [(bits (regNat x (w.c + 1)) 0 21, 64)] [(bits (regNat x (w.c + 1)) 0 21, 64)])
    (fun b x => { copyCmd .cpym w b x with len := regNat x w.c, pdesc := bits (regNat x (w.c + 1)) 0 21 }) s

/-- N, E and CBASE of `rack`, and whether they are in range (R379). -/
def rackN (w : Plain) (x : Thread) : Nat := bits (regNat x w.c) 0 21
def rackE (w : Plain) (x : Thread) : Nat := bits (regNat x w.c) 21 17
def rackBase (w : Plain) (x : Thread) : Nat := bits (regNat x w.c) 38 16

def rackValid (w : Plain) (x : Thread) : Bool :=
  decide (1 ≤ rackN w x ∧ rackN w x ≤ 2 ^ 20 ∧ 1 ≤ rackE w x ∧ rackBase w x + rackE w x ≤ 65536 ∧ regNat x w.c < 2 ^ 54)

/-- Item 5 of R375 for the control operands of a copy word: the alignments of its barrier and its notify. -/
def controlAligns (w : Plain) (b : Block) (x : Thread) : List Check :=
  rangeChecks b [] [] (((copyLbar w x).toList.map fun a => (a, 16)) ++ (copyNotify w b x).toList.map fun p => (p.place, 4))

/-- Whether a capability lets a notify through; what lies in scratch is judged as it is written.
(DESIGN CHOICE, log entry 105.) -/
def Loc.notifiable : Loc → Bool
  | .object c o => (c.check (o : Nat) 4 opStore.rights).isNone
  | .spad _ _ => true

/-- `rack` (R379, R170): with parameters out of range it is issued, checks no range, and fails; a barrier or a notify that is
out of range is then not written. (DESIGN CHOICE, log entry 105.) -/
def execRack (w : Plain) (s : State) : Out :=
  commandWord (copyForm 0xC6 w [w.c] fun _ => [])
    (fun b x =>
      if rackValid w x then
        copyChecks w b x (some (8 * rackN w x)) (some (4 * (rackE w x + 1 + rackN w x))) []
          [((copySrc w b x).place, 8), ((copyDst w b x).place, 4)]
      else controlAligns w b x)
    (fun b x => { copyCmd .rack w b x with len := rackN w x, experts := rackE w x, cbase := rackBase w x,
                                            notify := (copyNotify w b x).filter fun p => rackValid w x || p.notifiable,
                                            failed := !(rackValid w x), invalid := !(rackValid w x) }) s

/-- `ppass` (R377). -/
def execPpass (w : Plain) (s : State) : Out :=
  commandWord { guard := w.guard, regs := (w.view 0xC2).regs, srcs := [srcWord 0 w.a], values := fun x => tooWide x w.a 21 2 }
    (fun b x => rangeChecks b [] [(regNat x w.a, 64)] [(regNat x w.a, 64)])
    (fun _ x => { kind := .ppass, queue := 16, pdesc := regNat x w.a }) s

/-- `qfence` (R380, R146). -/
def execQfence (w : Plain) (s : State) : Out :=
  commandWord { guard := w.guard, regs := (w.view 0xC7).regs } (fun _ _ => []) (fun _ _ => { kind := .qfence, queue := w.opx }) s

/-! ### Barriers, expert counters and residency (R381 to R384) -/

/-- `lbarm` (R381, R153). -/
def execLbarm (w : Plain) (s : State) : Out :=
  laneWord [{ guard := w.guard, regs := (w.view 0xC8).regs, srcs := [srcWord 0 w.a, srcWord 1 w.b],
              values := fun x => tooWide x w.a 21 2 ++ tooWide x w.b 32 3 }] true 1
    (fun s b _ x => (s, (s.scratchAccess b (regNat x w.a : Nat) 16 16).map fun p => match p with
      | some p => { effects := [.arm p (regNat x w.b)] }
      | none => { off := true })) s

/-- `ecnt.add` (R382). -/
def execEcntAdd (w : Plain) (s : State) : Out :=
  laneWord [{ guard := w.guard, regs := (w.view 0xC9).regs, srcs := [srcWord 0 w.a, srcWord 1 w.b],
              values := fun x => tooWide x w.a 16 2 }] true 1
    (fun s _ _ x => (s, .ok { effects := [.count (regNat x w.a) (regNat x w.b)] })) s

/-- `ecnt.rd` (R382). -/
def execEcntRd (w : Plain) (s : State) : Out :=
  laneWord [{ w.form 0xC9 [srcWord 0 w.a] with values := fun x => tooWide x w.a 16 2 }] true 1
    (fun s _ _ x => (s, .ok (Eff.vec w.d .u64 (BitVec.ofNat 64 (lookupD 0 (regNat x w.a) s.tables.act))))) s

/-- An entry of the expert residency table (R383): its two dwords. -/
def State.expert (s : State) (i : Nat) : Nat × Nat := lookupD (0, 0) i s.tables.exres

/-- `exlook` (R384). -/
def execExlook (w : Plain) (s : State) : Out :=
  laneWord [{ w.form 0xCA [srcWord 0 w.a] with dV := [w.d, w.d + 1], dP := [w.b], values := fun x => tooWide x w.a 16 2 }] true 1
    (fun s _ _ x =>
      let e := s.expert (regNat x w.a)
      (s, .ok { v := [(w.d, { val := BitVec.ofNat 64 e.1, tag := .u64 }), (w.d + 1, { val := BitVec.ofNat 64 e.2, tag := .u64 })],
                p := [(w.b, 1 ≤ bits e.1 0 3 && bits e.1 0 3 ≤ 3)] })) s

/-! ### Press reservations (R160, R161, R376) -/

/-- Whom a reservation belongs to: the block, or the first block of its gang (R160). -/
def Block.holder (b : Block) : Nat := b.uid - b.gangRank

/-- The reservation a block or its gang holds. -/
def State.resvOf (s : State) (b : Block) : Option Resv := s.engines.resv.find? fun r => r.owner == b.holder

/-- A reservation is taken where the quad's table has a free entry, or kept, its mark cleared (R161, R376). -/
def State.takeResv (s : State) (b : Block) : State × Bool :=
  match s.resvOf b with
  | some r =>
    let keep (q : Resv) : Resv := if q.quad = r.quad ∧ q.idx = r.idx then { q with marked := none } else q
    ({ s with engines := { s.engines with resv := s.engines.resv.map keep } }, true)
  | none =>
    let mine := s.engines.resv.filter fun q => q.quad == quadOf b.core
    if mine.length ≥ 16 then (s, false)
    else
      let idx := leastOf 0 ((List.range 16).filter fun i => !(mine.any fun q => q.idx == i))
      let prio := match s.launchOf b with
        | some l => l.prio
        | none => 0
      let r : Resv := { quad := quadOf b.core, idx := idx, owner := b.holder, prio := prio }
      ({ s with engines := { s.engines with resv := s.engines.resv ++ [r] } }, true)

/-- `pacq` (R376): one answer for every active thread. -/
def execPacq (w : Plain) (s : State) : Out :=
  commitWord [{ guard := w.guard, regs := (w.view 0xC0).regs }] drainNone (fun s _ _ _ => (s, .ok {}))
    (performThen fun s _ b oks =>
      let r := s.takeResv b
      oks.foldl (fun t xe => t.updThread b.uid xe.1.tid fun x => x.setP w.d r.2) r.1) s

/-- `prel` (R376): the mark separates commands that have entered their queues from later ones. -/
def execPrel (w : Plain) (s : State) : Out :=
  commitWord [{ guard := w.guard, regs := (w.view 0xC1).regs }] drainNone (fun s _ _ _ => (s, .ok {}))
    (performThen fun s _ b _ =>
      let mark (q : Resv) : Resv := if q.owner = b.holder then { q with marked := some (q.marked.getD s.sched.nextId) } else q
      { s with engines := { s.engines with resv := s.engines.resv.map mark } }) s

end Sys2Proof.Machine
end

