-- ==== Sys2Proof/Machine/Control.lean ====
section
/-!
DEFINITION. Control transfer (R319 to R321) and `reform` (R176, R386).
-/

namespace Sys2Proof.Machine

open Sys2Proof

/-- The target of a relative transfer (R320). -/
def relTarget (x : Thread) (imm : Nat) : Int := x.pc + 8 * sext 29 imm

/-- A source that takes RAW or U64. -/
def srcTarget (reg : Nat) : Src := srcRaw 0 reg .u64

/-- `bra` (R320). -/
def execBra (w : Imm) (s : State) : Out :=
  laneWord [{ w.form 0x10 [] with dV := [] }] false 1 (fun s _ _ x =>
    (s, .ok { pc := some (relTarget x w.imm), branch := some (0, relTarget x w.imm) })) s

/-- `call` (R320). -/
def execCall (w : Imm) (s : State) : Out :=
  laneWord [w.form 0x11 []] false 1 (fun s _ _ x =>
    (s, .ok { Eff.vec w.d .u64 (wordOf (x.pc + 8)) with
      pc := some (relTarget x w.imm), branch := some (1, relTarget x w.imm) })) s

/-- `ret` (R320). -/
def execRet (w : Imm) (s : State) : Out :=
  laneWord [{ w.form 0x12 [srcTarget w.a] with dV := [] }] false 1 (fun s _ _ x =>
    let t : Int := ((x.vreg w.a).val.toNat : Nat)
    (s, .ok { pc := some t, branch := some (2, t) })) s

/-- `jmpr` (R320). -/
def execJmpr (w : Imm) (s : State) : Out :=
  laneWord [{ w.form 0x13 [srcTarget w.a] with dV := [] }] false 1 (fun s _ _ x =>
    let t : Int := ((x.vreg w.a).val.toNat : Nat) + 8 * sext 29 w.imm
    (s, .ok { pc := some t, branch := some (3, t) })) s

/-- `loop` (R320). -/
def execLoop (w : Imm) (s : State) : Out :=
  laneWord [w.form 0x14 [srcWord 0 w.a]] false 1 (fun s _ _ x =>
    let n : Word := (x.vreg w.a).val - 1
    let e := Eff.vec w.d (x.vreg w.a).tag n
    (s, .ok (if n = 0 then e
             else { e with pc := some (relTarget x w.imm), branch := some (4, relTarget x w.imm) }))) s

/-- `nop` (R320). -/
def execNop (w : Imm) (s : State) : Out :=
  laneWord [{ w.form 0x1A [] with dV := [] }] false 1 (fun s _ _ _ => (s, .ok {})) s

/-- `reform` (R389): every thread is filed under pc + 8 and the group ends. The thread that runs the handler of a frozen
group goes on alone (R243). -/
def execReform (_ : Imm) (s : State) : Out :=
  match s.current with
  | none => .refused .noGroup
  | some (g, b) =>
    let xs := g.issuers b
    let s1 := s.stepPcs b xs (xs.map fun x => (x, {}))
    s.compared g b xs 1
      (if g.runner.isSome then .next (s1.regroup g.gid)
       else
        let s2 := s1.dropGroup g.gid
        match s2.block? b.uid with
        | none => .next s2
        | some b2 => .next ((s2.fileAll b.uid (b2.members g.tids)).drawAll g.core g.part))

end Sys2Proof.Machine
end

