-- ==== Sys2Proof/Machine/Engines.lean ====
section
/-!
DEFINITION. The command queues and the copy engine: entering a queue, units of copies and of racks, landing credits,
completion and notification (R94, R141 to R155, R170 to R172).
-/

namespace Sys2Proof.Machine

open Sys2Proof

/-! ### Queues (R141 to R146) -/

/-- One command changed. -/
def State.updCmd (s : State) (id : Nat) (f : Cmd → Cmd) : State :=
  { s with engines := { s.engines with cmds := s.engines.cmds.map fun c => if c.id = id then f c else c } }

/-- The command of a number. -/
def State.cmd? (s : State) (id : Nat) : Option Cmd := s.engines.cmds.find? fun c => c.id == id

/-- The commands that entered a queue of a command before it and are incomplete. -/
def State.ahead (s : State) (c : Cmd) : List Cmd :=
  (s.engines.cmds.takeWhile fun d => d.id != c.id).filter fun d => d.core == c.core && d.queue &&& c.queue != 0

/-- Whether a command may start: its die has power, and nothing before it in its queues is incomplete (R144, R146); a pass joins
behind passes that have joined (R163). -/
def State.mayStart (s : State) (c : Cmd) : Bool :=
  s.diePowered (dieOf c.core) &&
  if c.kind = .ppass then (s.ahead c).all fun d => d.kind == .ppass && d.posted else (s.ahead c).isEmpty

/-- COMMAND_ENQUEUE: the next committed command of core `id` enters its queues (R82, R143). -/
def execCommandEnqueue (s : State) : Out :=
  match s.nextCommand s.sched.args.id with
  | none => notNow "commandEnqueue: the core has no committed command that may enter"
  | some i => match i.eff with
    | .command c => .next ({ s with items := s.items.filter fun j => j.id != i.id }.enqueue c)
    | _ => notNow "commandEnqueue: no command"

/-! ### The stretches of a unit -/

/-- The bytes a command writes (R150): its nominal count, but for a pass, which counts by its descriptor. -/
def Cmd.nominal (c : Cmd) : Nat := match c.kind with
  | .cpy => c.len
  | .cpym => c.len
  | .cpyg => c.rows * c.len
  | .rack => 4 * (c.experts + 1 + c.len)
  | _ => 0

/-- Units of 128 bytes in n bytes. -/
def unitsOf128 (n : Nat) : Nat := (n + 127) / 128

/-- The units of a command: those of its writes, and before them, for a `rack`, those of its reads (R145). -/
def Cmd.units (c : Cmd) : Nat :=
  if c.invalid then 0
  else match c.kind with
    | .rack => unitsOf128 (8 * c.len) + unitsOf128 c.nominal
    | .ppass => 0
    | .qfence => 0
    | _ => unitsOf128 c.nominal

/-- Where a stretch of a unit comes from or goes to: an offset of an object, a scratch address, or nowhere. -/
inductive Spot where
  | object (cap : CapReg) (off : Nat)
  | spad (blk : Nat) (addr : Nat)
  | none
deriving DecidableEq, Repr

/-- A place n bytes on. -/
def Loc.spot (l : Loc) (n : Nat) : Spot := match l with
  | .object c o => .object c (o + n)
  | .spad u a => .spad u (a + n)

/-- Bytes to the next boundary of 4,096 of an object's offsets. -/
def Spot.room : Spot → Nat
  | .object _ o => 4096 - o % 4096
  | .spad _ _ => 4096
  | .none => 4096

/-- What is left of n bytes of a stretch when it may not pass the boundaries of its places. -/
def cutAt (src dst : Spot) (n : Nat) : Nat := min n (min src.room dst.room)

/-- The stretches of a plain copy between two positions of its range. -/
def stretches (c : Cmd) : Nat → Nat → Nat → List (Spot × Spot × Nat)
  | 0, _, _ => []
  | fuel + 1, k, n =>
    if n = 0 then []
    else
      let m := cutAt (c.src.spot k) (c.dst.spot k) n
      (c.src.spot k, c.dst.spot k, m) :: stretches c fuel (k + m) (n - m)

/-- Where row i of a `cpyg` starts (R148): nowhere where its index or its range fails R32 or R14. -/
def State.rowSpot (s : State) (b : Block) (c : Cmd) (i : Nat) : Spot :=
  match s.scratchPiece b (c.idx + 4 * i : Nat) 4 with
  | none => .none
  | some p =>
    let at0 := bytesToNat (s.peek p).1 * c.stride
    match c.src with
    | .object cap o => if (cap.check (o + at0 : Nat) c.len [30]).isSome then .none else .object cap (o + at0)
    | .spad u a => if (s.scratchPiece b (a + at0 : Nat) c.len).isNone then .none else .spad u (a + at0)

/-- A place n bytes on, nowhere staying nowhere. -/
def Spot.plus (p : Spot) (n : Nat) : Spot := match p with
  | .object c o => .object c (o + n)
  | .spad u a => .spad u (a + n)
  | .none => .none

/-- The stretches of a `cpyg` between two positions of its writes. (DEDUCED, log entry 39.) -/
def State.rowStretches (s : State) (b : Block) (c : Cmd) : Nat → Nat → Nat → List (Spot × Spot × Nat)
  | 0, _, _ => []
  | fuel + 1, k, n =>
    if n = 0 then []
    else
      let i := k / c.len
      let src := (s.rowSpot b c i).plus (k % c.len)
      let m := min (cutAt src (c.dst.spot k) n) (c.len - k % c.len)
      (src, c.dst.spot k, m) :: s.rowStretches b c fuel (k + m) (n - m)

/-! ### Reading and writing a stretch -/

/-- The pages that a copy's stretch of a CELLAR object needs: the page, once its outcome is known (R94).
(DEDUCED, log entry 38.) -/
def Cmd.pageOf (c : Cmd) (j : Nat) : Option CmdPage := c.pages.find? fun p => p.page == j

/-- A stretch read: bytes with their poison and the place of HBM they came from, unreadable, or not yet. -/
inductive Fetched where
  | ok (bs : List Byte) (psn : List Bool) (place : Option Nat)
  | bad
  | wait
  | fault (fs : List FaultAt)
  | noMem (addr : Nat)

/-- Whether a fault's unit has been answered with FAIL for a command (R145, R149). (DEDUCED, log entry 37.) -/
def Cmd.gaveUp (c : Cmd) (fs : List FaultAt) : Bool := fs.any fun f => c.lost.contains (f.obj, f.unit)

/-- The fault of a page-map entry of a CELLAR object whose V is 0 (R94). (DEDUCED, log entry 38.) -/
def Cmd.pageFault (c : Cmd) (obj j : Nat) : FaultAt :=
  { ctx := c.ctx, obj := obj, unit := j, off := 16384 * j, write := false, host := false }

/-- A page of a CELLAR object, with its map entry, is asked for (R94): a read starts, its map entry faults, or it cannot be read.
(DEDUCED, log entry 38.) -/
def State.askPage (s : State) (c : Cmd) (cap : CapReg) (m j : Nat) : State × Fetched :=
  if bitAt m 0 = false then
    let f := c.pageFault cap.obj j
    if c.gaveUp [f] then (s, .bad) else (s, .fault [f])
  else if s.badMapEntry m then (s, .bad)
  else
    let r := s.startRead (bits m 8 30) (bits m 38 3) fun r => { r with cmds := [c.id] }
    (r.1.updCmd c.id fun c => { c with pages := c.pages ++ [{ page := j, read := some r.2 }] }, .wait)

/-- The pages of a row in a CELLAR object: whether the map entry of one faults. -/
def walkPages (die : Nat) (c : Cmd) (obj : Nat) : List Nat → State → State × Fetched
  | [], s => (s, .ok [] [] none)
  | j :: js, s => match walk s none die c.ctx obj (16384 * j) 1 opCopySrc with
    | (s1, .cellar _ m) =>
      if bitAt m 0 then walkPages die c obj js s1
      else if c.gaveUp [c.pageFault obj j] then (s1, .bad) else (s1, .fault [c.pageFault obj j])
    | (s1, .noMem a) => (s1, .noMem a)
    | (s1, _) => (s1, .bad)

/-- A whole row of a `cpyg` is walked (R148): nothing, where it passes. (DEDUCED, log entry 39.) -/
def State.walkRow (s : State) (die : Nat) (c : Cmd) (obj o n : Nat) : State × Fetched :=
  match translate s none die c.ctx obj o n opCopySrc with
  | (s1, .ok _) => (s1, .ok [] [] none)
  | (s1, .cellar _ _) => walkPages die c obj (touched 16384 o n) s1
  | (s1, .trap _ _) => (s1, .bad)
  | (s1, .wait) => (s1, .wait)
  | (s1, .tfault fs) => if c.gaveUp fs then (s1, .bad) else (s1, .fault fs)
  | (s1, .noMem a) => (s1, .noMem a)

/-- One stretch of a source is read. For the rows of `cpyg` the whole row is walked (`row`: where it starts and its
length), so that a row that fails does so whole (R148). (DEDUCED, log entries 37 and 39.) -/
def State.fetchSpot (s : State) (die : Nat) (c : Cmd) (b : Block) (p : Spot) (n : Nat) (row : Option (Nat × Nat)) :
    State × Fetched :=
  match p with
  | .none => (s, .bad)
  | .spad _ a => match s.scratchPiece b (a : Nat) n with
    | some q => (s, .ok (s.peek q).1 (s.marks q) none)
    | none => (s, .bad)
  | .object cap o =>
    let whole := match row with
      | some (o0, n0) => s.walkRow die c cap.obj o0 n0
      | none => (s, .ok [] [] none)
    match whole with
    | (s0, .ok _ _ _) => match translate s0 none die c.ctx cap.obj o n opCopySrc with
      | (s1, .ok ps) =>
        let place := match ps with
          | q :: _ => if q.peer.isNone && s1.hbmFrame (q.addr / 65536) then some q.addr else none
          | [] => none
        (s1, .ok (ps.flatMap fun q => (s1.agentBytes q).1) (ps.flatMap fun q => (s1.agentBytes q).2) place)
      | (s1, .cellar _ m) => match c.pageOf (o / 16384) with
        | some pg =>
          if pg.read.isSome then (s1, .wait)
          else if 2 ≤ pg.code then (s1, .bad)
          else (s1, .ok (cellsAt pg.data (o % 16384) n) (List.replicate n false) none)
        | none => s1.askPage c cap m (o / 16384)
      | (s1, .trap _ _) => (s1, .bad)
      | (s1, .wait) => (s1, .wait)
      | (s1, .tfault fs) => if c.gaveUp fs then (s1, .bad) else (s1, .fault fs)
      | (s1, .noMem a) => (s1, .noMem a)
    | r => r

/-- Where a stretch is written: its pieces, unwritable, or not yet. -/
inductive Target where
  | ok (ps : List Piece)
  | bad
  | wait
  | fault (fs : List FaultAt)
  | noMem (addr : Nat)

/-- The places of a stretch of a destination, once no word is half performed on them (R121). (DEDUCED, log entry 37.) -/
def State.targetSpot (s : State) (die : Nat) (c : Cmd) (b : Block) (p : Spot) (n : Nat) : State × Target :=
  match p with
  | .none => (s, .bad)
  | .spad _ a => match s.scratchPiece b (a : Nat) n with
    | some q => (s, if s.lockedOut 0 q then .wait else .ok [q])
    | none => (s, .bad)
  | .object cap o => match translate s none die c.ctx cap.obj o n opCopyDst with
    | (s1, .ok ps) => (s1, if ps.any (s1.lockedOut 0) then .wait else .ok ps)
    | (s1, .cellar _ _) => (s1, .bad)
    | (s1, .trap _ _) => (s1, .bad)
    | (s1, .wait) => (s1, .wait)
    | (s1, .tfault fs) => if c.gaveUp fs then (s1, .bad) else (s1, .fault fs)
    | (s1, .noMem a) => (s1, .noMem a)

/-- Granules of a written piece that receive a poisoned byte: the marks of its bytes by granules of g bytes. -/
def poisonedGranules (g a : Nat) (psn : List Bool) : List Nat :=
  distinct (((List.range psn.length).filter fun i => psn.getD i false).map fun i => (a + i) / g)

/-- Bytes written to pieces by an engine with the poison they carry (R62), and the tags of whole granules where they are
kept (R26): `tags` are those of the source from its first granule. (DESIGN CHOICE, log entry 5.) -/
def State.landBytes (s : State) : List Piece → List Byte → List Bool → Option (List Bool) → State
  | [], _, _, _ => s
  | p :: ps, bs, psn, tags =>
    let mine := bs.take p.len
    let s1 := s.writePiece none p mine
    let s2 := match tags, p.peer with
      | some ts, none => (List.range (p.len / 16)).foldl (fun s i =>
          if ts.getD i false then
            (s.writeAddrs p).foldl (fun s a => { s with mem := { s.mem with tags := insertNat ((a + 16 * i) / 16) s.mem.tags } }) s
          else s) s1
      | _, _ => s1
    let hit := psn.take p.len
    let s3 : State := match p.scratch with
      | some u => s2.updBlock u fun b =>
          { b with scrPoison := (poisonedGranules 4 p.addr hit).foldl (fun l k => insertNat k l) b.scrPoison }
      | none => if p.peer.isSome then s2
        else (s2.writeAddrs p).foldl (fun s a => { s with mem := s.mem.addPoison (poisonedGranules 32 a hit) }) s2
    s3.landBytes ps (bs.drop p.len) (psn.drop p.len) (tags.map fun ts => ts.drop (p.len / 16))

/-- A stretch that is ready: what it reads, zeros where it cannot be read, and where it goes. -/
structure Ready where
  bs : List Byte
  psn : List Bool
  tags : Option (List Bool)
  dest : Option (List Piece)
  unread : Bool

/-- Whether a stretch makes its command fail (R149). -/
def Ready.failed (r : Ready) : Bool := r.unread || r.dest.isNone

/-- How the preparation of a unit ends. -/
inductive Prepared where
  | ready (rs : List Ready)
  | wait
  | fault (fs : List FaultAt)
  | noMem (addr : Nat)

/-- Tags of the granules of HBM from an address, where a copy keeps them between two HBM objects (R26). -/
def State.keptTags (s : State) (c : Cmd) (src : Option Nat) (dest : Option (List Piece)) (n : Nat) : Option (List Bool) :=
  match src, dest with
  | some a, some (p :: _) =>
    if c.keepTags && p.scratch.isNone && p.peer.isNone && s.hbmFrame (p.addr / 65536) then
      some ((List.range (n / 16)).map fun i => s.mem.tagAt (a + 16 * i))
    else none
  | _, _ => none

/-- One more stretch before the others: a wait or a fault of any holds the unit. -/
def Prepared.cons (r : Ready) : Prepared → Prepared
  | .ready rs => .ready (r :: rs)
  | p => p

/-- Faults of a stretch joined to those of the others. -/
def Prepared.withFaults (fs : List FaultAt) : Prepared → Prepared
  | .fault gs => .fault (fs ++ gs)
  | .noMem a => .noMem a
  | _ => .fault fs

/-- A stretch that waits, before the others. -/
def Prepared.waiting : Prepared → Prepared
  | .fault gs => .fault gs
  | .noMem a => .noMem a
  | _ => .wait

/-- Every stretch of a unit is read and its destination walked. -/
def prepare (die : Nat) (c : Cmd) (b : Block) (row : Spot × Spot × Nat → Option (Nat × Nat)) :
    List (Spot × Spot × Nat) → State → State × Prepared
  | [], s => (s, .ready [])
  | q :: qs, s =>
    let f := s.fetchSpot die c b q.1 q.2.2 (row q)
    let t := f.1.targetSpot die c b q.2.1 q.2.2
    let rest := prepare die c b row qs t.1
    let go (bs : List Byte) (psn : List Bool) (src : Option Nat) (bad : Bool) : Prepared :=
      let put (dest : Option (List Piece)) : Prepared :=
        rest.2.cons { bs := bs, psn := psn, tags := rest.1.keptTags c src dest q.2.2, dest := dest, unread := bad }
      match t.2 with
      | .ok ps => put (some ps)
      | .bad => put none
      | .wait => rest.2.waiting
      | .fault fs => rest.2.withFaults fs
      | .noMem a => .noMem a
    (rest.1, match f.2 with
      | .ok bs psn src => go bs psn src false
      | .bad => go (List.replicate q.2.2 0) (List.replicate q.2.2 false) none true
      | .wait => rest.2.waiting
      | .fault fs => rest.2.withFaults fs
      | .noMem a => .noMem a)

/-- A prepared unit is written. -/
def State.landAll (s : State) (rs : List Ready) : State :=
  rs.foldl (fun s r => match r.dest with
    | some ps => s.landBytes ps r.bs r.psn r.tags
    | none => s) s

/-- The block whose operands a command uses: its issuing block. -/
def State.cmdBlock (s : State) (c : Cmd) : Option Block := s.block? c.blk

/-- n bytes are credited to a command's landing barrier (R150, R152). -/
def State.creditCmd (s : State) (c : Cmd) (n : Nat) : State :=
  match c.lbar, s.cmdBlock c with
  | some a, some b => match s.scratchPiece b (a : Nat) 16 with
    | some p => match p.scratch with
      | some u => s.creditAt u p.addr n none
      | none => s
    | none => s
  | _, _ => s

/-- The answers of the host and of peers that a unit of a command has waited for have served it. -/
def State.servedCmd (s : State) (c : Cmd) : State := s.dropAsks (2 ^ 64 + c.id)

/-- A command faults (R145): its records, with SRC 1 and its quad. -/
def State.faultCmd (s : State) (c : Cmd) (fs : List FaultAt) : State :=
  let r := (s.servedCmd c).recordFaults 1 (quadOf c.core) fs
  r.1.updCmd c.id fun c => { c with waits := distinct r.2 }

/-- A unit of a command has been written: it counts at once, or once a peer has acknowledged its writes, and with it the n bytes
that are credited (R144, R150). -/
def State.unitDone (s : State) (c : Cmd) (n : Nat) (failed : Bool) (sent : List Nat) : State :=
  let count (c : Cmd) : Cmd := { c with unit := c.unit + 1, failed := c.failed || failed, acks := sent, owed := if sent.isEmpty then 0 else n }
  if sent.isEmpty ∧ n ≠ 0 then
    (s.creditCmd c n).updCmd c.id fun c => { count c with credited := decide (c.unit + 1 ≥ c.units) }
  else s.updCmd c.id count

/-! ### Copies (R145, R147 to R149) -/

/-- The stretches of the next unit of a copy. -/
def State.unitList (s : State) (c : Cmd) (b : Block) : List (Spot × Spot × Nat) :=
  let at0 := 128 * c.unit
  let n := min 128 (c.nominal - at0)
  if c.kind = .cpyg then s.rowStretches b c 260 at0 n else stretches c 16 at0 n

/-- The row of a `cpyg` that a stretch of its unit belongs to: where it starts, and its length.
(DEDUCED, log entry 39.) -/
def Cmd.rowOf (c : Cmd) (list : List (Spot × Spot × Nat)) (q : Spot × Spot × Nat) : Option (Nat × Nat) :=
  match c.kind, q.1 with
  | .cpyg, .object _ o =>
    let k := 128 * c.unit + (list.takeWhile fun r => r != q).foldl (fun n r => n + r.2.2) 0
    some (o - k % c.len, c.len)
  | _, _ => none

/-- Where a range of n bytes lies by name: its object, or the block and address of its scratch; nothing outside an allocation. -/
def State.rangeAt (s : State) (b : Block) (p : Spot) (n : Nat) : Option (Bool × Nat × Nat) := match p with
  | .object c o => some (false, c.obj, o)
  | .spad _ a => (s.scratchPiece b (a : Nat) n).bind fun q => q.scratch.map fun u => (true, u, q.addr)
  | .none => none

/-- Whether a range of n bytes of a command's source overlaps its destination. -/
def State.meetsDst (s : State) (b : Block) (c : Cmd) (p : Spot) (n : Nat) : Bool :=
  match s.rangeAt b p n, s.rangeAt b (c.dst.spot 0) c.nominal with
  | some x, some y => x.1 == y.1 && x.2.1 == y.2.1 && decide (x.2.2 < y.2.2 + c.nominal) && decide (y.2.2 < x.2.2 + n)
  | _, _ => false

/-- Whether the source and destination ranges of a copy overlap, so that no byte it writes is promised (R147).
(DESIGN CHOICE, log entry 5.) -/
def State.overlaps (s : State) (b : Block) (c : Cmd) : Bool :=
  if c.kind = .cpyg then (List.range c.rows).any fun i => s.meetsDst b c (s.rowSpot b c i) c.len else s.meetsDst b c (c.src.spot 0) c.len

/-- What a copy writes of its stretches: what it has read, or values that nothing constrains, whose granules carry no tag (R13,
R18). (DESIGN CHOICE, log entry 5.) -/
def State.copied (s : State) (b : Block) (c : Cmd) (rs : List Ready) : List Ready :=
  if s.overlaps b c then
    rs.mapIdx fun k r =>
      { r with bs := (List.range r.bs.length).map fun i => Config.freeByte s.sched.fresh (128 * k + i), tags := none }
  else rs

/-- The next unit of a copy is served. -/
def State.copyUnit (s : State) (c : Cmd) (b : Block) : Out :=
  let die := dieOf c.core
  let n := min 128 (c.nominal - 128 * c.unit)
  match prepare die c b (c.rowOf (s.unitList c b)) (s.unitList c b) s with
  | (s1, .ready rs) =>
    let s2 := s1.tick.landAll (s1.copied b c rs)
    .next ((s2.unitDone c n (rs.any Ready.failed) (s2.sentSince s1)).servedCmd c)
  | (s1, .wait) => .next s1
  | (s1, .fault fs) => .next (s1.faultCmd c fs)
  | (_, .noMem a) => .fault (.noSuchAddress a)

/-! ### `rack` (R170 to R172) -/

/-- The pairs of bytes of a source unit: dropped ones are none; the flag says that one cannot be read or is poisoned. -/
def pairsOf (E : Nat) (bs : List Byte) (psn : List Bool) (bad : List Bool) : List (Option (Nat × Nat)) × Bool :=
  let one (i : Nat) : Option (Nat × Nat) × Bool :=
    let lost := ((bad.drop (8 * i)).take 8).any id || ((psn.drop (8 * i)).take 8).any id
    let e := natAt bs (8 * i + 4) 4
    (if lost || decide (e ≥ E) then none else some (natAt bs (8 * i) 4, e), lost)
  let rs := (List.range (bs.length / 8)).map one
  (rs.map Prod.fst, rs.any Prod.snd)

/-- Pairs of an expert, in order. -/
def tokensOf (ps : List (Option (Nat × Nat))) (e : Nat) : List Nat :=
  ps.filterMap fun p => match p with
    | some (t, x) => if x = e then some t else none
    | none => none

/-- OFFS and LIST as words (R171). -/
def rackWords (N E : Nat) (ps : List (Option (Nat × Nat))) : List Nat :=
  let lists := (List.range E).map fun e => tokensOf ps e
  let offs := lists.foldl (fun (l : List Nat × Nat) ts => (l.1 ++ [l.2 + ts.length], l.2 + ts.length)) ([0], 0)
  let list := lists.flatten
  offs.1 ++ list ++ List.replicate (N - list.length) 0xFFFFFFFF

/-- The additions to the activity counters (R171, R172). -/
def State.rackCount (s : State) (c : Cmd) : State :=
  (List.range c.experts).foldl (fun s e =>
    let n := (tokensOf c.pairs e).length
    if n = 0 then s else s.countExpert (c.cbase + e) n) s

/-- The next unit of a `rack` is served: of its source, then of its destination, then the additions and the credit. -/
def State.rackUnit (s : State) (c : Cmd) (b : Block) : Out :=
  let die := dieOf c.core
  let reads := unitsOf128 (8 * c.len)
  let next (s : State) (f : Cmd → Cmd) : State := s.updCmd c.id f
  if c.unit ≥ c.units then
    let s1 := if c.invalid then s else s.rackCount c
    .next (next (s1.creditCmd c c.nominal) fun c => { c with credited := true })
  else if c.unit < reads then
    let at0 := 128 * c.unit
    let n := min 128 (8 * c.len - at0)
    let list := (stretches { c with dst := .spad 0 0 } 16 at0 n).map fun q => (q.1, (.none : Spot), q.2.2)
    match prepare die c b (fun _ => none) list s with
    | (s1, .ready rs) =>
      let bad := rs.flatMap fun r => List.replicate r.bs.length r.unread
      let ps := pairsOf c.experts (rs.flatMap Ready.bs) (rs.flatMap Ready.psn) bad
      .next (next (s1.servedCmd c) fun c => { c with unit := c.unit + 1, failed := c.failed || ps.2, pairs := c.pairs ++ ps.1 })
    | (s1, .wait) => .next s1
    | (s1, .fault fs) => .next (s1.faultCmd c fs)
    | (_, .noMem a) => .fault (.noSuchAddress a)
  else
    let at0 := 128 * (c.unit - reads)
    let n := min 128 (c.nominal - at0)
    let bs := (rackWords c.len c.experts c.pairs).flatMap fun w => natToBytes 4 w
    let list := (stretches { c with src := .spad 0 0 } 16 at0 n).map fun q => (q.2.1, q.2.2)
    let go (acc : State × List (Nat × Target)) (q : Spot × Nat) : State × List (Nat × Target) :=
      let t := acc.1.targetSpot die c b q.1 q.2
      (t.1, acc.2 ++ [(q.2, t.2)])
    let r := list.foldl go (s, [])
    match r.2.findSome? fun t => match t.2 with
      | .noMem a => some a
      | _ => none with
    | some a => .fault (.noSuchAddress a)
    | none =>
      let fs := r.2.flatMap fun t => match t.2 with
        | .fault fs => fs
        | _ => []
      let waits := r.2.any fun t => match t.2 with
        | .wait => true
        | _ => false
      if fs ≠ [] then .next (r.1.faultCmd c fs)
      else if waits then .next r.1
      else
        let put (acc : State × List Byte × Bool) (t : Nat × Target) : State × List Byte × Bool :=
          match t.2 with
          | .ok ps => (acc.1.landBytes ps (acc.2.1.take t.1) (List.replicate t.1 false) none, acc.2.1.drop t.1, acc.2.2)
          | _ => (acc.1, acc.2.1.drop t.1, true)
        let w := r.2.foldl put (r.1, (bs.drop at0).take n, false)
        .next ((w.1.unitDone c 0 w.2.2 (w.1.sentSince r.1)).servedCmd c)

/-! ### The copy engine's turn (R145) -/

/-- Whether a head can be served: a copy or a rack with work left, not waiting for answers, acknowledgements or pages. -/
def Cmd.servable (c : Cmd) : Bool :=
  c.waits.isEmpty && c.acks.isEmpty && !c.credited && (match c.kind with
    | .ppass => false
    | .qfence => false
    | _ => true)

/-- Whether a place is scratch. -/
def Loc.isSpad : Loc → Bool
  | .spad _ _ => true
  | .object _ _ => false

/-- Whether a command reads or writes scratch, credits or notifies into it, or posts a pass (R173). -/
def Cmd.touchesScratch (c : Cmd) : Bool := match c.kind with
  | .qfence => false
  | .ppass => true
  | .cpym => true
  | .cpyg => true
  | _ => c.src.isSpad || c.dst.isSpad || c.lbar.isSome || c.notify.any Loc.isSpad

/-- Whether a command waits for its block to be resident again (R447). -/
def State.carried (s : State) (c : Cmd) : Bool := c.touchesScratch && (s.block? c.blk).any fun b => b.st != .resident

/-- The head of copy queue k (core and queue) of a quad, where it can be served. -/
def State.headOf (s : State) (quad k : Nat) : Option Cmd :=
  let core := 4 * quad + k / 4
  (s.engines.cmds.find? fun c => c.core == core && bitAt c.queue (k % 4)).bind fun c =>
    if c.servable && s.mayStart c && !(s.carried c) && (c.pages.all fun p => p.read.isNone) then some c else none

/-- The present event goes on about a command: what it asks of the host and of peers is asked for that command. -/
def State.about (s : State) (id : Nat) : State := { s with sched := { s.sched with args := { s.sched.args with id := id } } }

/-- COPY_UNIT: the copy engine of quad `id` serves one unit of the next head in turn (R145). -/
def execCopyUnit (s : State) : Out :=
  let quad := s.sched.args.id
  let last := lookupD 15 quad s.engines.rr
  match ((List.range 16).map fun i => (last + 1 + i) % 16).findSome? fun k => (s.headOf quad k).map fun c => (k, c) with
  | none => notNow "copyUnit: no head of the quad can be served"
  | some (k, c) =>
    let s1 := { s with engines := { s.engines with rr := setAt quad k s.engines.rr } }.about c.id
    match s1.cmdBlock c with
    | none => .next { s1 with engines := { s1.engines with cmds := s1.engines.cmds.filter fun d => d.id != c.id } }
    | some b =>
      if c.kind = .rack then s1.rackUnit c b
      else if c.units = 0 then .next ((s1.creditCmd c 0).updCmd c.id fun c => { c with credited := true })
      else s1.copyUnit c b

/-! ### Completion (R144, R155) -/

/-- A failed command counts in its block (R149), saturating. -/
def State.countFail (s : State) (uid : Nat) : State :=
  s.updBlock uid fun b => { b with failcmd := if b.failcmd < 2 ^ 32 - 1 then b.failcmd + 1 else b.failcmd }

/-- Blocks that have finished, whose launch has completed, and whose last command has too, are forgotten. -/
def State.sweep (s : State) : State :=
  { s with blocks := s.blocks.filter fun b =>
      b.st != .finished || (s.launch? b.launch).isSome || s.engines.cmds.any fun c => c.blk == b.uid }

/-- The command leaves its queues. (DESIGN CHOICE, log entry 101.) -/
def State.endCmd (s : State) (c : Cmd) (failed : Bool) : State :=
  let s1 := { s with engines := { s.engines with cmds := s.engines.cmds.filter fun d => d.id != c.id } }
  (if failed then s1.countFail c.blk else s1).sweep

/-- The notify of a command is written, or why it is not (R155). -/
def State.notifyCmd (s : State) (c : Cmd) (b : Block) : State × Target :=
  match c.notify with
  | none => (s, .ok [])
  | some (.spad _ a) => match s.scratchPiece b (a : Nat) 4 with
    | some p => (s, .ok [p])
    | none => (s, .bad)
  | some (.object cap o) => match translate s none (dieOf c.core) c.ctx cap.obj o 4 opStore with
    | (s1, .ok ps) => (s1, if ps.any (s1.lockedOut 0) then .wait else .ok ps)
    | (s1, .trap cause _) => if cause = cPoolLost then (s1, .ok []) else (s1, .bad)
    | (s1, .cellar _ _) => (s1, .bad)
    | (s1, .wait) => (s1, .wait)
    | (s1, .tfault fs) => if c.gaveUp fs then (s1, .bad) else (s1, .fault fs)
    | (s1, .noMem a) => (s1, .noMem a)

/-- The notify of a command has been written: the command ends, at once or when the peer that it was sent to acknowledges it. -/
def State.notifyDone (s : State) (c : Cmd) (sent : List Nat) : State :=
  if sent.isEmpty then s.endCmd c c.failed else s.updCmd c.id fun c => { c with acks := sent, notified := true }

/-- A peer has acknowledged a write of a command, or will not: after the last one of a unit its bytes are credited, and after the
notify the command ends. -/
def State.ackCmd (s : State) (id : Nat) : State :=
  (s.engines.cmds.filter fun c => c.acks.contains id).foldl (fun s c =>
    let left := c.acks.filter fun k => k != id
    if !left.isEmpty then s.updCmd c.id fun c => { c with acks := left }
    else if c.notified then s.endCmd c c.failed
    else
      let s1 := if c.owed = 0 then s else s.creditCmd c c.owed
      s1.updCmd c.id fun c => { c with acks := [], owed := 0, credited := c.credited || (c.owed != 0 && decide (c.unit ≥ c.units)) }) s

/-- COMMAND_COMPLETE: the copy, rack or `qfence` `id` completes: its notify is written last (R144, R146, R155, R168). -/
def execCommandComplete (s : State) : Out :=
  match s.cmd? s.sched.args.id with
  | none => notNow "commandComplete: no such command"
  | some c =>
    let ready := s.mayStart c && c.waits.isEmpty && c.acks.isEmpty && match c.kind with
      | .qfence => true
      | .ppass => false
      | .cpym => c.credited && c.posted
      | _ => c.credited
    if ready = false then notNow "commandComplete: the command is not done"
    else match s.cmdBlock c with
      | none => .next (s.endCmd c false)
      | some b => match s.notifyCmd c b with
        | (s1, .ok ps) =>
          let v := if c.failed then c.value ||| 0x80000000 else c.value
          let s2 := s1.writePieces none ps (natToBytes 4 v)
          .next ((s2.notifyDone c (s2.sentSince s1)).servedCmd c)
        | (s1, .bad) => .next ((s1.endCmd c true).servedCmd c)
        | (s1, .wait) => .next s1
        | (s1, .fault fs) => .next (s1.faultCmd c fs)
        | (_, .noMem a) => .fault (.noSuchAddress a)

end Sys2Proof.Machine
end

