-- ==== Sys2Proof/Machine/Press.lean ====
section
/-!
DEFINITION. The Press: passes join the list of a reservation, are granted by the ageing rule, compute exactly, report
their status and credit their barrier (R160 to R168, R267), and the residue check of a checked launch (R446, R447).
-/

namespace Sys2Proof.Machine

open Sys2Proof

/-! ### Joining a reservation (R161, R163, R376) -/

/-- One reservation changed. -/
def State.updResv (s : State) (r : Resv) (f : Resv → Resv) : State :=
  { s with engines := { s.engines with resv := s.engines.resv.map fun q => if q.quad = r.quad ∧ q.idx = r.idx then f q else q } }

/-- The descriptor of a pass is read (R164): its dwords and whether a word of it is poisoned; none where its address lies
outside every allocation (R167). -/
def State.readPass (s : State) (p : Pass) : Pass :=
  match (s.block? p.blk).bind fun b => s.scratchPiece b (p.addr : Nat) 64 with
  | none => p
  | some q =>
    let r := s.peek q
    { p with desc := some ((List.range 8).map fun i => natAt r.1 (8 * i) 8), descBad := r.2 }

/-- The pass of a command joins its block's reservation: none where the list is full. With no reservation, or after a
`prel` that was performed before the command entered its queue, it goes on to fail. -/
def State.postPass (s : State) (c : Cmd) : Option State :=
  let p : Pass := { id := c.id, blk := c.blk, tid := c.tid, core := c.core, addr := c.pdesc,
                    srcFail := c.kind == .cpym && c.failed, headAt := s.sched.now }
  let lost : State := { s with engines := { s.engines with granted := s.engines.granted ++ [s.readPass { p with nores := true }] } }
  match (s.block? c.blk).bind s.resvOf with
  | none => some lost
  | some r =>
    if r.marked.any fun m => m ≤ c.id then some lost
    else if r.passes.length ≥ 64 then none
    else some (s.updResv r fun q => { q with passes := q.passes ++ [p] })

/-- PASS_JOIN: the `ppass` at the head of the qp of core `id` joins a list (R163). -/
def execPassJoin (s : State) : Out :=
  match s.engines.cmds.find? fun c => c.core == s.sched.args.id && c.kind == .ppass && !c.posted with
  | none => notNow "passJoin: no pass waits in the queue"
  | some c =>
    if s.mayStart c = false then notNow "passJoin: the pass is not at the head of its queue"
    else match s.postPass c with
      | some t => .next (t.updCmd c.id fun c => { c with posted := true })
      | none => notNow "passJoin: the list of the reservation is full"

/-- CPYM_PASS_POST: the copy engine posts the pass of the `cpym` `id`, whose copy is credited (R168). -/
def execCpymPassPost (s : State) : Out :=
  match s.cmd? s.sched.args.id with
  | none => notNow "cpymPassPost: no such command"
  | some c =>
    if c.kind ≠ .cpym ∨ c.credited = false ∨ c.posted then notNow "cpymPassPost: the copy is not done"
    else match s.postPass c with
      | some t => .next (t.updCmd c.id fun c => { c with posted := true })
      | none => notNow "cpymPassPost: the list of the reservation is full"

/-! ### The grant (R162) -/

/-- The priority of a reservation with the ageing of its head pass. -/
def State.effOf (s : State) (r : Resv) : Nat := match r.passes with
  | p :: _ => min 7 (r.prio + (s.sched.now - p.headAt) / 1024)
  | [] => 0

/-- Whether the head of a reservation is granted before that of another. -/
def State.beats (s : State) (q r : Resv) : Bool :=
  let h (x : Resv) : Nat := match x.passes with
    | p :: _ => p.headAt
    | [] => 0
  decide (s.effOf q > s.effOf r) || (s.effOf q == s.effOf r
    && (decide (h q < h r) || (h q == h r && decide (q.idx < r.idx))))

/-- The reservation whose head is granted next, by a Press that has power. -/
def State.granting (s : State) (quad : Nat) : Option Resv :=
  (s.engines.resv.filter fun r => s.diePowered (dieOf (4 * quad)) && r.quad == quad && !r.passes.isEmpty).foldl (fun best r => match best with
    | none => some r
    | some q => if s.beats r q then some r else some q) none

/-- PRESS_GRANT: the Press of quad `id` grants a pass and reads its descriptor (R162, R164). -/
def execPressGrant (s : State) : Out :=
  if bitAt s.rel.fencedPress s.sched.args.id then notNow "pressGrant: the Press is fenced"
  else match s.granting s.sched.args.id with
    | none => notNow "pressGrant: no pass is pending"
    | some r => match r.passes with
      | [] => notNow "pressGrant: no pass is pending"
      | p :: ps =>
        let rest := match ps with
          | q :: qs => { q with headAt := s.sched.now } :: qs
          | [] => []
        let s1 := s.updResv r fun q => { q with passes := rest }
        .next { s1 with engines := { s1.engines with granted := s1.engines.granted ++ [s.readPass p] } }

/-! ### The descriptor (R164, R165, R167) -/

/-- A pass as its descriptor gives it. -/
structure PassDesc where
  aAddr : Nat
  aStride : Nat
  aFmt : Nat
  idxAddr : Nat
  icount : Nat
  idx : Bool
  asv : Bool
  aScale : Nat
  bAddr : Nat
  bFmt : Nat
  bsv : Bool
  bScale : Nat
  cAddr : Nat
  cFmt : Nat
  overwrite : Bool
  k : Nat
  lbar : Nat
  lbv : Bool

/-- The fields of a descriptor. (DEDUCED, log entry 46.) -/
def passDesc (d : List Nat) : PassDesc :=
  let f (i lo n : Nat) : Nat := bits (d.getD i 0) lo n
  { aAddr := f 0 0 21, aStride := f 0 32 16, aFmt := f 0 48 5, idxAddr := f 1 0 21, icount := f 1 21 7, idx := f 1 28 1 == 1,
    asv := f 1 29 1 == 1, aScale := f 1 32 21, bAddr := f 2 0 21, bFmt := f 2 21 5, bsv := f 2 26 1 == 1, bScale := f 2 32 21,
    cAddr := f 3 0 21, cFmt := f 3 21 5, overwrite := f 3 26 1 == 1, k := f 3 32 8, lbar := f 4 0 21, lbv := f 4 21 1 == 1 }

/-- Whether a reserved field is set. -/
def reservedPass (d : List Nat) : Bool :=
  let f (i lo n : Nat) : Bool := bits (d.getD i 0) lo n != 0
  f 0 21 11 || f 0 53 11 || f 1 30 2 || f 1 53 11 || f 2 27 5 || f 2 53 11 || f 3 27 5 || f 3 40 24 || f 4 22 42 || f 6 0 64
  || f 7 0 64

/-- Kmax, CFMT and the required scales of a format pair. -/
def pairOf (a b : Nat) : Option (Nat × Nat × Bool × Bool) :=
  if a = 0x0E ∧ b = 0x0E then some (32, 0x0C, false, false)
  else if a = 0x0D ∧ b = 0x0D then some (32, 0x0C, false, false)
  else if a = 0x09 ∧ b = 0x09 then some (32, 0x0C, true, true)
  else if a = 0x0E ∧ b = 0x0F then some (128, 0x0C, false, true)
  else if a = 0x0E ∧ b = 0x0A then some (128, 0x0C, false, true)
  else if a = 0x0C ∧ b = 0x0C then some (8, 0x0C, false, false)
  else if a = 0x0B ∧ b = 0x0B then some (2, 0x0B, false, false)
  else none

/-- Bits of an element of a format, and its exact value. -/
def pressBits (f : Nat) : Nat :=
  if f = 0x0A then 4
  else if f = 0x09 ∨ f = 0x0F then 8
  else if f = 0x0D ∨ f = 0x0E then 16
  else if f = 0x0B then 64 else 32

def exactInt (z : Int) : FV := .fin (z < 0) z.natAbs 0

/-- The value of a code of a format; PP8's terms are counted in sixty-fourths (R257, R258). (DEDUCED, log entry 45.) -/
def pressValue (f code : Nat) : FV :=
  if f = 0x0A then exactInt (mValue 4 code)
  else if f = 0x09 then exactInt (mValue 8 code)
  else if f = 0x0F then .fin (ppValue code < 0) (ppValue code).natAbs (-6)
  else if f = 0x0D then fmt16.value code
  else if f = 0x0E then fmtB16.value code
  else if f = 0x0B then fmt64.value code else fmt32.value code

/-- Bytes of an element of C. -/
def cBytes (f : Nat) : Nat := if f = 0x0B then 8 else 4

/-- The bytes that a pass counts toward its barrier (R150). (DEDUCED, log entry 46.) -/
def PassDesc.nominal (d : PassDesc) : Nat := d.icount * 64 * cBytes d.cFmt

/-- Whether a descriptor is valid (R167 STATUS 1): the scales that apply where it is. (DEDUCED, log entry 46.) -/
def validPass (ws : List Nat) : Option (Bool × Bool) :=
  let d := passDesc ws
  match pairOf d.aFmt d.bFmt with
  | none => none
  | some (kmax, cf, sa, sb) =>
    if reservedPass ws ∨ d.cFmt ≠ cf ∨ d.k = 0 ∨ d.k > kmax ∨ d.icount = 0 ∨ d.icount > 64 then none
    else if (sa ∧ d.asv = false) ∨ (sb ∧ d.bsv = false) then none
    else if d.aAddr % 16 ≠ 0 ∨ d.aStride % 16 ≠ 0 ∨ d.bAddr % 16 ≠ 0 ∨ d.cAddr % 16 ≠ 0 ∨ (d.idx ∧ d.idxAddr % 16 ≠ 0)
        ∨ (sa ∧ d.aScale % 4 ≠ 0) ∨ (sb ∧ d.bScale % 4 ≠ 0) ∨ (d.lbv ∧ d.lbar % 16 ≠ 0) then none
    else some (sa, sb)

/-! ### The sums (R166) -/

/-- Scratch bytes of a pass with the poison of each; none where they lie outside their block's allocation. -/
def State.passBytes (s : State) (b : Block) (a n : Nat) : Option (List Byte × List Bool) :=
  (s.scratchPiece b (a : Nat) n).map fun p => ((s.peek p).1, s.marks p)

/-- Element i of packed bytes: its value and whether its word is poisoned. -/
def pressElem (f : Nat) (r : List Byte × List Bool) (i : Nat) : FV × Bool :=
  let w := pressBits f
  let at0 := i * w / 8
  let n := (w + 7) / 8
  let code := if w = 4 then bits (natAt r.1 at0 1) (4 * (i % 2)) 4 else natAt r.1 at0 n
  (pressValue f code, ((r.2.drop at0).take n).any id)

/-- An FP32 scale of one. -/
def unitScale : FV × Bool := (.fin false 1 0, false)

/-- The A row of row i: its number, or nowhere where its index word is poisoned. (DEDUCED, log entry 47.) -/
def State.passRow (s : State) (b : Block) (d : PassDesc) (i : Nat) : Option (Option Nat) :=
  if d.idx = false then some (some i)
  else (s.passBytes b (d.idxAddr + 2 * i) 2).map fun r => if r.2.any id then none else some (bytesToNat r.1)

/-- The elements of an A row with the scale applied, and its poison; none outside the allocation. -/
def State.passA (s : State) (b : Block) (d : PassDesc) (sa : Bool) (row : Nat) : Option (List FV × Bool) :=
  match s.passBytes b (d.aAddr + row * d.aStride) (d.k * pressBits d.aFmt / 8),
        if sa then s.passBytes b (d.aScale + 4 * row) 4 else some ([], []) with
  | some r, some q =>
    let scale := if sa then pressElem 0x0C q 0 else unitScale
    let es := (List.range d.k).map fun i => pressElem d.aFmt r i
    some (es.map fun e => if sa then (e.1.mul scale.1).1 else e.1, scale.2 || es.any Prod.snd)
  | _, _ => none

/-- Columns of B with the scale applied, and the poison of each; none outside the allocation. -/
def State.passB (s : State) (b : Block) (d : PassDesc) (sb : Bool) : Option (List (List FV × Bool)) :=
  match s.passBytes b d.bAddr (d.k * 64 * pressBits d.bFmt / 8), if sb then s.passBytes b d.bScale 256 else some ([], []) with
  | some r, some q => some ((List.range 64).map fun j =>
      let scale := if sb then pressElem 0x0C q j else unitScale
      let es := (List.range d.k).map fun i => pressElem d.bFmt r (64 * i + j)
      (es.map fun e => if sb then (e.1.mul scale.1).1 else e.1, scale.2 || es.any Prod.snd))
  | _, _ => none

/-- One element of C: the sum of R166 rounded once. (DEDUCED, log entry 45.) -/
def pressSum (f : Fmt) (as bs : List FV) (c : Option FV) : Nat :=
  (sumRound f .rn (((as.zip bs).map fun p => (p.1.mul p.2).1) ++ c.toList)).1

/-- A row of C after the pass: its bytes with the poison of each. `a` is none for a row whose index is poisoned: its
values are free. (DEDUCED, log entry 47.) -/
def State.passC (s : State) (d : PassDesc) (i : Nat) (a : Option (List FV × Bool)) (cols : List (List FV × Bool))
    (old : List Byte × List Bool) : List Byte × List Bool :=
  let n := cBytes d.cFmt
  let f := if d.cFmt = 0x0B then fmt64 else fmt32
  let one (j : Nat) : List Byte × List Bool :=
    let c := pressElem d.cFmt old j
    match a, cols.drop j with
    | some (as, ap), (bs, bp) :: _ =>
      (natToBytes n (pressSum f as bs (if d.overwrite then none else some c.1)),
       List.replicate n (ap || bp || (!d.overwrite && c.2)))
    | _, _ => ((List.range n).map fun k => Config.freeByte s.sched.fresh (n * (64 * i + j) + k), List.replicate n true)
  let rs := (List.range 64).map one
  (rs.flatMap Prod.fst, rs.flatMap Prod.snd)

/-- Every row of C with its place; none where an operand or C lies outside its allocation (R167 STATUS 3). -/
def State.passRows (s : State) (b : Block) (d : PassDesc) (sa sb : Bool) : Option (List (Piece × List Byte × List Bool)) :=
  match s.passB b d sb with
  | none => none
  | some cols => (List.range d.icount).mapM fun i =>
      let n := 64 * cBytes d.cFmt
      match s.passRow b d i, s.scratchPiece b (d.cAddr + i * n : Nat) n with
      | some row, some p =>
        let old := ((s.peek p).1, s.marks p)
        match row with
        | none => some (p, s.passC d i none cols old)
        | some r => (s.passA b d sa r).map fun a => (p, s.passC d i (some a) cols old)
      | _, _ => none

/-! ### The end of a pass (R167, R168) -/

/-- The outcome of a granted pass: its STATUS and the rows it writes. Where several causes apply the first of 4, 2, 1, 3, 5 is
reported. (DESIGN CHOICE, log entry 99.) -/
def State.passOutcome (s : State) (b : Block) (p : Pass) (ws : List Nat) : Nat × List (Piece × List Byte × List Bool) :=
  if p.srcFail then (4, [])
  else if p.nores then (2, [])
  else if p.descBad then (1, [])
  else match validPass ws with
    | none => (1, [])
    | some (sa, sb) => match s.passRows b (passDesc ws) sa sb with
      | none => (3, [])
      | some rows => (if rows.any fun r => r.2.2.any id then 5 else 0, rows)

/-- A pass leaves the Press, and its `ppass` its queue. -/
def State.dropPass (s : State) (p : Pass) : State :=
  { s with engines := { s.engines with
      granted := s.engines.granted.filter fun q => q.id != p.id
      cmds := s.engines.cmds.filter fun c => !(c.id == p.id && c.kind == .ppass) } }

/-- A pass ends: C, then D5, then the credit, and the count of failed commands: a `cpym` whose copy failed has been counted, and its
pass of STATUS 4 counts too. (DESIGN CHOICE, log entry 101.) -/
def State.endPass (s : State) (p : Pass) (b : Block) : State :=
  match p.desc with
  | none => (s.dropPass p).countFail p.blk
  | some ws =>
    let d := passDesc ws
    let r := s.passOutcome b p ws
    let s1 := r.2.foldl (fun s w => s.landBytes [w.1] w.2.1 w.2.2 none) s.tick
    let s2 := match s1.scratchPiece b (p.addr + 40 : Nat) 8 with
      | some q => s1.writePiece none q (natToBytes 8 r.1)
      | none => s1
    let bar := if d.lbv then s2.scratchPiece b (d.lbar : Nat) 16 else none
    let s3 := match bar with
      | some q => match q.scratch with
        | some u => s2.creditAt u q.addr d.nominal none
        | none => s2
      | none => s2
    let s4 := if (1 ≤ r.1 ∧ r.1 ≤ 4) ∨ (d.lbv ∧ bar.isNone) then s3.countFail p.blk else s3
    s4.dropPass p

/-! ### The residue check (R446, R447) -/

/-- The quad of a Press is left: every granted pass that has a reservation goes back to the front of its list.
(DEDUCED, log entries 51 and 53.) -/
def State.recallPasses (s : State) (quad : Nat) : State :=
  let back := s.engines.granted.filter fun p => quadOf p.core == quad && !p.nores
  let own (r : Resv) : List Pass := back.filter fun p => (s.block? p.blk).any fun b => b.holder == r.owner
  { s with engines := { s.engines with
      granted := s.engines.granted.filter fun p => !(back.any fun q => q.id == p.id)
      resv := s.engines.resv.map fun r =>
        if r.quad = quad then { r with passes := (own r).map (fun p => { p with desc := none, descBad := false }) ++ r.passes } else r } }

/-- A tile of a pass disagrees with its residue: transient, the pass is computed again; lasting, the Press is fenced and
every block of the quad relocates. -/
def State.pressMismatch (s : State) (p : Pass) (b : Block) (tile : Nat) : State :=
  let quad := quadOf p.core
  let unit := 2 + quad * 2 ^ 3
  let r := s.countMismatch unit
  let syndrome := 4 + (if r.2 < 255 then r.2 else 255) * 2 ^ 4
  let kind := if r.2 < s.rel.sdclimit then 5 else 6
  let s1 := r.1.errorRecord kind 0 quad b.ctx 0 b.blk (synOf syndrome unit (tile % 64))
  if kind = 5 then s1
  else
    let tids := match s1.groupOf b.uid p.tid with
      | some g => g.tids
      | none => [p.tid]
    let s2 := ({ s1 with rel := { s1.rel with fencedPress := setBit s1.rel.fencedPress quad } }.updBlock b.uid fun k =>
      { k with sdc := some (tids, syndrome, unit, tile % 64) }).recallPasses quad
    s2.relocateBlocks (s2.blocks.filter fun k => quadOf k.core == quad && k.st == .resident)

/-- PASS_COMPLETE: the oldest granted pass of quad `id` ends; `alt` is a residue that disagrees in tile `sub`, for a pass
of a checked launch that computes. -/
def execPassComplete (s : State) : Out :=
  let a := s.sched.args
  if s.diePowered (dieOf (4 * a.id)) = false then notNow "passComplete: the Press has no power"
  else match s.engines.granted.find? fun p => quadOf p.core == a.id with
  | none => notNow "passComplete: no pass is granted"
  | some p => match s.block? p.blk with
    | none => .next (s.dropPass p)
    | some b =>
      if a.alt = false then .next (s.endPass p b)
      else
        let checked := (s.launch? b.launch).any Launch.checked
        let computes := match p.desc with
          | some ws => !p.srcFail && !p.nores && !p.descBad && (validPass ws).isSome
          | none => false
        if checked && computes then .next (s.pressMismatch p b a.sub)
        else notNow "passComplete: the pass forms no residues"

/-! ### Freeing a reservation (R161, R376) -/

/-- Whether a command of a holder posts a pass before a mark and has not done so yet. -/
def State.posting (s : State) (owner mark : Nat) : Bool :=
  s.engines.cmds.any fun c => (c.kind == .ppass || c.kind == .cpym) && !c.posted && decide (c.id < mark)
    && (s.block? c.blk).any fun b => b.holder == owner

/-- RESERVATION_FREE: the marked reservation `tid` of quad `id` is freed, its passes complete. -/
def execReservationFree (s : State) : Out :=
  let a := s.sched.args
  match s.engines.resv.find? fun r => r.quad == a.id && r.idx == a.tid with
  | none => notNow "reservationFree: no such reservation"
  | some r => match r.marked with
    | none => notNow "reservationFree: the reservation is not marked"
    | some m =>
      let running := s.engines.granted.any fun p => !p.nores && (s.block? p.blk).any fun b => b.holder == r.owner
      if !r.passes.isEmpty || running || s.posting r.owner m then notNow "reservationFree: a pass has not completed"
      else .next { s with engines := { s.engines with resv := s.engines.resv.filter fun q => !(q.quad == a.id && q.idx == a.tid) } }

end Sys2Proof.Machine
end

