-- ==== Sys2Proof/Machine/Regions.lean ====
section
/-!
DEFINITION. Region markers, ends of threads, traps and returns, barriers, status registers and the words of a group-mode
handler (R202, R204, R386 to R403, R408).
-/

namespace Sys2Proof.Machine

open Sys2Proof

/-- ILLEGAL with a sub-code and no field (R291). -/
def plainViol (sub : Nat) : Viol := ⟨sub, 0, 0⟩

/-- An operand value out of range at run time (R291). -/
def rangeViol (field : Nat) : Viol := ⟨0x0C, field, 0⟩

/-- Words that no handler may issue (R387). -/
def inHandler (x : Thread) : List Viol := if x.handler.isSome then [plainViol 0x0C] else []

/-- The bytes of pieces as they stand at their homes, and whether one is poisoned. -/
def State.peekAll (s : State) (ps : List Piece) : List Byte × Bool :=
  (ps.flatMap fun p => (s.peek p).1, ps.any fun p => (s.peek p).2)

/-- An access that the device itself makes for a thread, refused at a peer. (DEDUCED, log entry 27.) -/
def noPeer (obj : Nat) : LaneRes (List Piece) → LaneRes (List Piece)
  | .ok ps => if ps.any fun p => p.peer.isSome then .trap cPermission (auxDeny 2 0 obj) else .ok ps
  | r => r

/-! ### `rgn` (R202, R204, R388) -/

/-- The dwords of a list of bytes. -/
def dwordsOf (bs : List Byte) : List Nat := (List.range (bs.length / 8)).map fun i => natAt bs (8 * i) 8

/-- Descriptor k of a block's launch: its eight dwords (R202), read where they stand, at any alignment, and whether or not their
sectors hold poison. (DEDUCED, log entry 27; DESIGN CHOICE, log entry 117.) -/
def State.readDesc (s : State) (b : Block) (k : Nat) : State × LaneRes (List Nat) :=
  match s.launchOf b with
  | none => (s, .trap cCapability (auxCap (1, 0)))
  | some l =>
    let r := s.access b l.rdt (l.rdt.cursor + 64 * k : Nat) 64 1 opLoad
    match noPeer l.rdt.obj r.2 with
    | .ok ps => (r.1, .ok (dwordsOf (r.1.peekAll ps).1))
    | .trap c a => (r.1, .trap c a)
    | .poison => (r.1, .poison)
    | .wait => (r.1, .wait)
    | .tfault fs => (r.1, .tfault fs)
    | .noMem a => (r.1, .noMem a)

/-- The named scratch ranges of a descriptor: offset and length in units of 64 bytes (R204). -/
def namedRanges (d : List Nat) : List (Nat × Nat) :=
  let w := d.getD 6 0
  ([(bits w 0 16, bits w 16 16), (bits w 32 16, bits w 48 16)]).filter fun r => r.2 ≠ 0

/-- The sub-code of REGION that a descriptor raises (R202, R208). (DEDUCED, log entry 49.) -/
def badDesc (b : Block) (d : List Nat) : Option Nat :=
  if d.getD 7 0 / 4 ≠ 0 then some 2
  else if (namedRanges d).any fun r => decide ((r.1 + r.2) * 64 > b.scrSize) then some 3
  else none

/-- The checks of `rgn k` for one thread. -/
def rgnLane (k : Nat) : LaneFn := fun s b _ x =>
  if x.handler.isSome then (s, .trap cIllegal (plainViol 0x0E).aux)
  else
    let r := s.readDesc b k
    (r.1, match r.2 with
      | .ok d => match badDesc b d with
        | some sub => .trap cRegion (auxRegion sub 0 0 k)
        | none => .ok { kept := { nums := d } }
      | .trap c a => .trap c a
      | .poison => .poison
      | .wait => .wait
      | .tfault fs => .tfault fs
      | .noMem a => .noMem a)

/-- A thread at the start of region k (R202). -/
def Thread.enterRegion (x : Thread) (k : Nat) (d : List Nat) : Thread :=
  { x with
    rdi := some k, desc := d, pc := x.pc + 8, rgnpc := x.pc + 8, inst := (x.inst + 1) % 2 ^ 32, dirtyV := [], dirtyP := [],
    dirtyC := [], count := 0, perf := false, pinned := pinOnly d, fpsnap := x.fpflags, mssnap := x.mstat, pass := false,
    bound := false }

/-- `rgn` (R202, R388): a thread of a block that `cancel` ends goes no further (R187), and a block does not migrate into a
NOMIGRATE instance (R204). -/
def execRgn (w : Imm) (s : State) : Out :=
  match s.current with
  | none => .refused .noGroup
  | some (g, b) =>
    let xs := g.issuers b
    if xs.any fun x => s.outstanding b.uid x.tid then .next (s.stall g.gid)
    else
      s.compared g b xs 1
        (let r := runLanes [] (rgnLane w.imm) b xs xs s
         r.1.combine false g b xs r.2 fun s xs oks =>
          let tids := oks.map fun o => o.1.tid
          let s1 := ((s.retire b tids).commitAll b tids).commitTrace b tids 0 g.pc
          let s2 := oks.foldl (fun s o => s.updThread b.uid o.1.tid fun x => x.enterRegion w.imm o.2.kept.nums) s1
          let s3 := (xs.filter fun x => !(tids.contains x.tid)).foldl (fun s x =>
            s.updThread b.uid x.tid fun y => { y with pc := x.pc + 8 }) s2
          let s4 := if b.save = some .cancel then tids.foldl (fun s t => s.cutShort b.uid t) s3 else s3
          let s5 := if oks.any fun o => noMigrate o.2.kept.nums then s4.stay b.uid else s4
          .next (((s5.regroup g.gid).drawAll g.core g.part).settleSave b.uid))

/-! ### `exit` (R390) -/

/-- The barriers of a block that an exit may complete (R396). -/
def State.barriersAt (s : State) (uid : Nat) : State :=
  let at1 (b : Block) (x : Thread) : Bool := s.rgnAt b x.space (x.pc + 8)
  (s.barrier uid false at1).barrier uid true at1

/-- A thread becomes EXITED: it leaves its group, and blocks of the emergency allotment return to it (R230, R390). -/
def State.endThread (s : State) (uid tid : Nat) : State :=
  (s.leave uid tid).updThread uid tid fun x =>
    { x with st := .exited, handler := none, halted := false, watch := none, h := x.h - x.emerg, emerg := 0, waitOn := none }

/-- `exit` of one thread: in a handler its frame's slot returns, and with it the frozen threads of its group exit. -/
def State.exitThread (s : State) (g : Group) (b : Block) (x : Thread) : State :=
  let s1 := match x.handler, s.ctx? b.ctx with
    | some slot, some c => s.pushSlot c slot
    | _, _ => s
  (if g.runner = some x.tid then g.tids else [x.tid]).foldl (fun s t => s.endThread b.uid t) s1

/-- `exit` (R390). -/
def execExit (w : Imm) (s : State) : Out :=
  commitWord [{ guard := w.guard }] drainNone (fun s _ _ _ => (s, .ok {}))
    (performThen fun s g b oks => (oks.foldl (fun s o => s.exitThread g b o.1) s).barriersAt b.uid) s

/-! ### Traps and assertions (R391 to R393) -/

/-- Whether PASS makes a `trap` or `brk` act as `nop`: the thread issues it at %trappc (R246). -/
def Thread.passes (x : Thread) : Bool := x.pass && x.trappc == pc48 x.pc

/-- A word that traps, or acts as `nop` where PASS says so. -/
def trapWord (guard : Guard) (cause aux : Nat) (s : State) : Out :=
  laneWord [{ guard := guard }] false 1
    (fun s _ _ x => (s, if x.passes then .ok { passed := true } else .trap cause aux)) s

/-- `trap` (R391). -/
def execTrap (w : Imm) (s : State) : Out := trapWord w.guard cUser w.imm s

/-- Whether a word that names no register completes for a group now: no thread of it waits for an atomic or an acquire, and
no glitch meets it. -/
def State.clear (s : State) (b : Block) (act : List Thread) : Bool :=
  !(act.any fun x => s.awaiting b.uid x.tid) && (s.glitchOf b act 1).isNone

/-- `brk` (R392): taken by the debug unit where one is attached to the context, by the handler otherwise. -/
def execBrk (w : Plain) (s : State) : Out :=
  match s.current with
  | none => .refused .noGroup
  | some (g, b) =>
    let act := (g.issuers b).filter fun x => x.active w.guard
    if s.attached b.ctx && !act.isEmpty then
      match laneWord [{ guard := w.guard }] false 1 (fun s _ _ _ => (s, .ok {})) s with
      | .next s' => .next (if s.clear b act then s'.haltBlock b.uid 2 (lowestLane (act.map Thread.tid)) (0, 0) else s')
      | o => o
    else trapWord w.guard cBreak 0 s

/-- `assert` (R393): a failing thread stops the context. -/
def execAssert (w : Imm) (s : State) : Out :=
  match s.current with
  | none => .refused .noGroup
  | some (g, b) =>
    let act := (g.issuers b).filter fun x => x.active w.guard
    let fails := if s.clear b act then act.filter fun x => !(x.pred w.d) else []
    match fails with
    | [] => laneWord [{ guard := w.guard }] false 1 (fun s _ _ _ => (s, .ok {})) s
    | y :: ys =>
      let tid := leastOf 0 ((y :: ys).map Thread.tid)
      .next (s.stopContext b.ctx { cause := cAssert, nested := y.handler.isSome, core := b.core, tid := tid, pc := pc48 g.pc,
                                   blk := b.blk, msg := w.imm })

/-- Threads return from their handlers one after another (R245): none where a frame cannot be read. -/
def State.returnAll (s : State) (gid uid : Nat) (tids : List Nat) : Option State :=
  tids.foldl (fun acc t => acc.bind fun s => s.returnTrap gid uid t) (some s)

/-- The trace record of an `rte`: every thread that returns takes it, to the PC of the lowest lane's (R452).
(DEDUCED, log entry 30.) -/
def State.returnTrace (s : State) (b : Block) (pc : Int) (tids : List Nat) : State :=
  let t := lowestLane tids
  if tids.isEmpty then s
  else s.trace b t 0x10 5 (pc48 pc) (pc48 (((s.thread? b.uid t).map Thread.pc).getD 0)) (laneMask tids) none

/-- `rte` (R394, R245): a handler thread waits for its stores, and in group mode for every committed entry of its group (R126),
and returns; a guarded-off one stays in its handler. -/
def execRte (w : Imm) (s : State) : Out :=
  match s.current with
  | none => .refused .noGroup
  | some (g, b) =>
    let xs := g.issuers b
    let act := xs.filter fun x => x.active w.guard
    let lane : LaneFn := fun s b _ x =>
      if x.handler.isNone then (s, .trap cIllegal (plainViol 0x0D).aux)
      else if s.outstanding b.uid x.tid || s.pendingOf b.uid x.tid || (g.runner.isSome && g.tids.any (s.pendingOf b.uid)) then
        (s, .wait)
      else (s, .ok {})
    s.compared g b act 1
      (let r := runLanes [] lane b act act s
       r.1.combine false g b xs r.2 fun s xs oks =>
        let tids := oks.map fun o => o.1.tid
        let s1 := (s.stepPcs b (xs.filter fun x => !(tids.contains x.tid)) []).retire b tids
        match s1.returnAll g.gid b.uid tids with
        | some s2 => .next ((((s2.returnTrace b g.pc tids).regroup g.gid).drawAll g.core g.part).settleSave b.uid)
        | none => .next (s.stall g.gid))

/-! ### Barriers (R396, R397) -/

/-- A thread arrives at a barrier: it sleeps with its PC at the barrier word. One with no `rgn` after it is pinned with an
effect performed (R207, R397). (DEDUCED, log entry 21.) -/
def State.arriveAt (s : State) (uid tid : Nat) (st : TState) (rgnNext : Bool) : State :=
  (s.sleep uid tid st).updThread uid tid fun x =>
    { x with mid := false, kept := {}, rgnNext := rgnNext, pinned := x.pinned || !rgnNext, perf := x.perf || !rgnNext }

/-- A barrier word: every thread of the group arrives, and the last arrival completes the phase.
(DEDUCED, log entry 21.) -/
def barrierWord (gang : Bool) (s : State) : Out :=
  let alone (b : Block) : List Viol := if gang && b.gangSize ≤ 1 then [plainViol 0x0C] else []
  let values (x : Thread) : List Viol := inHandler x ++ match s.current with
    | some (_, b) => alone b
    | none => []
  commitWord [{ values := values }] drainAll (fun s _ _ _ => (s, .ok {}))
    (fun s g b oks =>
      let next := s.rgnAt b g.space (g.pc + 8)
      let s1 := oks.foldl (fun s o => s.arriveAt b.uid o.1.tid (if gang then .atGbar else .atBar) next) s
      let at1 (k : Block) (x : Thread) : Bool := s.rgnAt k x.space (x.pc + 8)
      (((s1.barrier b.uid gang at1).drawAll g.core g.part).settleSave b.uid, false)) s

/-- `bar` (R396). -/
def execBar (_ : Plain) (s : State) : Out := barrierWord false s

/-- `gbar` (R396). -/
def execGbar (_ : Plain) (s : State) : Out := barrierWord true s

/-! ### Status registers (R185, R398 to R403) -/

/-- %config (R403). -/
def Presence.config (p : Presence) : Nat :=
  p.dies + p.hbms * 2 ^ 8 + p.links * 2 ^ 16 + p.ports * 2 ^ 28 + popcount 256 p.quads * 2 ^ 32
  + popcount 1024 p.cores * 2 ^ 41 + popcount 64 p.channels * 2 ^ 52

/-- %rgnentry (R200). -/
def Thread.rgnentry (x : Thread) (reloc : Bool) : Nat := x.count + bit x.pinned * 2 ^ 8 + bit x.perf * 2 ^ 9 + bit reloc * 2 ^ 10

/-- The identity registers (R185), numbers 0x00 to 0x0F. -/
def identity (l : Launch) (b : Block) (x : Thread) (n : Nat) : Nat :=
  match n with
  | 0x00 => x.tid
  | 0x01 => l.nthreads
  | 0x02 => b.blk
  | 0x03 => l.nblk
  | 0x04 => if b.gangSize ≤ 1 then 0 else b.gangRank + (b.gangSize - 1) * 4
  | 0x05 => laneOf x.tid
  | 0x06 => partOf x.tid
  | 0x07 => b.core
  | 0x08 => quadOf b.core
  | 0x09 => dieOf b.core
  | 0x0A => b.page
  | 0x0B => b.pgno
  | 0x0C => b.pgstat
  | 0x0D => b.pgretry
  | 0x0E => b.arrank
  | _ => 0

/-- A status register other than %cycle (R399, R300). -/
def State.statusReg (s : State) (b : Block) (x : Thread) (n : Nat) : Nat :=
  match n with
  | 0x11 => x.rgnentry b.reloc
  | 0x12 => bit x.sf
  | 0x13 => x.mstat.toNat
  | 0x14 => x.fpflags.toNat
  | 0x15 => b.bphase + b.gphase * 2 ^ 32
  | 0x16 => x.cause
  | 0x17 => x.trappc
  | 0x18 => x.aux
  | 0x19 => pc48 x.rgnpc
  | 0x1A => x.syndrome
  | 0x1B => x.unit
  | 0x1C => x.tilexy
  | 0x1D => s.presence.config
  | n => match s.launchOf b with
    | some l => identity l b x n
    | none => 0

/-- `getsr` (R398). (DESIGN CHOICE, log entry 4.) -/
def execGetsr (w : Plain) (s : State) : Out :=
  laneWord [w.form 0xE6 []] false 1
    (fun s b _ x =>
      (s, .ok (Eff.vec w.d .u64 (if w.opx = 0x10 then s.cycle b.core else BitVec.ofNat 64 (s.statusReg b x w.opx))))) s

/-- `setsr` (R398): the registers that have writable bits judge the value. -/
def execSetsr (w : Plain) (s : State) : Out :=
  laneWord [{ w.form 0xE7 [srcWord 0 w.a] with dV := [] }] false 1
    (fun s _ _ x => (s, .ok { set := some (w.opx, (x.vreg w.a).val) })) s

/-! ### Other threads of a frozen group (R408) -/

/-- The thread of the issuing group on a home lane. -/
def State.frozenOn (s : State) (lane : Nat) : Option Thread :=
  s.current.bind fun gb => (gb.2.members gb.1.tids).find? fun y => laneOf y.tid == lane

/-- What refuses `xget` and `xput`: no handler of a group-mode trap, a lane outside GMASK, a vector register beyond the
other thread's allocation. -/
def reachViols (s : State) (w : Plain) (x : Thread) : List Viol :=
  match s.current with
  | none => []
  | some (g, _) =>
    let lane := (x.vreg w.b).val.toNat
    if g.runner ≠ some x.tid then [plainViol 0x0C]
    else if lane ≥ 32 ∨ bitAt g.gmask lane = false then [rangeViol 3]
    else match s.frozenOn lane with
      | some y => if w.opx = 0 ∧ w.a ≥ y.nregs then [⟨6, 2, w.a⟩] else []
      | none => [rangeViol 3]

/-- What `xget` reads in another thread (R408). -/
def getOther (w : Plain) (y : Thread) : Eff :=
  match w.opx with
  | 0 => { v := [(w.d, y.vreg w.a)] }
  | 1 => Eff.vec w.d .u64 (BitVec.ofNat 64 (bit (y.pred w.a)))
  | 2 => { c := [(w.d, y.creg w.a)] }
  | _ => Eff.vec w.d .u64 (BitVec.ofNat 64 (match w.a with
      | 0 => y.cause
      | 1 => y.trappc
      | 2 => pc48 y.rgnpc
      | _ => y.aux))

/-- Whether an outstanding load will write the register of another thread that `xget` or `xput` names, or the register of the
thread itself that it reads or writes: the word waits for it. -/
def State.dueOther (s : State) (uid : Nat) (w : Plain) (x y : Thread) (own : Nat) : Bool :=
  s.reqs.any fun r => r.blk == uid && match w.opx with
    | 0 => r.tid == y.tid && r.kind.dests.1.contains w.a
    | 2 => (r.tid == y.tid && r.kind.dests.2.contains w.a) || (r.tid == x.tid && r.kind.dests.2.contains own)
    | _ => false

/-- `xget` (R408). -/
def execXget (w : Plain) (s : State) : Out :=
  laneWord [{ guard := w.guard, regs := (w.view 0xEE).regs, srcs := [srcWord 1 w.b], values := reachViols s w }] false 1
    (fun s b _ x => (s, match s.frozenOn (x.vreg w.b).val.toNat with
      | some y => if s.dueOther b.uid w x y w.d then .wait else .ok (getOther w y)
      | none => .ok {})) s

/-- What `xput` writes in another thread (R408); `own` says that it is the handler's own lane, whose PC stays.
(DEDUCED, log entry 25.) -/
def putOther (w : Plain) (x y : Thread) (pmask : Nat) : Act :=
  let pinned := bitAt pmask (laneOf y.tid)
  let own := y.tid == x.tid
  match w.opx with
  | 0 => .give y.tid [(w.a, x.vreg w.c)] [] []
  | 1 => .give y.tid [] [(w.a, bitAt (x.vreg w.c).val.toNat 0)] []
  | 2 => .give y.tid [] [] [(w.a, x.creg w.c)]
  | _ =>
    let pc := bits (x.vreg w.c).val.toNat 0 48
    if w.a = 1 then .resume y.tid false (pinned && !own) pc else .resume y.tid true (!pinned && !own) pc

/-- `xput` (R408): the values move with their poison, so v[c] is no source that consumes it. -/
def execXput (w : Plain) (s : State) : Out :=
  laneWord [{ guard := w.guard, regs := (w.view 0xEF).regs, srcs := [srcWord 1 w.b], values := reachViols s w,
              moved := if w.opx = 1 ∨ w.opx = 3 then [srcWord 2 w.c] else [] }] false 1
    (fun s b _ x => (s, match s.current, s.frozenOn (x.vreg w.b).val.toNat with
      | some (g, _), some y => if s.dueOther b.uid w x y w.c then .wait else .ok { acts := [putOther w x y g.pmask] }
      | _, _ => .ok {})) s

end Sys2Proof.Machine
end

