-- ==== Sys2Proof/Machine/Waits.lean ====
section
/-!
DEFINITION. Register blocks at run time, launching, waiting, yielding, cancelling, and popping a feed (R187, R190 to R192,
R229, R230, R232 to R236, R395, R404 to R407).
-/

namespace Sys2Proof.Machine

open Sys2Proof

/-- The value of a register as a number. -/
def numOf (x : Thread) (r : Nat) : Nat := (x.vreg r).val.toNat

/-! ### Register blocks (R229, R230, R395) -/

/-- Whether a block holds resources of a core: it is there and has not given them up, or migrates to it (R225, R227, R390).
(DEDUCED, log entry 91.) -/
def Block.occupies (b : Block) (core : Nat) : Bool :=
  (b.core == core && (b.st == .resident || b.st == .clearing) && !b.vacated) || (match b.save with
    | some (.migrate c _) => c == core
    | _ => false)

/-- The threads that hold register blocks on a lane of a partition. -/
def State.holders (s : State) (core part lane : Nat) : List Thread :=
  (s.blocks.filter fun b => b.occupies core).flatMap fun b =>
    (b.threads.filter fun x => partOf x.tid == part && laneOf x.tid == lane).map fun x =>
      if b.core = core then x else { x with emerg := 0 }

/-- Whether the register reserve of a context is enabled. -/
def State.reserved (s : State) (ctx : Nat) : Bool := match s.ctx? ctx with
  | some c => !c.noresv
  | none => true

/-- Register blocks that a lane has free: 32, less those held, those of the allotment among them, less the reserve of 10 (R225,
R229, R230). (DESIGN CHOICE, log entry 116.) -/
def State.freeBlocks (s : State) (ctx core part lane : Nat) : Nat :=
  32 - (s.holders core part lane).foldl (fun n x => n + x.h) 0 - (if s.reserved ctx then 10 else 0)

/-- Whether a partition's emergency allotment is free. -/
def State.allotmentFree (s : State) (core part : Nat) : Bool :=
  (s.blocks.filter fun b => b.occupies core && b.core == core).all fun b => b.threads.all fun x => partOf x.tid != part || x.emerg == 0

/-- Whether a claim still stands: its block is resident and one of its threads has not exited.
(DESIGN CHOICE, log entry 24.) -/
def State.claimStands (s : State) (c : Claim) : Bool := match s.block? c.blk with
  | some b => b.st == .resident && (b.members c.tids).any fun x => x.st != .exited
  | none => false

/-- Whether a claim is a group's. -/
def Claim.isOf (c : Claim) (g : Group) : Bool := c.blk == g.blk && g.tids.any fun t => c.tids.contains t

/-- Whether one claim is older than another (R222). -/
def State.claimOlder (s : State) (c d : Claim) : Bool := match s.block? c.blk, s.block? d.blk with
  | some b, some k =>
    b.ageSeq < k.ageSeq || (b.ageSeq == k.ageSeq && (b.ageKey < k.ageKey || (b.ageKey == k.ageKey && c.formed < d.formed)))
  | _, _ => false

/-- The claims of a partition that stand. (DESIGN CHOICE, log entry 24.) -/
def State.claims (s : State) (core part : Nat) : List Claim :=
  (((s.parts.find? fun p => p.core == core && p.part == part).map Part.claimants).getD []).filter s.claimStands

/-- The oldest of some claims; of equally old ones the first made. (DESIGN CHOICE, log entry 24.) -/
def State.oldestClaim (s : State) : List Claim → Option Claim
  | [] => none
  | c :: cs => match s.oldestClaim cs with
    | none => some c
    | some d => some (if s.claimOlder d c then d else c)

/-- The claims of a partition changed. -/
def State.setClaims (s : State) (core part : Nat) (cs : List Claim) : State :=
  let p := (s.parts.find? fun p => p.core == core && p.part == part).getD { core := core, part := part }
  { s with parts := { p with claimants := cs } :: s.parts.filter fun q => !(q.core == core && q.part == part) }

/-- The claims of a block end with its save or its own end (R230). (DESIGN CHOICE, log entry 24.) -/
def State.dropClaims (s : State) (uid : Nat) : State :=
  { s with parts := s.parts.map fun p => { p with claimants := p.claimants.filter fun c => c.blk != uid } }

/-- A thread gains n blocks, in the state of R59. -/
def Thread.grow (x : Thread) (n : Nat) (emergency : Bool) : Thread :=
  { x with h := x.h + n, emerg := x.emerg + (if emergency then n else 0), v := x.v ++ List.replicate (32 * n) {} }

/-- A thread gives up its top n blocks, those of the allotment first. -/
def Thread.shrink (x : Thread) (n : Nat) : Thread :=
  { x with h := x.h - n, emerg := x.emerg - n, v := x.v.take (32 * (x.h - n)), dirtyV := x.dirtyV.filter fun i => i < 32 * (x.h - n) }

/-- What `rbacq` answers: from the general pool (some false), from the allotment (some true), not at all, and whether the
group becomes a claimant. (DESIGN CHOICE, log entry 24.) -/
def State.rbAnswer (s : State) (g : Group) (b : Block) (xs : List Thread) (n : Nat) : Option Bool × Bool :=
  if xs.any fun x => x.h + n > 10 then (none, false)
  else if xs.all fun x => n ≤ s.freeBlocks b.ctx b.core g.part (laneOf x.tid) then (some false, false)
  else
    let cs := s.claims b.core g.part
    let first := (s.oldestClaim cs).any fun c => c.isOf g
    let room (x : Thread) : Bool := n + (s.holders b.core g.part (laneOf x.tid)).foldl (fun n y => n + y.h) 0 ≤ 32
    if s.reserved b.ctx && first && s.allotmentFree b.core g.part && xs.all room then (some true, false) else (none, true)

/-- `rbacq` is performed for all active threads together. -/
def State.rbacq (s : State) (g : Group) (b : Block) (xs : List Thread) (d n : Nat) : State :=
  let r := s.rbAnswer g b xs n
  let cs := s.claims b.core g.part
  let s1 := match r with
    | (some _, _) => s.setClaims b.core g.part (cs.filter fun c => !(c.isOf g))
    | (none, true) =>
      if cs.any fun c => c.isOf g then s
      else s.setClaims b.core g.part (cs ++ [{ blk := g.blk, tids := g.tids, formed := g.formed }])
    | (none, false) => s
  xs.foldl (fun s x => s.updThread b.uid x.tid fun y => match r.1 with
    | some e => (y.grow n e).setP d true
    | none => y.setP d false) s1

/-- `rbacq` (R229, R395). -/
def execRbacq (w : Plain) (s : State) : Out :=
  commitWord [{ guard := w.guard }] drainNone (fun s _ _ _ => (s, .ok {}))
    (performThen fun s g b oks => s.rbacq g b (oks.map Prod.fst) w.d w.opx) s

/-- What refuses `rbrel`: no block would stay with one of the group's active threads, and none of them releases then (R229). -/
def releaseViols (s : State) (w : Plain) (_ : Thread) : List Viol := match s.current with
  | some (g, b) => if (g.issuers b).any fun y => y.active w.guard && decide (w.opx ≥ y.h) then [rangeViol 10] else []
  | none => []

/-- `rbrel` (R229, R395). -/
def execRbrel (w : Plain) (s : State) : Out :=
  commitWord [{ guard := w.guard, values := releaseViols s w }] drainNone
    (fun s _ _ _ => (s, .ok {}))
    (performThen fun s _ b oks => oks.foldl (fun s o => s.updThread b.uid o.1.tid fun y => y.shrink w.opx) s) s

/-! ### `launch` (R232, R404) -/

/-- The record a thread's capability names, read with its own buffered stores and with tags (R404, R81, R24). -/
def State.readRecord (s : State) (b : Block) (x : Thread) (c : CapReg) (ps : List Piece) : Entry :=
  let mine := s.items.filter fun i => i.blk == b.uid && i.tid == x.tid
  let bs := overlay (s.peekAll ps).1 (s.forwarded b.uid x.tid ps)
  { dwords := dwordsOf bs,
    tags := (List.range 16).map fun i => match slice ps (16 * i) 16 with
      | p :: _ => bitAt c.rights 3 && (forwardTag mine p).getD (s.mem.tagAt p.addr)
      | [] => false }

/-- The checks of `launch` before the commit: what the leader keeps is the slot, the record and its tags. A record in an object
of kind HOST or POOL is read as one in HBM. (DEDUCED, log entry 27; DESIGN CHOICE, log entry 103.) -/
def launchLane (w : Plain) : LaneFn := fun s b act x =>
  if isLeader act x = false then (s, .ok {})
  else
    let c := x.creg w.a
    let r := s.access b c (c.cursor : Nat) 256 16 opLoad
    let slot := numOf x w.b
    match noPeer c.obj r.2 with
    | .ok ps =>
      let e := r.1.readRecord b x c ps
      let l : Launch := { id := 0, ctx := b.ctx, slot := slot, prio := 0, record := e.dwords, tags := e.tags }
      match r.1.refusal l, r.1.badRing b.ctx slot with
      | some (1, at1, _), _ => (r.1, .trap cIllegal at1)
      | some (_, sub, right), _ => (r.1, .trap cCapability (auxCap (sub, right)))
      | none, some a => (r.1, .noMem a)
      | none, none => (r.1, .ok { kept := { nums := slot :: e.dwords ++ e.tags.map bit } })
    | q => (r.1, q.map fun _ => {})

/-- `launch` (R404): the ring entry is written once, and every active thread is told. -/
def execLaunch (w : Plain) (s : State) : Out :=
  commitWord [{ guard := w.guard, regs := (w.view 0xE8).regs, srcs := [srcWord 1 w.b], caps := [w.a], leader := true,
                values := fun x => if numOf x w.b ≥ 64 then [rangeViol 3] else [] }] drainAll (launchLane w)
    (performThen fun s _ b oks =>
      let r : State × Bool := match oks.find? fun o => !(o.2.kept.nums.isEmpty) with
        | some o =>
          let k := o.2.kept.nums
          s.queueLaunch b.ctx (k.headD 0) { dwords := (k.drop 1).take 32, tags := (k.drop 33).map fun t => t == 1 }
        | none => (s, false)
      oks.foldl (fun s o => s.updThread b.uid o.1.tid fun y => y.setP w.d r.2) r.1) s

/-! ### Waiting and yielding (R233, R234, R405) -/

/-- What refuses a counter's handle: an upper bit, a handle beyond its table, or one not granted to the context. -/
def handleViols (s : State) (w : Plain) (x : Thread) : List Viol :=
  let ctx := match s.current with
    | some (_, b) => b.ctx
    | none => 0
  if numOf x w.a ≥ 2 ^ 12 ∨ s.granted ctx (w.opx % 4) (numOf x w.a) = false then [rangeViol 2] else []

/-- A save of a block and its gang is asked for by a member's word: the other members' threads are held at once, the
member's own when its word is done. (DEDUCED, log entry 52.) -/
def State.askYield (s : State) (b : Block) (why : SaveFor) : State :=
  (s.gangOf b).foldl (fun s k => if k.uid = b.uid then s.askSave k.uid why else s.beginSave k.uid why) s

/-- `waitc` (R233, R405): conditions that are not met are recorded, and the block yields on them. -/
def execWaitc (w : Plain) (s : State) : Out :=
  commitWord [{ guard := w.guard, regs := (w.view 0xE9).regs, srcs := [srcWord 0 w.a, srcWord 1 w.b],
                values := fun x => inHandler x ++ handleViols s w x
                  ++ if numOf x w.b ≥ 2 ^ 32 then [rangeViol 3] else [] }] drainNone
    (fun s _ _ _ => (s, .ok {}))
    (performThen fun s _ b oks =>
      let cond (x : Thread) : WaitCond := { level := w.opx % 4, handle := numOf x w.a, target := numOf x w.b }
      let unmet := (oks.map Prod.fst).filter fun x => !(s.met (cond x))
      if unmet.isEmpty then s
      else (unmet.foldl (fun s x => s.updThread b.uid x.tid fun y => { y with waitOn := some (cond x) }) s).askYield b .waitc) s

/-- `yield` (R234, R405). -/
def execYield (w : Plain) (s : State) : Out :=
  commitWord [{ guard := w.guard, values := inHandler }] drainNone (fun s _ _ _ => (s, .ok {}))
    (performThen fun s _ b _ => s.askYield b .yield) s

/-- `cancel` (R407, R187). -/
def execCancel (w : Plain) (s : State) : Out :=
  laneWord [{ guard := w.guard, regs := (w.view 0xEC).regs, srcs := [srcWord 0 w.a], values := handleViols s w }] false 1
    (fun s _ _ x => (s, .ok { acts := [.cancel (w.opx % 4) (numOf x w.a)] })) s

/-! ### `fpop` (R190, R192, R406) -/

/-- The operation of the header's check: the atomic right, and an object of kind HBM. -/
def opFeed : AccOp := { rights := [26], kind := .fetch, write := true }

/-- A feed header as it stands at its home (R190). -/
structure FeedHeader where
  head : Nat
  tail : Nat
  log2cap : Nat
  rsize : Nat
  rbase : Nat
  valid : Bool

/-- The header of 256 bytes. (DEDUCED, log entry 26.) -/
def feedHeader (bs : List Byte) : FeedHeader :=
  let d3 := natAt bs 192 8
  let d4 := natAt bs 200 8
  { head := natAt bs 0 8, tail := natAt bs 128 8, log2cap := bits d3 0 5, rsize := bits d3 8 4, rbase := bits d4 0 48,
    valid := natAt bs 8 120 == 0 && natAt bs 136 56 == 0 && natAt bs 208 48 == 0 && bits d3 5 3 == 0 && d3 < 2 ^ 12
      && d4 < 2 ^ 48 && bits d3 0 5 ≤ 24 && 1 ≤ bits d3 8 4 && bits d3 8 4 ≤ 8 && bits d4 0 48 % 64 == 0 }

/-- The scope that OPX names; one of system or pool scope acquires (R127, R406). -/
def feedScope (w : Plain) : Scope := (Scope.ofCode (w.opx % 8)).getD .block
def feedAcquires (w : Plain) : Bool := feedScope w == .system || feedScope w == .pool

/-- The record run is checked once RSIZE is known (R406); a register that no thread can hold breaks the rule of runs alone (R282). -/
def recordViols (w : Plain) (x : Thread) (n : Nat) : List Viol :=
  runViols 1 w.d n false ++ allocViols (((List.range n).map fun i => (1, w.d + i)).filter fun r => decide (r.2 < 320)) x.nregs

/-- The checks of `fpop` before the commit: what a thread keeps is the header's place. -/
def fpopLane (w : Plain) : LaneFn := fun s b _ x =>
  let c := x.creg w.a
  let r := s.access b c (c.cursor : Nat) 256 128 opFeed
  (r.1, r.2.map fun ps => { kept := { pieces := ps } })

/-- What refuses a header at its home, with the record run that its RSIZE gives (R406). -/
def headerViols (w : Plain) (x : Thread) (h : FeedHeader) : List Viol :=
  if h.valid then recordViols w x h.rsize else [rangeViol 6]

/-- One lane is served at the header's home (R192): the header is judged, then HEAD moves, which waits while another word's lanes
are being performed there (R121); what the lane keeps is 1, whether it popped, the record and the poison of its registers.
(DEDUCED, log entry 26.) -/
def State.popFeed (s : State) (w : Plain) (b : Block) (x : Thread) (hps : List Piece) : State × LaneRes (List Nat) :=
  let h := feedHeader (s.peekAll hps).1
  match leastViol (headerViols w x h) with
  | some v => (s, .trap cIllegal v.aux)
  | none =>
  if h.head ≥ h.tail then (s, .ok [1, 0])
  else if (slice hps 0 8).any (s.lockedOut 0) then (s, .wait)
  else
    let n := 8 * h.rsize
    let r := s.access b (x.creg w.a) (h.rbase + h.head % 2 ^ h.log2cap * n : Nat) n 1 opLoad
    match r.2 with
    | .ok ps =>
      let d := dwordsOf (r.1.peekAll ps).1
      let psn := (List.range h.rsize).map fun i => bit (r.1.peekAll (slice ps (8 * i) 8)).2
      (r.1.writePieces (some b.core) (slice hps 0 8) (natToBytes 8 ((h.head + 1) % 2 ^ 64)), .ok ([1, 1] ++ d ++ psn))
    | q => (r.1, q.map fun _ => [])

/-- The lanes are served in ascending order, up to the first whose record has a translation fault: what each thread
keeps, the traps, and the fault. (DEDUCED, log entry 26.) -/
def State.serveFeed (w : Plain) (b : Block) : List (Thread × Eff) → State →
    State × List (Nat × Kept) × List (Nat × Nat × Nat) × Option (Nat × List FaultAt)
  | [], s => (s, [], [], none)
  | (x, e) :: r, s =>
    if e.kept.nums ≠ [] then
      let t := serveFeed w b r s
      (t.1, (x.tid, e.kept) :: t.2.1, t.2.2)
    else
      match s.popFeed w b x e.kept.pieces with
      | (s', .ok k) =>
        let t := serveFeed w b r s'
        (t.1, (x.tid, { nums := k, pieces := e.kept.pieces }) :: t.2.1, t.2.2)
      | (s', .trap c a) =>
        let t := serveFeed w b r s'
        (t.1, t.2.1, (x.tid, c, a) :: t.2.2.1, t.2.2.2)
      | (s', .tfault fs) => (s', [], [], some (x.tid, fs))
      | (s', _) => (s', [], [], some (x.tid, []))

/-- The record a thread keeps is delivered: VALUE, TAG RAW and poison, and the predicate (R192). -/
def Thread.takeRecord (w : Plain) (k : List Nat) (x : Thread) : Thread :=
  let n := (k.length - 2) / 2
  let y := (List.range n).foldl (fun x i =>
    x.setV (w.d + i) { val := BitVec.ofNat 64 (k.getD (2 + i) 0), psn := k.getD (2 + n + i) 0 == 1 }) x
  y.setP w.b (k.getD 1 0 == 1)

/-- `fpop` is performed: on a record's translation fault the group parks at the word, each pop made once (R406). A thread that
traps has popped nothing, and its instance has committed: it is pinned with an effect performed, at the `fpop`.
(DEDUCED, log entry 26.) -/
def fpopPerform (w : Plain) : PerformFn := fun s g b oks =>
  let r := State.serveFeed w b oks s
  let keep (s : State) (x : Nat × Kept) : State := s.updThread b.uid x.1 fun y => { y with kept := x.2 }
  let hold (s : State) (o : Thread × Eff) : State :=
    s.updThread b.uid o.1.tid fun y => { y with mid := true, kept := { pieces := o.2.kept.pieces } }
  match r.2.2.2 with
  | some (tid, fs) =>
    let s1 := r.2.1.foldl keep (oks.foldl hold r.1)
    if fs.isEmpty then (s1.stall g.gid, false) else (s1.park g.gid [(tid, fs)] g.pc, false)
  | none =>
    let s0 := if feedAcquires w then r.1.missAfter b.core (feedScope w) false else r.1.missOlder b.core
    let s1 := r.2.1.foldl (fun s (x : Nat × Kept) => s.updThread b.uid x.1 fun y => y.takeRecord w x.2.nums) s0
    match r.2.2.1 with
    | [] => (s1, true)
    | ts =>
      let s2 := ts.foldl (fun s (t : Nat × Nat × Nat) => s.updThread b.uid t.1 fun y =>
        { y with mid := false, kept := {}, pinned := true, perf := true }) s1
      if s.tmode b.ctx then
        let next := s.rgnAt b g.space (g.pc + 8)
        let s3 := r.2.1.foldl (fun s (x : Nat × Kept) => s.updThread b.uid x.1 fun y =>
          { y.afterCommit next with mid := false, kept := {}, pc := y.pc + 8 }) s2
        (s3.takeTraps g.gid ts g.pc, false)
      else (s2.takeTraps g.gid ts g.pc, true)

/-- `fpop` (R406, R192). -/
def execFpop (w : Plain) (s : State) : Out :=
  commitWord [{ guard := w.guard, regs := (w.view 0xEB).regs, caps := [w.a] }] drainAll (fpopLane w) (fpopPerform w) s

end Sys2Proof.Machine
end

