-- ==== Sys2Proof/Machine/Saves.lean ====
section
/-!
DEFINITION. Saving a block and restoring it (R173, R202, R203, R214 to R217, R247 to R249, R397, R456), where a saved block
goes (R233, R234, R250, R447), the pinned wait limit (R212), and the end of a pre-emption (R250).
-/

namespace Sys2Proof.Machine

open Sys2Proof

/-! ### What a save waits for (R173, R216) -/

/-- Whether the Press of a block's quad is fenced: what waits for a pass then goes with the block (R447).
(DEDUCED, log entry 53.) -/
def State.pressGone (s : State) (b : Block) : Bool := bitAt s.rel.fencedPress (quadOf b.core)

/-- Whether a command cannot end before a pass does. (DEDUCED, log entry 53.) -/
def State.afterPass (s : State) (c : Cmd) : Bool :=
  c.kind == .ppass || (s.ahead c).any (fun d => d.kind == .ppass || d.kind == .qfence)

/-- Whether every command and pass of a block that its scratch serves has completed. -/
def State.commandsDone (s : State) (b : Block) : Bool :=
  let gone := s.pressGone b
  (s.engines.cmds.all fun c => c.blk != b.uid || !c.touchesScratch || (gone && s.afterPass c))
  && (s.engines.granted.all fun p => p.blk != b.uid)
  && (gone || s.engines.resv.all fun r => r.passes.all fun p => p.blk != b.uid)

/-- Whether every committed entry of a block is performed and every atomic it waits for has returned. -/
def State.entriesDone (s : State) (b : Block) : Bool :=
  (s.items.all fun i => i.blk != b.uid) && s.reqs.all fun r => r.blk != b.uid

/-- Whether every thread of a block has exited. -/
def Block.ended (b : Block) : Bool := !b.threads.isEmpty && b.threads.all fun x => x.st == .exited

/-- Whether every thread of a block is held for its save or has exited. -/
def Block.held (b : Block) : Bool := b.threads.all fun x => x.st == .exited || x.st == .saved

/-- Whether a save only saves: it does not end the block. -/
def SaveFor.keeps : SaveFor → Bool
  | .cancel => false
  | .kill => false
  | _ => true

/-- Whether a member of a gang lets the others be saved: it has ended, is saved, or is held with nothing left to perform.
(DEDUCED, log entry 43.) -/
def State.quiet (s : State) (b : Block) : Bool :=
  b.st == .saved || ((b.ended || (b.held && b.save.any SaveFor.keeps)) && s.entriesDone b && s.commandsDone b)

/-! ### Which descriptor a thread is saved under (R202, R215, R397) -/

/-- The set a thread is saved under: a descriptor, everything it holds (R202), none because the word it is at proves not to be
`rgn`, or an answer that it waits for. -/
inductive SavedBy where
  | desc (d : List Nat)
  | all
  | runsOn
  | wait
  | fault (fs : List FaultAt)
  | noMem (addr : Nat)

/-- Where a thread at a boundary finds its `rgn`: at its PC, or after the barrier word it has not performed.
(DEDUCED, log entry 31.) -/
def Thread.rgnPlace (x : Thread) : Option Int :=
  if x.mid then some (x.pc + 8) else if x.bound then some x.pc else none

/-- The set of one thread, read now where the thread is at a boundary. (DEDUCED, log entry 49.) -/
def State.savedBy (s : State) (b : Block) (x : Thread) : State × SavedBy :=
  let given (fs : List FaultAt) : SavedBy :=
    if fs.any fun f => b.lost.contains (f.obj, f.unit) then .all else .fault fs
  match x.rgnPlace with
  | none => (s, .desc x.desc)
  | some pc => match s.fetchWord b x.space pc with
    | (s1, .ok w) => match decode w with
      | .ok (.rgn i) => match s1.readDesc b i.imm with
        | (s2, .ok d) => (s2, if badDesc b d = some 2 then .all else .desc d)
        | (s2, .tfault fs) => (s2, given fs)
        | (s2, .wait) => (s2, .wait)
        | (s2, .noMem a) => (s2, .noMem a)
        | (s2, _) => (s2, .all)
      | _ => (s1, .runsOn)
    | (s1, .tfault fs) => (s1, given fs)
    | (s1, .wait) => (s1, .wait)
    | (s1, .noMem a) => (s1, .noMem a)
    | (s1, _) => (s1, .all)

/-- The sets of all threads: those of the threads that have one, those that the save must wait for after all, the faults met,
whether one must wait, and a place that does not exist. -/
structure SaveSets where
  sets : List (Nat × SavedBy) := []
  running : List Nat := []
  faults : List FaultAt := []
  waiting : Bool := false
  noMem : Option Nat := none

/-- Every thread's set. (DEDUCED, log entry 49.) -/
def State.savedSets (s : State) (b : Block) : List Thread → State × SaveSets
  | [] => (s, {})
  | x :: xs =>
    if x.st = .exited then s.savedSets b xs
    else
      let r := s.savedBy b x
      let t := r.1.savedSets b xs
      let q := t.2
      (t.1, match r.2 with
        | .fault fs => { q with faults := fs ++ q.faults }
        | .wait => { q with waiting := true }
        | .noMem a => { q with noMem := some a }
        | .runsOn => { q with running := x.tid :: q.running }
        | d => { q with sets := (x.tid, d) :: q.sets })

/-! ### The save record (R248, R249, R456) -/

/-- Everything a thread holds. -/
def allMasks (x : Thread) : Masks := { v := List.range x.nregs, p := List.range 32, c := List.range 32 }

/-- The record of a thread in a block save. (DEDUCED, log entries 44 and 50.) -/
def Thread.saveRecord (x : Thread) (d : SavedBy) : List Byte :=
  if x.st = .exited then x.header (pc48 x.pc) x.pass 0 x.trappc x.aux 0 0
  else
    let m := match d with
      | .desc d => liveMasks d x.nregs
      | _ => allMasks x
    x.record m (pc48 x.pc) x.pass 0 x.trappc x.aux 0 0

/-- Scratch units of 64 bytes that a thread's set names; those of the entry region of a page launch are its landing area
(R203). -/
def Block.namedUnits (b : Block) (paged : Bool) (x : Thread) : SavedBy → List (Nat × Nat)
  | .desc d => if x.rdi.isNone && x.rgnPlace.isNone then (if paged then [(0, 256)] else []) else namedRanges d
  | _ => [(0, b.scrSize / 64)]

/-- Runs of numbers that a test passes below a bound: start and length, rising and apart. -/
def runsOf (f : Nat → Bool) (n : Nat) : List (Nat × Nat) :=
  ((List.range n).foldl (fun (r : List (Nat × Nat)) i =>
    if f i = false then r
    else match r with
      | (a, k) :: rest => if a + k = i then (a, k + 1) :: rest else (i, 1) :: r
      | [] => [(i, 1)]) []).reverse

/-- Bits as bytes, the first lowest. -/
def packBits (bs : List Bool) : List Byte := natToBytes ((bs.length + 7) / 8) (bs.foldr (fun b n => bit b + 2 * n) 0)

/-- REASON of a save record (R249). (DEDUCED, log entry 17.) -/
def SaveFor.reason : SaveFor → Nat
  | .preempt => 0
  | .yield => 1
  | .waitc => 2
  | .migrate _ _ => 3
  | .relocate => 4
  | .poison => 5
  | .cancel => 0
  | .kill => 0

/-- The bytes of a block save record, and its LEN. (DEDUCED, log entry 48.) -/
def State.blockRecord (s : State) (b : Block) (why : SaveFor) (sets : List (Nat × SavedBy)) : List Byte × Nat :=
  let l := s.launchOf b
  let paged := l.any Launch.paged
  let setOf (x : Thread) : SavedBy := ((sets.find? fun q => q.1 == x.tid).map Prod.snd).getD .all
  let recs := b.threads.flatMap fun x => x.saveRecord (setOf x)
  let named := (b.threads.filter fun x => x.st != .exited).flatMap fun x => b.namedUnits paged x (setOf x)
  let runs := runsOf (fun i => named.any fun r => decide (r.1 ≤ i) && decide (i < r.1 + r.2)) (b.scrSize / 64)
  let list := padTo 64 (runs.flatMap fun r => natToBytes 4 (r.1 + r.2 * 2 ^ 16))
  let data := runs.flatMap fun r => (b.scrRead (64 * r.1) (64 * r.2)).1
  let map := padTo 64 (packBits (runs.flatMap fun r => (span (16 * r.1) (16 * r.2)).map fun w => b.scrPoison.contains w))
  let len := 128 + recs.length + list.length + data.length + map.length
  let lseq := match l with
    | some l => l.seq
    | none => 0
  let gang := if b.gangSize ≤ 1 then 0 else b.gangRank + (b.gangSize - 1) * 4
  let head := padTo 128 (natToBytes 8 lseq ++ natToBytes 8 (b.ageKey + b.blk * 2 ^ 32)
    ++ natToBytes 8 (b.threads.length + bit (s.resvOf b).isSome * 2 ^ 11 + bit b.reloc * 2 ^ 12 + why.reason * 2 ^ 13
        + runs.length * 2 ^ 16 + len * 2 ^ 32) ++ natToBytes 8 gang)
  let counts := if s.rrMode b.ctx ≠ 0 then b.threads.flatMap fun x => natToBytes 8 x.retired ++ natToBytes 8 x.shash else []
  (head ++ recs ++ list ++ data ++ map ++ counts, len)

/-- Save slots are popped, one after another (R247). -/
def State.popSlots (s : State) (c : Ctx) : Nat → Option (State × List Nat)
  | 0 => some (s, [])
  | n + 1 => match s.popSlot c with
    | none => none
    | some (s1, slot) => (s1.popSlots c n).map fun r => (r.1, slot :: r.2)

/-- A record is written through its slots, each with the link to the next. -/
def State.writeSlots (s : State) (c : Ctx) (room : Nat) : List Nat → List Byte → Option State
  | [], _ => some s
  | slot :: rest, bs =>
    (s.objWrite c c.saveobj slot (bs.take room)).bind fun s1 =>
      (s1.objWrite c c.saveobj (slot + room) (natToBytes 8 (rest.headD 0))).bind fun s2 => s2.writeSlots c room rest (bs.drop room)

/-- A record is read back from its slots. -/
def State.readSlots (s : State) (c : Ctx) (room : Nat) : List Nat → Option (List Byte)
  | [] => some []
  | slot :: rest => match s.objRead c c.saveobj slot room, s.readSlots c room rest with
    | some bs, some r => some (bs ++ r)
    | _, _ => none

/-- Bytes of a record in one slot. -/
def Ctx.room (c : Ctx) : Nat := c.slotsz * 4096 - 8

/-! ### Where a saved block goes (R216, R226, R228, R233, R234, R250, R447) -/

/-- A block returns to PENDING. (DEDUCED, log entry 51.) -/
def State.toPending (s : State) (uid : Nat) : State :=
  s.updBlock uid fun b => { b with st := .pending, save := none, pendSince := s.sched.now, overdue := false }

/-- A block whose gang is saved goes on: a migrating one to its target, one with conditions or with a gang member that has some
waits for them all (R405), one that was pre-empted waits for RESUME, and any other is PENDING. (DEDUCED, log entry 52.) -/
def State.settle (s : State) (b : Block) : State :=
  let held := b.save = some .preempt ∧ (s.ctx? b.ctx).any Ctx.preempted
  match b.save with
  | some (.migrate core base) =>
    s.updBlock b.uid fun b => { b with st := .clearing, save := none, core := core, scrBase := base }
  | _ => if (s.gangOf b).any fun k => k.waits != [] then s.updBlock b.uid fun b => { b with save := none }
         else if held then s else s.toPending b.uid

/-- A gang, or a block alone, every member of which is saved or has ended, goes on together (R181): a yield takes its
launch sequence number, and the reservation leaves its quad's table with the passes that go with the blocks.
(DEDUCED, log entry 48.) -/
def State.gangSaved (s : State) (uid : Nat) : State :=
  match s.block? uid with
  | none => s
  | some b =>
    let bs := s.gangOf b
    if bs.all (fun k => k.st == .saved || k.ended) = false then s
    else
      let n := s.queues.lseqNext
      let yields := bs.any fun k => k.save == some .yield
      let s1 : State := if yields then
          { s with
            queues := { s.queues with lseqNext := (n + 1) % 2 ^ 64 }
            blocks := s.blocks.map fun k => if bs.any fun q => q.uid == k.uid then { k with ageSeq := n } else k }
        else s
      let away (r : Resv) : Option Resv :=
        if r.owner ≠ b.holder then some r
        else if r.marked.isSome ∧ r.passes.isEmpty then none else some { r with quad := 256 }
      let s2 := { s1 with engines := { s1.engines with resv := s1.engines.resv.filterMap away } }
      (bs.filter fun k => k.st == .saved).foldl (fun s k => match s.block? k.uid with
        | some k => s.settle k
        | none => s) s2

/-- A thread after its block is saved: its registers are in the record. -/
def Thread.afterSave (x : Thread) : Thread := { x with v := [], p := [], c := [], emerg := 0, watch := none, faults := [] }

/-- A block whose record is written is SAVED: its core holds nothing of it. -/
def Block.afterSave (b : Block) (why : SaveFor) (slots : List Nat) (counted : Bool) : Block :=
  { b.updThreads Thread.afterSave with
    st := .saved, slots := slots, scr := [], scrPoison := [], counted := counted, lost := [], exitWait := [],
    reloc := b.reloc || why == .poison, waits := b.threads.filterMap fun x => if x.st = .exited then none else x.waitOn }

/-- Threads held at a word that proves not to be `rgn` run on, pinned with an effect performed, and the save waits for them
(R207, R212). (DEDUCED, log entry 31.) -/
def State.runOn (s : State) (b : Block) (tids : List Nat) : State :=
  let s1 := tids.foldl (fun s t => s.updThread b.uid t fun x => { x with bound := false, mid := false, pinned := true, perf := true }) s
  (tids.foldl (fun s t => match s.thread? b.uid t with
    | some x => s.file b.uid t x.pc x.space
    | none => s) s1).drawCore b.core

/-- BLOCK_SAVE: the record of block `id` is written, once its gang's threads are held and its effects performed.
(DEDUCED, log entry 48.) -/
def execBlockSave (s : State) : Out :=
  match s.block? s.sched.args.id with
  | none => notNow "blockSave: no such block"
  | some b => match b.save, s.ctx? b.ctx with
    | some why, some c =>
      if why.keeps = false then notNow "blockSave: the block ends"
      else if b.st ≠ .resident ∨ b.held = false ∨ b.ended ∨ b.exitWait ≠ [] then notNow "blockSave: a thread is not held"
      else if ((s.gangOf b).all fun k => s.quiet k) = false then notNow "blockSave: an effect or a command is not performed"
      else
        let r := s.savedSets b b.threads
        match r.2.noMem with
        | some a => .fault (.noSuchAddress a)
        | none =>
          if r.2.faults ≠ [] then
            let q := r.1.recordFaults 0 b.core r.2.faults
            .next (q.1.updBlock b.uid fun b => { b with exitWait := distinct q.2 })
          else if r.2.waiting then .next r.1
          else if r.2.running ≠ [] then .next (r.1.runOn b r.2.running)
          else
            let rec0 := r.1.blockRecord b why r.2.sets
            let need := (rec0.1.length + c.room - 1) / c.room
            match r.1.popSlots c need with
            | none => notNow "blockSave: no slot is free"
            | some (s1, slots) => match s1.writeSlots c c.room slots rec0.1 with
              | none => notNow "blockSave: the save area has no such slot"
              | some s2 =>
                let s3 := (s2.dropClaims b.uid).updBlock b.uid fun b => b.afterSave why slots (s.rrMode b.ctx != 0)
                .next ((s3.updCtx b.ctx fun c => { c with saved := c.saved + 1 }).gangSaved b.uid)
    | _, _ => notNow "blockSave: no save is under way"

/-! ### Restoring (R203, R216, R217, R245, R248) -/

/-- Bytes of a thread record. -/
def recordSize (bs : List Byte) : Nat :=
  if bits (natAt bs 0 8) 59 2 = 1 then 64
  else
    let m := recordMasks bs
    let nv := m.v.length
    let nc := m.c.length
    (120 + 8 * nv + (nv + 7) / 8 * 8 + 16 * nc + (nc + 7) / 8 * 8 + 63) / 64 * 64

/-- A thread restored from its record: c0 to c7 from the launch, what the record names, and its region state; it is to be
filed at RESUMEPC. (DEDUCED, log entry 50.) -/
def Thread.resumed (x : Thread) (bs : List Byte) (slots : List CapReg) (fresh : Nat) : Thread :=
  if bits (natAt bs 0 8) 59 2 = 1 then { x with st := .exited }
  else
    let y : Thread := { x with
      v := List.replicate (32 * x.h) {}, p := List.replicate 32 false, c := slots ++ List.replicate 24 {} }
    { (y.restore bs fresh).restoreState bs with pc := (natAt bs 0 6 : Nat), waitOn := none, mid := x.mid }

/-- Every thread restored, and the bytes that follow. -/
def resumeThreads (slots : List CapReg) (fresh : Nat) : List Thread → List Byte → List Thread × List Byte
  | [], bs => ([], bs)
  | x :: xs, bs =>
    let r := resumeThreads slots fresh xs (bs.drop (recordSize bs))
    (x.resumed bs slots fresh :: r.1, r.2)

/-- The scratch of a block with its saved ranges in it. -/
def Block.fillRanges (b : Block) : List (Nat × Nat) → List Byte → Block
  | [], _ => b
  | (o, n) :: rs, bs =>
    ({ b with scr := setCells (64 * o) (bs.take (64 * n)) b.scr }).fillRanges rs (bs.drop (64 * n))

/-- The words of ranges, in order. -/
def rangeWords (rs : List (Nat × Nat)) : List Nat := rs.flatMap fun r => span (16 * r.1) (16 * r.2)

/-- A block restored from its record. -/
def Block.restored (b : Block) (bs : List Byte) (slots : List CapReg) (fresh : Nat) : Block :=
  let d2 := natAt bs 16 8
  let r := resumeThreads slots fresh b.threads (bs.drop 128)
  let n := bits d2 16 16
  let list := (List.range n).map fun i => (natAt r.2 (4 * i) 2, natAt r.2 (4 * i + 2) 2)
  let body := r.2.drop ((4 * n + 63) / 64 * 64)
  let size := 64 * (list.foldl (fun k q => k + q.2) 0)
  let map := body.drop size
  let words := rangeWords list
  let psn := (List.range words.length).filterMap fun i =>
    if bitAt (natAt map (i / 8) 1) (i % 8) then some (words.getD i 0) else none
  let b1 := ({ b with scr := [], scrPoison := psn.foldl (fun l w => insertNat w l) [] }).fillRanges list (body.take size)
  let counts := bs.drop (bits d2 32 32)
  let count (i : Nat) (x : Thread) : Thread :=
    if b.counted then { x with retired := natAt counts (16 * i) 8, shash := natAt counts (16 * i + 8) 8 } else x
  { b1 with threads := r.1.mapIdx count }

/-! ### The pinned wait limit and the end of a pre-emption (R212, R250) -/

/-- The blocks of a context whose save has waited beyond the limit, each with the first thread it waits for (R212). -/
def State.waitedOut (s : State) (c : Ctx) : List (Block × Thread) :=
  (s.blocks.filter fun b => b.ctx == c.n && b.st == .resident && b.save.any SaveFor.keeps
      && decide (s.sched.now - b.saveSince > 2 ^ c.pinwait)).filterMap fun b =>
    (b.threads.find? fun x => x.holdsSave).map fun x => (b, x)

/-- Which of two waits a stop record names: the one whose limit passed first, then the thread on the lowest core, then the lowest %tid
(R252). -/
def stopsBefore (p q : Block × Thread) : Bool :=
  p.1.saveSince < q.1.saveSince || (p.1.saveSince == q.1.saveSince
    && (p.1.core < q.1.core || (p.1.core == q.1.core && p.2.tid < q.2.tid)))

/-- PINNED_WAIT_LIMIT: the save of block `id` has waited too long for a thread that has performed an effect: its context
stops, in the name of the thread that R252 gives. NESTED is 0, though the thread runs a handler. (DESIGN CHOICE, log entry 120.) -/
def execPinnedWaitLimit (s : State) : Out :=
  match s.block? s.sched.args.id with
  | none => notNow "pinnedWaitLimit: no such block"
  | some b => match s.ctx? b.ctx with
    | none => notNow "pinnedWaitLimit: no such context"
    | some c => match (s.waitedOut c).filter fun p => p.1.uid == b.uid with
      | [] => notNow "pinnedWaitLimit: no save has waited beyond the limit"
      | p :: _ =>
        let q := (s.waitedOut c).foldl (fun m q => if stopsBefore q m then q else m) p
        .next (s.stopContext b.ctx { cause := 0x10, core := q.1.core, tid := q.2.tid, pc := pc48 q.2.pc, blk := q.1.blk })

/-- PREEMPT_COMPLETE: every block of context `id` that PREEMPT reached is saved, or has ended with what a save waits for
performed; its oldest PREEMPT completes. (DEDUCED, log entries 43 and 61.) -/
def execPreemptComplete (s : State) : Out :=
  match s.ctx? s.sched.args.id with
  | none => notNow "preemptComplete: no such context"
  | some c => match c.preempts with
    | [] => notNow "preemptComplete: no PREEMPT is under way"
    | i :: is =>
      if s.blocks.any fun b => b.ctx == c.n && ((b.st == .resident && !(b.ended && s.quiet b)) || b.st == .clearing) then
        notNow "preemptComplete: a block is not saved"
      else (s.updCtx c.n fun c => { c with preempts := is, saved := 0 }).finishCommand i 5 0 c.saved

end Sys2Proof.Machine
end

