-- ==== Sys2Proof/Machine/Launches.lean ====
section
/-!
DEFINITION. From a slot's ring to the end of a launch: the check of a slot's head (R183, R220), leaving WAITING (R221),
placement with migration and holding (R225 to R228, R469), the start of a block (R59, R64, R92, R181, R185, R203, R217),
its end with the exit record and the counters (R138, R184, R186, R390), and the end of a wait (R233).
-/

namespace Sys2Proof.Machine

open Sys2Proof

/-! ### Slots (R220, R221, R438) -/

/-- SLOT_HEAD_CHECK: slot `id` takes the command at its head: refused, with an event, or accepted and WAITING. -/
def execSlotHeadCheck (s : State) : Out :=
  let i := s.sched.args.id
  let q := s.queues.slots.getD i {}
  if q.bound = false ∨ q.launch.isSome ∨ q.head = q.tail then notNow "slotHeadCheck: the slot has no command at its head"
  else
    let a := q.ring + 256 * (q.head % 2 ^ q.log2n)
    if s.hbmHas a 256 = false then .fault (.noSuchAddress a)
    else
      let e := s.readRing a
      let l : Launch := { id := s.sched.nextId, ctx := q.ctx, slot := i, prio := q.prio, record := e.dwords, tags := e.tags }
      match s.refusal l with
      | some why => .next (s.refuseHead i why)
      | none =>
        let s1 := s.bump
        .next ({ s1 with launches := s1.launches ++ [l] }.updSlot i fun q => { q with launch := some l.id })

/-- LAUNCH_RELEASE: launch `id`, whose dependences are met, leaves WAITING. -/
def execLaunchRelease (s : State) : Out :=
  match s.launch? s.sched.args.id with
  | none => notNow "launchRelease: no such launch"
  | some l =>
    if l.st ≠ .waiting then notNow "launchRelease: the launch is not WAITING"
    else if l.deps.all s.met then .next (s.release l.id) else notNow "launchRelease: a dependence is not met"

/-! ### What fits where (R225) -/

/-- Threads of a block with the register blocks each needs: at first NRB, on resume what it holds. -/
def State.needs (s : State) (b : Block) : List (Nat × Nat) :=
  if b.threads.isEmpty then match s.launchOf b with
    | some l => (List.range l.nthreads).map fun t => (t, l.nrb)
    | none => []
  else b.threads.map fun x => (x.tid, x.h)

/-- Bytes of a core's scratch (R63). -/
def scratchBytes : Nat := 524288

/-- The scratch ranges that are taken on a core. -/
def State.takenScratch (s : State) (core : Nat) : List (Nat × Nat) :=
  s.blocks.filterMap fun b =>
    if b.occupies core = false then none
    else match b.save with
      | some (.migrate c base) => some (if c = core ∧ b.core ≠ core then base else b.scrBase, b.scrSize)
      | _ => some (b.scrBase, b.scrSize)

/-- The lowest place of a contiguous range of n bytes that is free. (DESIGN CHOICE, log entry 54.) -/
def freeRange (taken : List (Nat × Nat)) (n : Nat) : Option Nat :=
  let ok (a : Nat) : Bool := decide (a + n ≤ scratchBytes) && taken.all fun r => r.2 == 0 || decide (a + n ≤ r.1) || decide (r.1 + r.2 ≤ a)
  let places := (0 :: taken.map fun r => r.1 + r.2).filter ok
  if places.isEmpty then none else some (leastOf scratchBytes places)

/-- Where a block's scratch would lie on a core whose every resource is free for it. (DESIGN CHOICE, log entry 54.) -/
def State.fitsOn (s : State) (b : Block) (core : Nat) : Option Nat :=
  let need := s.needs b
  let lanesOk := (List.range 256).all fun k =>
    let mine := need.filter fun t => t.1 % 256 == k
    mine.isEmpty || (decide (mine.length + (s.holders core (partOf k) (laneOf k)).length ≤ 32)
      && decide (mine.foldl (fun n t => n + t.2) 0 ≤ s.freeBlocks b.ctx core (partOf k) (laneOf k)))
  let quota := (s.blocks.filter fun k => k.occupies core).foldl (fun n k => n + k.quota) 0
  if lanesOk && decide (quota + b.quota ≤ 2048) then freeRange (s.takenScratch core) b.scrSize else none

/-- Threads resident on a core. -/
def State.crowd (s : State) (core : Nat) : Nat :=
  (s.blocks.filter fun b => b.occupies core).foldl (fun n b => n + b.threads.length) 0

/-- Whether another candidate holds a core, or waits for blocks to leave it (R227). -/
def State.heldFrom (s : State) (b : Block) (core : Nat) : Bool :=
  s.blocks.any fun k => k.st == .pending && k.save.isNone && k.holder != b.holder && (k.awaits.contains core || match k.holds with
    | some h => h == if k.gangSize ≤ 1 then core else quadOf core
    | none => false)

/-- Whether a core is present, not fenced and powered. -/
def State.coreLives (s : State) (core : Nat) : Bool :=
  bitAt s.presence.cores core && bitAt s.presence.quads (quadOf core) && bitAt s.presence.dies (dieOf core)
  && !(bitAt s.rel.fencedCores core) && !(bitAt s.rel.fencedPress (quadOf core)) && !s.power.tripped

/-- Whether a quad is gated or being ungated (R469). -/
def State.gatedQuad (s : State) (quad : Nat) : Bool := bitAt s.power.qgate quad || s.power.ungating.contains quad

/-- Whether the distributor may put a block on a core. -/
def State.usable (s : State) (b : Block) (core : Nat) : Bool :=
  s.coreLives core && !(s.gatedQuad (quadOf core)) && b.fromQuad != some (quadOf core) && !(s.heldFrom b core)

/-- The ways to put the members of a gang on distinct cores, each fitting: block, core and base of its scratch. -/
def State.assigns (s : State) : List Block → List Nat → List (List (Nat × Nat × Nat))
  | [], _ => [[]]
  | b :: bs, cores => cores.flatMap fun c =>
      if s.usable b c then
        match s.fitsOn b c with
        | some base => (s.assigns bs (cores.filter fun d => d != c)).map fun r => (b.uid, c, base) :: r
        | none => []
      else []

/-- The first of them. (DESIGN CHOICE, log entry 54.) -/
def State.assign (s : State) (bs : List Block) (cores : List Nat) : Option (List (Nat × Nat × Nat)) := (s.assigns bs cores).head?

/-- The number with the least measure; the lower of equal ones. (DEDUCED, log entry 55.) -/
def leastBy (f : Nat → Nat) : List Nat → Option Nat
  | [] => none
  | x :: xs => match leastBy f xs with
    | none => some x
    | some y => some (if f y < f x then y else x)

/-- Where a candidate goes: the fitting core, or the fitting quad, with the fewest resident threads (R226). -/
def State.placeFor (s : State) (b : Block) : Option (List (Nat × Nat × Nat)) :=
  if b.gangSize ≤ 1 then
    (leastBy s.crowd ((List.range 1024).filter fun c => s.usable b c && (s.fitsOn b c).isSome)).bind fun c =>
      (s.fitsOn b c).map fun base => [(b.uid, c, base)]
  else
    let bs := s.gangOf b
    let cores (q : Nat) : List Nat := (List.range 4).map fun i => 4 * q + i
    let crowd (q : Nat) : Nat := (cores q).foldl (fun n c => n + s.crowd c) 0
    (leastBy crowd ((List.range 256).filter fun q => (s.assign bs (cores q)).isSome)).bind fun q => s.assign bs (cores q)

/-! ### Candidates (R226) -/

/-- Whether a block, the first of its gang that has not finished, may be placed: PENDING with its page arrived and ranked, its context
not pre-empted, nothing ending it, and every member so. -/
def State.candidate (s : State) (b : Block) : Bool :=
  let bs := s.gangOf b
  (bs.all fun k => k.st == .pending && k.arrived && !(k.ranking s.sched.now) && k.save.isNone)
  && (match bs with
      | k :: _ => k.uid == b.uid
      | [] => false)
  && (s.launchOf b).isSome && !(s.ctx? b.ctx).any Ctx.preempted

/-- Whether one candidate goes before another: higher priority, then the older age key. -/
def State.goesBefore (s : State) (a b : Block) : Bool :=
  let prio (k : Block) : Nat := ((s.launchOf k).map Launch.prio).getD 0
  decide (prio a > prio b) || (prio a == prio b && (decide (a.ageSeq < b.ageSeq)
    || (a.ageSeq == b.ageSeq && decide (a.ageKey < b.ageKey))))

/-- The first candidate that fits somewhere, with its place. -/
def State.nextPlaced (s : State) : Option (Block × List (Nat × Nat × Nat)) :=
  s.blocks.foldl (fun best b =>
    if s.candidate b = false then best
    else match best with
      | some (k, p) => if s.goesBefore b k then ((s.placeFor b).map fun r => (b, r)).or (some (k, p)) else best
      | none => (s.placeFor b).map fun r => (b, r)) none

/-- A block is placed and CLEARING (R180): a new one with its threads at the start of the entry region. -/
def Block.placed (b : Block) (l : Launch) (core base : Nat) : Block :=
  let start (t : Nat) : Thread := { Thread.start t l.nrb (l.capAt 48).cursor l.slots with st := .saved }
  { b with
    st := .clearing, core := core, scrBase := base, scr := [], scrPoison := [], holds := none, awaits := [], overdue := false
    fromQuad := none
    threads := if b.threads.isEmpty then (List.range l.nthreads).map start else b.threads }

/-- The first block of a launch that is placed on a core drops the core's L1 lines of the launch's context (R70). -/
def State.firstOn (s : State) (l : Launch) (core : Nat) : State := match s.launch? l.id with
  | some k =>
    if k.coresSeen.contains core then s
    else (s.dropL1 core [1, 2] (some l.ctx)).updLaunch l.id fun k => { k with coresSeen := k.coresSeen ++ [core] }
  | none => s

/-- BLOCK_PLACE: the distributor places the first candidate that fits, with its gang (R226). -/
def execBlockPlace (s : State) : Out :=
  match s.nextPlaced with
  | none => notNow "blockPlace: no candidate fits"
  | some (b, places) => match s.launchOf b with
    | none => notNow "blockPlace: no launch"
    | some l => .next (places.foldl (fun s p => (s.firstOn l p.2.1).updBlock p.1 fun k => k.placed l p.2.1 p.2.2) s)

/-! ### Overdue candidates (R227, R469) -/

/-- Whether a resident block may be moved (R227). -/
def Block.movable (b : Block) : Bool :=
  b.st == .resident && b.save.isNone && decide (b.gangSize ≤ 1) && !b.ended
  && b.threads.all fun x => x.st == .exited || !(noMigrate x.desc)

/-- A block migrates to a core at once free for it on the same die, other than one the candidate is to have.
(DEDUCED, log entry 91.) -/
def State.migrate (s : State) (b cand : Block) (avoid : List Nat) : Option State :=
  let cores := (List.range 128).map fun i => 128 * dieOf b.core + i
  (leastBy s.crowd (cores.filter fun c => c != b.core && !(avoid.contains c) && s.usable b c && !(s.heldFrom cand c)
      && (s.fitsOn b c).isSome)).bind fun c =>
    (s.fitsOn b c).map fun base => s.updBlock b.uid fun k => { k with save := some (.migrate c base) }

/-- Some blocks migrate, one after another. -/
def State.migrateAll (s : State) (cand : Block) (avoid : List Nat) : List Block → Option State
  | [] => some s
  | b :: bs => (s.migrate b cand avoid).bind fun t => t.migrateAll cand avoid bs

/-- A state without some blocks. -/
def State.without (s : State) (bs : List Block) : State :=
  { s with blocks := s.blocks.filter fun b => !(bs.any fun k => k.uid == b.uid) }

/-- Whether a candidate fits on given cores. -/
def State.fitsAt (s : State) (b : Block) (cores : List Nat) : Bool := (s.assign (s.gangOf b) cores).isSome

/-- At most two blocks on some cores whose move makes room there, with the state in which their moves have begun and the cores that
the candidate is to have: the first such set, and the first cores that leave the blocks a place. (DESIGN CHOICE, log entry 115.) -/
def State.moving (s : State) (b : Block) (cores : List Nat) : Option (State × List Block × List Nat) :=
  let ms := s.blocks.filter fun k => k.movable && cores.contains k.core
  let sets := (ms.map fun k => [k]) ++ ms.flatMap fun k => (ms.filter fun q => k.uid < q.uid).map fun q => [k, q]
  sets.findSome? fun bs => ((s.without bs).assigns (s.gangOf b) cores).findSome? fun places =>
    let mine := places.map fun p => p.2.1
    (s.migrateAll b mine bs).map fun t => (t, bs, mine)

/-- The cores of a place that a candidate may hold: a core, or the four of a quad. -/
def coresAt (gang : Bool) (n : Nat) : List Nat := if gang then (List.range 4).map fun i => 4 * n + i else [n]

/-- The free resources of a core by the sum of the ratios of R225, in units of 1/524,288. (DEDUCED, log entry 55.) -/
def State.freeRatio (s : State) (ctx core : Nat) : Nat :=
  let lanes := (List.range 256).foldl (fun n k =>
    n + (32 - (s.holders core (partOf k) (laneOf k)).length) + s.freeBlocks ctx core (partOf k) (laneOf k)) 0
  let taken := s.takenScratch core
  let starts := 0 :: taken.map fun r => r.1 + r.2
  let span (a : Nat) : Nat :=
    if taken.any fun r => decide (r.1 ≤ a) && decide (a < r.1 + r.2) then 0
    else leastOf scratchBytes (scratchBytes :: ((taken.filter fun r => a ≤ r.1 && r.2 != 0).map Prod.fst)) - a
  let quota := (s.blocks.filter fun k => k.occupies core).foldl (fun n k => n + k.quota) 0
  64 * lanes + starts.foldl (fun m a => max m (span a)) 0 + 256 * (2048 - quota)

/-- A candidate begins to hold a place. -/
def State.hold (s : State) (b : Block) (n : Nat) : State :=
  s.updBlock b.uid fun k => { k with overdue := true, holds := some n, awaits := [] }

/-- Whether a block still leaves a core for a candidate. -/
def State.leaving (s : State) (b : Block) : Bool :=
  s.blocks.any fun k => b.awaits.contains k.core && match k.save with
    | some (.migrate _ _) => true
    | _ => false

/-- The quads that could hold a candidate, were they not gated. -/
def State.couldHold (s : State) (b : Block) : List Nat :=
  let bare := { s with blocks := s.blocks.filter fun k => k.holder == b.holder
                       power := { s.power with qgate := 0, ungating := [] } }
  (List.range 256).filter fun q =>
    let cores := (List.range 4).map fun i => 4 * q + i
    if b.gangSize ≤ 1 then cores.any fun c => bare.fitsAt b [c] else bare.fitsAt b cores

/-- PLACEMENT_OVERDUE: the candidate `id` has waited beyond the limit of its context and fits nowhere: firmware learns of it
where every quad that could hold it is gated; neighbours migrate, or a place is held for it.
(DESIGN CHOICE, log entry 115.) -/
def execPlacementOverdue (s : State) : Out :=
  match s.block? s.sched.args.id with
  | none => notNow "placementOverdue: no such block"
  | some b => match s.ctx? b.ctx with
    | none => notNow "placementOverdue: no such context"
    | some c =>
      if s.candidate b = false ∨ s.sched.now - b.pendSince ≤ 2 ^ c.placewait then notNow "placementOverdue: the block is not overdue"
      else if (s.placeFor b).isSome ∨ b.holds.isSome ∨ s.leaving b then
        notNow "placementOverdue: the block fits, or a place is held for it"
      else
        let gang := decide (b.gangSize > 1)
        let free (n : Nat) : List Nat := (coresAt gang n).filter fun k => s.usable b k
        let places := (List.range (if gang then 256 else 1024)).filter fun n => (s.gangOf b).length ≤ (free n).length
        let quads := s.couldHold b
        if !quads.isEmpty && quads.all s.gatedQuad then
          if b.overdue then notNow "placementOverdue: firmware has been told"
          else .next ((s.updBlock b.uid fun k => { k with overdue := true }).postEvent 9 b.ctx (quads.headD 0))
        else match places.findSome? fun n => (s.moving b (coresAt gang n)).map fun r => (n, r) with
          | some (_, t, bs, mine) =>
            let moved := bs.foldl (fun s k => (s.updBlock k.uid fun k => { k with saveSince := s.sched.now }).holdThreads k.uid) t
            .next (moved.updBlock b.uid fun k => { k with overdue := true, awaits := mine })
          | none =>
            let ratio (n : Nat) : Nat := (free n).foldl (fun m k => m + s.freeRatio b.ctx k) 0
            match leastBy (fun n => 2 ^ 40 - ratio n) (places.filter fun n => (coresAt gang n).all fun k => !(s.heldFrom b k)) with
            | some n => .next (s.hold b n)
            | none => notNow "placementOverdue: no place can be held"

/-! ### The start of a block -/

/-- The reservation of a block's gang is taken again on its new quad (R173, R447): none while the table is full. Commands and
passes that went with the block are now those of its new core. (DEDUCED, log entry 51.) -/
def State.retake (s : State) (b : Block) : Option State :=
  match s.engines.resv.find? fun r => r.owner == b.holder && r.quad != quadOf b.core with
  | none => some s
  | some _ =>
    let mine := s.engines.resv.filter fun r => r.quad == quadOf b.core
    if mine.length ≥ 16 then none
    else
      let idx := leastOf 0 ((List.range 16).filter fun i => !(mine.any fun r => r.idx == i))
      let head : List Pass → List Pass
        | p :: ps => { p with headAt := s.sched.now } :: ps
        | [] => []
      let back (r : Resv) : Resv :=
        if r.owner = b.holder then { r with quad := quadOf b.core, idx := idx, passes := head r.passes } else r
      some { s with engines := { s.engines with resv := s.engines.resv.map back } }

/-- Commands and passes of a block are those of its core. (DEDUCED, log entry 51.) -/
def State.carry (s : State) (b : Block) : State :=
  let core (q : Pass) : Pass := if q.blk = b.uid then { q with core := b.core } else q
  { s with engines := { s.engines with
      cmds := s.engines.cmds.map fun c => if c.blk = b.uid ∧ c.touchesScratch then { c with core := b.core } else c
      resv := s.engines.resv.map fun r => { r with passes := r.passes.map core } } }

/-- The save that a block begins as it becomes RESIDENT: its context is pre-empted (R250), its core fenced (R445), or its
gang is being saved (R181). (DEDUCED, log entry 56.) -/
def State.saveAtStart (s : State) (b : Block) : Option SaveFor :=
  if (s.ctx? b.ctx).any Ctx.preempted then some .preempt
  else if s.coreLives b.core = false then some .relocate
  else (s.gangOf b).findSome? fun k => match k.save with
    | some .yield => if k.st = .resident ∨ k.st = .saved then some .yield else none
    | some .waitc => if k.st = .resident ∨ k.st = .saved then some .waitc else none
    | some .preempt => none
    | some why => if why.keeps then some .relocate else none
    | none => none

/-- SDC is delivered to threads that stand at one PC (R241, R402, R447). -/
def State.sdcAt (s : State) (b : Block) (tids : List Nat) (pc : Int) (syndrome unit tilexy : Nat) : State :=
  let part := partOf (tids.headD 0)
  let pinned := (b.members tids).filter Thread.runsPinned
  let s1 := (s.trace b (lowestLane tids) 0x12 cSdc (pc48 pc) 0 0 none).updBlock b.uid fun k => k.updThreads fun x =>
    if tids.contains x.tid then { x.setTrap cSdc x.pc 0 with syndrome := syndrome, unit := unit, tilexy := tilexy } else x
  if s.tmode b.ctx then
    let mask := laneMask tids
    let space := match b.thread? (tids.headD 0) with
      | some x => x.space
      | none => .kernel
    let g : Group := { gid := s1.sched.nextId, blk := b.uid, core := b.core, part := part, space := space, pc := pc, tids := tids,
                       st := .frozen, formed := s1.sched.now, tmask := mask, gmask := mask, pmask := laneMask (pinned.map Thread.tid) }
    let s2 := { s1.bump with groups := s1.groups ++ [g] }.updBlock b.uid fun k => k.updThreads fun x =>
      if tids.contains x.tid then { x with st := .running } else x
    s2.enterHandler b.uid (lowestLane tids) { cause := cSdc, pc := pc, aux := 0, tmask := mask, gmask := mask,
                                              pinned := pinned.any fun x => x.tid == lowestLane tids }
  else tids.foldl (fun s t => s.enterHandler b.uid t { cause := cSdc, pc := pc, aux := 0, tmask := 0, gmask := 0,
                                                       pinned := pinned.any fun x => x.tid == t }) s1

/-- The group whose word or pass failed takes SDC before it issues. (DEDUCED, log entry 53.) -/
def State.deliverSdc (s : State) (uid : Nat) : State :=
  match s.block? uid with
  | none => s
  | some b => match b.sdc with
    | none => s
    | some (tids, syndrome, unit, tilexy) =>
      let xs := sortByLane (b.members tids |>.filter fun x => x.st != .exited)
      let s1 := s.updBlock uid fun b => { b with sdc := none }
      (distinct (xs.map Thread.pc)).foldl (fun s pc =>
        s.sdcAt b ((xs.filter fun x => x.pc == pc).map Thread.tid) pc syndrome unit tilexy) s1

/-- A block whose scratch is ready becomes RESIDENT: every thread that has not exited is filed (R181, R217). -/
def State.startBlock (s : State) (uid : Nat) : State :=
  match s.block? uid with
  | none => s
  | some b =>
    let sdc := match b.sdc with
      | some (tids, _) => tids
      | none => []
    let s1 := s.updBlock uid fun b => { b.updThreads (fun x => { x with mid := false }) with st := .resident }
    let s2 := s1.deliverSdc uid
    let xs := b.threads.filter fun x => x.st != .exited && !(sdc.contains x.tid)
    (s2.fileAll uid xs).drawCore b.core

/-- A block that resumes on a core meets no L1 line of its context that is older than its save (R70, R126). -/
def State.resumedOn (s : State) (b : Block) : State := if b.slots.isEmpty then s else s.dropL1 b.core [1, 2] (some b.ctx)

/-- BLOCK_CLEARING_DONE: the scratch of block `id` is cleared or restored and its page has landed: it is RESIDENT (R64, R92,
R217). Its save record's slots are free again (R249). -/
def execBlockClearingDone (s : State) : Out :=
  match s.block? s.sched.args.id with
  | none => notNow "blockClearingDone: no such block"
  | some b => match s.launchOf b with
    | none => notNow "blockClearingDone: no launch"
    | some l =>
      let c := (s.ctx? b.ctx).getD { n := b.ctx }
      if b.st ≠ .clearing ∨ b.landed = false ∨ b.save.isSome then notNow "blockClearingDone: the block is not CLEARING, or its page has not landed"
      else match s.retake b with
        | none => notNow "blockClearingDone: the reservation waits for a free entry"
        | some s1 => match s1.readSlots c c.room b.slots with
          | none => notNow "blockClearingDone: the save record cannot be read"
          | some bs =>
            let halted (k : Block) : Block :=
              { k.updThreads (fun x => { x with halted := k.halt.isSome && x.st != .exited }) with
                halt := k.halt.map fun h => (h.1, false), bphase := 0, gphase := 0, slots := [] }
            let s2 := s1.tick.updBlock b.uid fun k =>
              halted (if b.slots.isEmpty then k else k.restored bs l.slots s1.sched.fresh)
            let s3 := ((b.slots.foldl (fun (s : State) slot => s.pushSlot c slot) s2).carry b).resumedOn b
            match s3.saveAtStart b with
            | some why => .next (s3.updBlock b.uid fun k =>
                { k with st := .resident, save := some why, saveSince := s.sched.now,
                         fromQuad := if s.coreLives k.core then k.fromQuad else some (quadOf k.core) })
            | none => .next (s3.startBlock b.uid)

/-! ### The end of a wait (R233) -/

/-- WAIT_CONDITION_MET: every condition that block `id` and its gang wait for is met: they return to PENDING together, with their
age keys (R233, R405). (DEDUCED, log entry 52.) -/
def execWaitConditionMet (s : State) : Out :=
  match s.block? s.sched.args.id with
  | none => notNow "waitConditionMet: no such block"
  | some b =>
    let bs := (s.gangOf b).filter fun k => k.st == .saved
    if b.st ≠ .saved ∨ (bs.any fun k => k.save.isSome) ∨ bs.all fun k => k.waits.isEmpty then notNow "waitConditionMet: the block does not wait"
    else if bs.all fun k => k.waits.all s.met then
      .next (bs.foldl (fun s k => (s.updBlock k.uid fun k => { k with waits := [] }).toPending k.uid) s)
    else notNow "waitConditionMet: a condition is not met"

/-! ### The end of a block (R184, R186, R390) -/

/-- The 256 bytes of an exit record (R184). CORE of a block that never ran is 0. (DESIGN CHOICE, log entry 121.) -/
def Block.exitRecord (b : Block) (paged : Bool) (ran : Bool) : List Byte :=
  natToBytes 8 (b.status + b.pgstat * 2 ^ 8 + b.pgretry * 2 ^ 16 + b.arrank * 2 ^ 32)
  ++ natToBytes 8 (if paged then b.page + b.pgno * 2 ^ 32 else 0)
  ++ natToBytes 8 (b.failcmd + (if ran then b.core else 0) * 2 ^ 32) ++ List.replicate 40 0
  ++ natToBytes 128 (b.threads.foldl (fun m x => if x.sf then setBit m x.tid else m) 0) ++ List.replicate 64 0

/-- The launch of a finished block advances its counter, and completes with its last block (R186). -/
def State.advanceLaunch (s : State) (id : Nat) : State :=
  match s.launch? id with
  | none => s
  | some l =>
    let s1 := (s.advance 0 (bits (l.dword 2) 0 12)).updLaunch id fun l => { l with finished := l.finished + 1 }
    if l.finished + 1 < l.nblk then s1
    else
      let d := l.dword 2
      let s2 := if bitAt d 12 then s1.advance 1 (bits d 13 10) else s1
      let s3 := if bitAt d 23 then s2.advance 2 (bits d 24 8) else s2
      let s4 := if bitAt d 32 then s3.advance 3 (bits d 33 6) else s3
      { s4 with launches := s4.launches.filter fun k => k.id != id }

/-- Everything a finished block holds is freed: threads, scratch, save slots, its place in reads of pages, what waits for a
Press that is fenced, and with the last of its gang the reservation (R161, R390). -/
def State.freeBlock (s : State) (b : Block) : State :=
  let s1 := match s.ctx? b.ctx with
    | some c => b.slots.foldl (fun (s : State) slot => s.pushSlot c slot) s
    | none => s
  let last := (s.gangOf b).all fun k => k.uid == b.uid
  let drop (r : PageRead) : Option PageRead :=
    let r' : PageRead := { r with users := r.users.filter fun u => u != b.uid }
    if r.users.contains b.uid ∧ (r.stage = .corrected ∨ r.stage = .buffered) ∧ r'.users = [] then none else some r'
  let s2 := { s1 with
    bins := s1.bins.filter fun k => k.blk != b.uid
    groups := s1.groups.filter fun g => g.blk != b.uid
    items := s1.items.filter fun i => i.blk != b.uid
    reqs := s1.reqs.filter fun r => r.blk != b.uid
    cellar := { s1.cellar with reads := s1.cellar.reads.filterMap drop }
    engines := { s1.engines with
      cmds := s1.engines.cmds.filter fun c => !(c.blk == b.uid && c.touchesScratch)
      resv := (s1.engines.resv.filter fun (r : Resv) => !(last && r.owner == b.holder)).map fun (r : Resv) =>
        { r with passes := r.passes.filter fun p => p.blk != b.uid } } }
  s2.updBlock b.uid fun k =>
    { k with st := .finished, threads := [], scr := [], scrPoison := [], slots := [], save := none, holds := none, awaits := [], waits := [],
             exitWait := [], lost := [], halt := none, sdc := none, vacated := false }

/-- A block that has ended gives up its scratch, its quota, its register blocks and its thread slots (R390 step 3).
(DEDUCED, log entry 42.) -/
def State.vacate (s : State) (b : Block) : State :=
  (({ s with bins := s.bins.filter fun k => k.blk != b.uid, groups := s.groups.filter fun g => g.blk != b.uid }.dropClaims b.uid).updBlock
    b.uid fun k => { k with scr := [], scrPoison := [], vacated := true }).drawCore b.core

/-- A block that has written its exit record, or cannot, finishes. -/
def State.finishBlock (s : State) (b : Block) : State :=
  let s1 := s.freeBlock b
  let s2 := (s1.gangOf b).foldl (fun s k => s.barriersAt k.uid) s1
  ((s2.advanceLaunch b.launch).sweep).drawCore b.core

/-- Whether every command of a block has completed: its exit record counts those that failed, and its counter waits for
their writes (R138, R149, R184). (DEDUCED, log entry 42.) -/
def State.commandsEnded (s : State) (b : Block) : Bool :=
  let gone := s.pressGone b
  s.engines.cmds.all fun c => c.blk != b.uid || (gone && s.afterPass c)

/-- Whether a block has ended: its threads have exited, or it is to end and they are held, its entries are performed and the
commands of R173 complete; a block that is not resident ends without its threads. (DEDUCED, log entry 42.) -/
def State.mayFinish (s : State) (b : Block) : Bool :=
  let ends := b.save == some .kill || b.save == some .cancel
  match b.st with
  | .finished => false
  | .resident => (b.ended || (ends && b.held)) && (s.items.all fun i => i.blk != b.uid) && (s.reqs.all fun r => r.blk != b.uid)
      && s.commandsDone b
  | _ => ends && !(b.ranking s.sched.now)

/-- A record that is not written is told of (R438). -/
def State.unwritten (s : State) (b : Block) (l : Launch) (cause sub : Nat) : State :=
  s.postEvent 11 b.ctx (b.blk % 2 ^ 32 + cause * 2 ^ 32 + sub * 2 ^ 40 + bits (l.dword 2) 0 12 * 2 ^ 48)

/-- The sub-code of a trap in its %trapaux (R14, R47, R102). -/
def subCode (cause aux : Nat) : Nat := if cause = cFatal then bits aux 32 8 else if cause = cPoolLost then 0 else aux % 256

/-- A block whose exit record has been written ends once the record is performed: a peer has acknowledged what `sent` names
(R138, R184). (DEDUCED, log entry 42.) -/
def State.endRecorded (s : State) (b : Block) (sent : List Nat) : State :=
  if sent.isEmpty then s.finishBlock b
  else (if b.st = .resident then s.vacate b else s).updBlock b.uid fun b => { b with recSent := sent }

/-- BLOCK_FINISH: block `id` ends: it gives up what it holds of its core; once its commands have completed its exit record is
written through EXITREC, or is told of, and its launch counter advances once it is performed (R138, R184, R390). A record whose
fault is answered with FAIL is not written. (DEDUCED, log entry 42.) -/
def execBlockFinish (s : State) : Out :=
  match s.block? s.sched.args.id with
  | none => notNow "blockFinish: no such block"
  | some b => match s.launchOf b with
    | none => notNow "blockFinish: no launch"
    | some l =>
      if s.mayFinish b = false ∨ b.exitWait ≠ [] then notNow "blockFinish: the block has not ended"
      else if s.commandsEnded b = false then
        if b.vacated ∨ b.st ≠ .resident then notNow "blockFinish: a command is not complete" else .next (s.vacate b)
      else if b.recSent ≠ [] then
        if b.recSent.any s.awaited then notNow "blockFinish: the exit record is not performed" else .next (s.finishBlock b)
      else
        let cap := l.exitrec
        if cap.tag = false then .next (s.finishBlock b)
        else if b.lost ≠ [] then .next ((s.unwritten b l cFatal 3).finishBlock b)
        else
          let r := s.access b cap (cap.cursor + 256 * b.blk : Nat) 256 1 opStore
          match r.2 with
          | .ok ps =>
            let s1 := r.1.writePieces none ps (b.exitRecord l.paged (!b.threads.isEmpty))
            .next (s1.endRecorded b (s1.sentSince r.1))
          | .trap c a => .next ((r.1.unwritten b l c (subCode c a)).finishBlock b)
          | .tfault fs =>
            let q := (if b.st = .resident then r.1.vacate b else r.1).recordFaults 0 b.core fs
            .next (q.1.updBlock b.uid fun b => { b with exitWait := distinct q.2 })
          | .poison => .next r.1
          | .wait => .next (if b.st = .resident then r.1.vacate b else r.1)
          | .noMem a => .fault (.noSuchAddress a)

end Sys2Proof.Machine
end

