-- ==== Sys2Proof/Machine/Upset.lean ====
section
/-!
DEFINITION. Storage errors (R441): what an uncorrectable error of each storage class does, and the counters of corrected
ones (R443).
-/

namespace Sys2Proof.Machine

open Sys2Proof

/-- A corrected error is counted, saturating (R441, R443). (DEDUCED, log entry 92.) -/
def State.corrected (s : State) (code : Nat) : State :=
  let n := lookupD 0 code s.rel.cecount
  { s with rel := { s.rel with cecount := setAt code (if n < 2 ^ 64 - 1 then n + 1 else n) s.rel.cecount } }

/-- The error record of a storage error that names a block. (DEDUCED, log entry 92.) -/
def State.blockError (s : State) (b : Block) (kind code : Nat) (paddr : Nat := 0) : State :=
  s.errorRecord kind code b.core b.ctx paddr b.blk 0

/-- PADDR of a store-buffer entry (R442): where its first byte in HBM or in a pool lies, 0 where none does.
(DEDUCED, log entry 92.) -/
def Effect.paddr (e : Effect) : Nat :=
  match e.pieces.find? fun p => p.scratch.isNone && p.peer.isNone && decide (p.addr < 2 ^ 55) with
  | some p => p.addr
  | none => 0

/-- The instance of a thread's group is discarded and re-entered; a thread that is in no group is discarded and filed
(R213, R441 code 6). (DEDUCED, log entry 62.) -/
def State.redoGroup (s : State) (uid tid : Nat) : State :=
  match s.groupOf uid tid with
  | some g => s.reenter g.gid false
  | none =>
    let s1 := (s.discard uid tid false).unfile uid tid
    match s1.thread? uid tid, s1.block? uid with
    | some x, some b => if x.st = .filed then (s1.file uid tid x.pc x.space).drawAll b.core (partOf tid) else s1
    | _, _ => s1

/-- Core relocation (R445): the core is fenced and its resident blocks relocate. (DEDUCED, log entry 92.) -/
def State.relocateCore (s : State) (core : Nat) : State :=
  let s := { s with rel := { s.rel with fencedCores := setBit s.rel.fencedCores core } }
  s.relocateBlocks (s.blocks.filter fun b => b.core == core && b.st == .resident)

/-- An uncorrectable error of a storage class (R441); none where nothing is stored at the place named. `unit` is the
block for codes 1, 2, 4, the core for 3 and 5, the die for 7 and 8, and for 10 the core, 1,024 + die, or 2,048 + quad for
the operand latch of a Press whose pass is computed again; `a` and `b` name the place, for 8 a line and the peer whose it
is, less 1. (DEDUCED, log entry 92.) -/
def State.upset (s : State) (code unit a b : Nat) : Option State :=
  match code with
  | 1 => (s.thread? unit a).bind fun x => (s.block? unit).bind fun k =>
      if b < x.nregs then
        some ((s.updThread unit a fun x => x.setV b { x.vreg b with psn := true }).blockError k 1 1)
      else if 320 ≤ b ∧ b < 352 then
        some ((s.updThread unit a fun x => x.setC (b - 320) { x.creg (b - 320) with psn := true }).blockError k 1 1)
      else none
  | 2 => (s.block? unit).bind fun k => if k.st = .resident then some ((s.killBlock unit 4).blockError k 3 2) else none
  | 3 => some ((s.relocateCore unit).errorRecord 4 3 unit 0 0 0 0)
  | 4 => (s.block? unit).bind fun k =>
      if k.st = .resident ∧ 4 * a < k.scrSize then
        some ((s.updBlock unit fun k => { k with scrPoison := insertNat a k.scrPoison }).blockError k 1 4)
      else none
  | 5 =>
    if s.caches.l1.any fun x => x.holds unit a then
      let gone := (s.caches.l1.filter fun x => x.holds unit a).map L1Sector.line
      let l1 := s.caches.l1.filter fun x => !(x.core == unit && gone.contains x.line)
      some (({ s with caches := { s.caches with l1 := l1 } }).errorRecord 2 5 unit 0 (32 * a) 0 0)
    else none
  | 6 => (s.items.find? fun i => i.id == a).bind fun i => (s.block? i.blk).map fun k =>
      if i.committed.isNone then (s.redoGroup i.blk i.tid).blockError k 2 6 i.eff.paddr
      else
        let items := s.items.map fun j => if j.id = a ∨ i.shares j then { j with psn := true } else j
        ({ s with items := items }).blockError k 1 6 i.eff.paddr
  | 7 =>
    if s.caches.home.any fun h => h.die == unit && h.line == a / 4 && bitAt h.sectors (a % 4) then
      some (({ s with mem := s.mem.addPoison [a] }).errorRecord 1 7 unit 0 (32 * a) 0 0)
    else none
  | 8 =>
    let hit (r : RemoteLine) : Bool := r.die == unit && r.peer == (if b = 0 then none else some (b - 1)) && r.line == a
    if s.caches.rdc.any hit then
      let rdc := s.caches.rdc.filter fun r => !(hit r)
      some (({ s with caches := { s.caches with rdc := rdc } }).errorRecord 2 8 unit 0 (if b = 0 then 128 * a else 0) 0 0)
    else none
  | 9 =>
    if s.hbmHas (32 * a) 32 then
      some (({ s with mem := s.mem.addPoison [a] }).errorRecord 1 9 (a / 2 ^ 31) 0 (32 * a) 0 0)
    else none
  | 10 =>
    if 2048 ≤ unit then
      if s.engines.granted.any fun p => quadOf p.core == unit - 2048 then
        some (s.errorRecord 2 10 (dieOf (4 * (unit - 2048))) 0 0 0 0)
      else none
    else
    let hit (x : Extent) : Bool := x.unit == unit && x.obj == a && x.frame == b
    if s.caches.extents.any hit then
      let ext := s.caches.extents.filter fun x => !(hit x)
      some (({ s with caches := { s.caches with extents := ext } }).errorRecord 2 10
        (if unit < 1024 then dieOf unit else unit - 1024) 0 0 0 0)
    else none
  | _ => none

end Sys2Proof.Machine
end

