-- ==== Sys2Proof/Machine/HostCommands.lean ====
section
/-!
DEFINITION. The commands of the command ring (R18, R51, R53, R95, R96, R250, R427 to R431, R435): their operands, their
effects, and their completions; and the end of an invalidation (R53, R71).
-/

namespace Sys2Proof.Machine

open Sys2Proof

/-! ### Operands (R427, R428) -/

/-- The index of the command that is being performed. -/
def State.cmdIdx (s : State) : Nat := s.sched.args.id

/-- Whether a command's words keep to their limits: each below its bound, where 1 means that the word is reserved. -/
def commandWithin (c : Command) (b1 b2 b3 b4 : Nat) : Bool :=
  c.byte1 == 0 && c.upper == 0 && decide (c.w1 < b1) && decide (c.w2 < b2) && decide (c.w3 < b3) && decide (c.w4 < b4)
  && c.w5 == 0 && c.w6 == 0 && c.w7 == 0

/-- The command completes MALFORMED, without effect. (DEDUCED, log entry 59.) -/
def State.malformedCmd (s : State) (op : Nat) : Out := s.finishCommand s.cmdIdx op 1 0

/-! ### Contexts (R429) -/

/-- A field of a descriptor that selects a default where it is 0. -/
def orElse (v d : Nat) : Nat := if v = 0 then d else v

/-- Whether a context descriptor, as 32 dwords, is malformed (R429). -/
def badContext (d : List Nat) : Bool :=
  let f (i lo n : Nat) : Nat := bits (d.getD i 0) lo n
  let out (v lo hi : Nat) : Bool := v != 0 && (decide (v < lo) || decide (v > hi))
  f 0 52 12 != 0 || f 0 0 5 != 0 || f 1 33 31 != 0 || f 1 0 33 == 0 || decide (f 1 0 33 > 2 ^ 32)
  || f 2 30 34 != 0 || out (f 2 0 11) 8 1024 || out (f 2 19 5) 10 24 || out (f 2 24 5) 10 24
  || f 3 1 7 != 0 || f 3 8 16 == 0 || f 6 52 12 != 0 || f 7 4 60 != 0
  || (List.range 22).any fun i => d.getD (10 + i) 0 != 0

/-- A context as its descriptor gives it, with what the device keeps of an earlier load. -/
def loadContext (n : Nat) (d : List Nat) (tag : Bool) (old : Option Ctx) : Ctx :=
  let f (i lo k : Nat) : Nat := bits (d.getD i 0) lo k
  { old.getD { n := n } with
    otb := f 0 0 52, otn := f 1 0 33, binage := orElse (f 2 0 11) 32, relimit := orElse (f 2 11 8) 8,
    pinwait := orElse (f 2 19 5) 16, placewait := orElse (f 2 24 5) 14, noresv := f 2 29 1 == 1, tmode := f 3 0 1 == 1,
    slotsz := f 3 8 16, lowmark := f 3 24 8, saveobj := f 3 32 32,
    hcode := capFrom (d.getD 4 0 + 2 ^ 64 * d.getD 5 0) tag, frbase := f 6 0 52, frlog2 := f 7 0 4 }

/-- CTXLOAD: descriptor n is loaded, unless a block of the context is resident or saved (R427, R429).
(DEDUCED, log entry 59.) -/
def execCtxload (cmd : Command) (s : State) : Out :=
  if commandWithin cmd 1 1 1 1 = false then s.malformedCmd 0x01
  else if s.blocks.any fun b => b.ctx == cmd.ctx && (b.st == .resident || b.st == .saved || !b.slots.isEmpty) then
    s.finishCommand s.cmdIdx 0x01 4 0
  else
    let a := s.link.ctxtb + 256 * cmd.ctx
    if s.hbmHas a 256 = false then .fault (.noSuchAddress a)
    else
      let d := (List.range 32).map fun i => s.mem.read (a + 8 * i) 8
      if badContext d then s.malformedCmd 0x01
      else
        let c := loadContext cmd.ctx d (s.mem.tagAt (a + 32)) (s.ctx? cmd.ctx)
        { s with ctxs := (s.ctxs.filter fun (k : Ctx) => k.n != cmd.ctx) ++ [c] }.finishCommand s.cmdIdx 0x01 0 0

/-! ### Objects (R18, R20, R53, R71) -/

/-- The root capability of an object (R18): all rights of its entry, bounds for base 0 and its length. -/
def rootCap (obj rights len : Nat) : CapReg :=
  match boundsFrom 0 len 40 0 with
  | some (e, lo, hi) => capOf obj rights e lo (hi % 512) 0 true
  | none => {}

/-- OBJCREATE: the root capability is written, with its tag, into a granule of HBM (R18, R428). -/
def execObjcreate (cmd : Command) (s : State) : Out :=
  match s.ctx? cmd.ctx with
  | none => s.malformedCmd 0x02
  | some c =>
    if commandWithin cmd (2 ^ 32) (2 ^ 52) 1 1 = false ∨ cmd.w1 = 0 ∨ cmd.w2 % 16 ≠ 0 ∨ s.hbmHas cmd.w2 16 = false then s.malformedCmd 0x02
    else
      let a := c.otb + 32 * cmd.w1
      if cmd.w1 ≥ c.otn then s.finishCommand s.cmdIdx 0x02 3 0
      else if s.hbmHas a 32 = false then .fault (.noSuchAddress a)
      else
        let e := readEntry s.mem a
        if entryInvalid e then s.finishCommand s.cmdIdx 0x02 3 0
        else
          let root := rootCap cmd.w1 (entryRights e) (entryLen e)
          (s.writePiece none (devPiece cmd.w2 16) (natToBytes 16 root.nat) root.tag).finishCommand s.cmdIdx 0x02 0 0

/-- Whether an invalidation covers an offset of an object of a context. -/
def ObjInv.covers (v : ObjInv) (ctx obj off : Nat) : Bool :=
  if v.ats then v.pages.contains (ctx, obj, off / 4096)
  else ctx == v.ctx && obj == v.obj
    && (v.count == 0 || (decide (v.first ≤ off / 65536) && decide (off / 65536 < v.first + v.count)))

/-- Whether a piece was translated with an entry that an invalidation removes. (DEDUCED, log entry 62.) -/
def ObjInv.hits (v : ObjInv) (p : Piece) : Bool := p.scratch.isNone && v.covers p.ctx p.obj p.off

/-- Whether an extent is removed: the unit it holds begins where its number says. -/
def ObjInv.removes (v : ObjInv) (x : Extent) : Bool :=
  (entryKind x.entry == 1 || !v.ats) && v.covers x.ctx x.obj (x.frame * entryUnit x.entry)

/-- Whether a place of a command lies in what an invalidation covers. -/
def ObjInv.names (v : ObjInv) (ctx n : Nat) : Loc → Bool
  | .object c o => (touched 4096 o (if n = 0 then 1 else n)).any fun k => v.covers ctx c.obj (k * 4096)
  | .spad _ _ => false

/-- Whether a buffered effect was translated with a removed entry. (DEDUCED, log entry 62.) -/
def ObjInv.stops (v : ObjInv) (i : Item) : Bool :=
  match i.eff with
  | .command c => v.names c.ctx c.len c.src || v.names c.ctx c.nominal c.dst || c.notify.any fun l => v.names c.ctx 4 l
  | e => e.pieces.any v.hits

/-- The entry of an object as its context's table holds it; none where it has no valid one. -/
def State.entryNow (s : State) (ctx obj : Nat) : Option (List Nat) := (s.ctx? ctx).bind fun c =>
  let a := c.otb + 32 * obj
  if obj = 0 ∨ obj ≥ c.otn ∨ s.hbmHas a 32 = false ∨ entryInvalid (Sys2Proof.Machine.readEntry s.mem a) then none else some (Sys2Proof.Machine.readEntry s.mem a)

/-- Whether a copy of a peer's line belongs to what an invalidation covers. -/
def State.peerNamed (s : State) (v : ObjInv) (r : RemoteLine) : Bool := match r.peer, s.entryNow v.ctx v.obj with
  | some q, some e => entryKind e == 3 && bits (entryTarget e) 32 16 == q && bits (entryTarget e) 0 32 == 128 * r.line / 2 ^ 48
      && v.covers v.ctx v.obj (128 * r.line % 2 ^ 48)
  | _, _ => false

/-- L1 lines of what an invalidation covers are dropped (R71), and with FLUSH the copies of a peer's lines. -/
def State.dropNamed (s : State) (v : ObjInv) : State :=
  { s with caches := { s.caches with
      l1 := s.caches.l1.filter fun x => !(v.covers x.ctx x.obj (x.sector * 32))
      rdc := s.caches.rdc.filter fun r => !(v.flush && s.peerNamed v r) } }

/-- The addresses of the frames that an invalidation covers, as the object's map gives them now: every copy of each.
(DEDUCED, log entry 62.) -/
def State.framesNamed (s : State) (v : ObjInv) : List Nat := match s.entryNow v.ctx v.obj with
  | none => []
  | some e =>
    let n := (entryLen e + 65535) / 65536
    let k := if v.count = 0 then n else min v.count (n - v.first)
    let port := if entryKind e = 2 then some (bits (entryTarget e) 0 1) else none
    if entryKind e ≠ 0 ∧ entryKind e ≠ 2 then []
    else (span (if v.count = 0 then 0 else v.first) k).flatMap fun i =>
      let a := entryMap e + 8 * i
      let fd := s.mem.read a 8
      if s.hbmHas a 8 && bitAt fd 0 && !(s.malformed fd port) then s.writeAddrs (s.placeOf 0 fd v.ctx v.obj (65536 * i) 65536) else []

/-- The physical lines that caches hold of the frames that an invalidation covers: those that walks of the object have given,
those of the map, and those L1 lines came from (R53 step 4). (DEDUCED, log entry 62.) -/
def State.linesNamed (s : State) (v : ObjInv) : List Nat :=
  let frames := (s.caches.walked.filter fun w => v.covers w.ctx w.obj w.off).map fun w => (w.addr, w.len)
  let all := frames ++ (s.framesNamed v).map fun a => (a, 65536)
  let held := (s.caches.home.map HomeLine.line ++ (s.caches.rdc.filter fun r => r.peer.isNone).map RemoteLine.line).filter fun l =>
    all.any fun f => decide (f.1 / 128 ≤ l) && decide (l < (f.1 + f.2) / 128)
  distinct (held ++ ((s.caches.l1.filter fun x => v.covers x.ctx x.obj (x.sector * 32)).map fun x => x.phys / 4))

/-- Lines are written back and dropped from every L1, home cache and remote-data cache (R53 step 4), which triggers watches. -/
def State.flushLines (s : State) (ls : List Nat) : State :=
  let t := ls.foldl (fun s l => (s.cacheLines [{ addr := 128 * l, len := 128 }] true).dropRemote (128 * l) 128) s
  { t with caches := { t.caches with l1 := t.caches.l1.filter fun x => !(ls.contains (x.phys / 4)) } }

/-- What walks have given the places of a flush goes once its lines are dropped, but for what extents still hold. -/
def State.dropWalked (s : State) (v : ObjInv) : State :=
  let held := s.caches.extents.flatMap s.walkedOf
  { s with caches := { s.caches with walked := s.caches.walked.filter fun w => !(v.covers w.ctx w.obj w.off) || held.contains w } }

/-- An invalidation begins: its extents go, its L1 lines go, and the instances with open entries translated through them are
discarded (R53 steps 1 and 3). (DEDUCED, log entry 62.) -/
def State.invalidate (s : State) (v : ObjInv) : State :=
  let v' := { v with lines := if v.flush then s.linesNamed v else [] }
  let s1 := ({ s.bump with
    caches := { s.caches with extents := s.caches.extents.filter fun x => !(v.removes x)
                              asks := s.caches.asks.filter fun a => !(v.covers a.ctx a.obj (if a.peer.isSome then a.off else a.off * 4096)) }
    invs := s.invs ++ [v'] }).dropNamed v
  let open0 := distinct ((s1.items.filter fun i => i.committed.isNone && v.stops i).map fun i => (i.blk, i.tid))
  open0.foldl (fun s q =>
    if s.items.any fun i => i.blk == q.1 && i.tid == q.2 && i.committed.isNone && v.stops i then s.redoGroup q.1 q.2 else s) s1

/-- OBJINV: the invalidation begins; it completes out of order (R53, R427). -/
def execObjinv (cmd : Command) (s : State) : Out :=
  if commandWithin cmd (2 ^ 32) (2 ^ 32) (2 ^ 32) 2 = false ∨ (s.ctx? cmd.ctx).isNone then s.malformedCmd 0x03
  else .next (s.invalidate { id := s.sched.nextId, cmd := s.cmdIdx, ctx := cmd.ctx, obj := cmd.w1, first := cmd.w2,
                             count := cmd.w3, flush := cmd.w4 == 1 })

/-- Whether every request and entry that an invalidation found has been performed (R53 steps 2 and 3), and every commit-class word
that keeps places it translated. (DEDUCED, log entry 62.) -/
def State.invalidated (s : State) (v : ObjInv) : Bool :=
  (s.reqs.all fun r => !(decide (r.id < v.id) && r.pieces.any v.hits))
  && (s.items.all fun i => !(decide (i.id < v.id) && v.stops i))
  && s.blocks.all fun b => b.threads.all fun x => !(x.mid && x.kept.pieces.any v.hits)

/-- The segments of pools that an invalidation returns to use (R105): an object covered whole whose entry has LOST 0.
(DESIGN CHOICE, log entry 106.) -/
def State.regained (s : State) (v : ObjInv) : State :=
  let whole := match s.entryNow v.ctx v.obj with
    | some e => !(entryLost e) && (v.count == 0 || (v.first == 0 && decide (entryLen e ≤ 65536 * v.count)))
    | none => v.count == 0
  if whole && !v.ats then { s with ports := s.ports.map fun p => { p with lostSegs := p.lostSegs.filter fun o => o != (v.ctx, v.obj) } }
  else s

/-- OBJINV_COMPLETE: the invalidation `id` is complete: with FLUSH its lines are dropped, and its command, or the host, learns
of it. (DEDUCED, log entry 61.) -/
def execObjinvComplete (s : State) : Out :=
  match s.invs.find? fun v => v.id == s.sched.args.id with
  | none => notNow "objinvComplete: no such invalidation"
  | some v =>
    if s.invalidated v = false then notNow "objinvComplete: a request or an entry is not performed"
    else
      let lines := if v.flush then distinct (v.lines ++ s.linesNamed v) else []
      let s0 := ({ s with invs := s.invs.filter fun w => w.id != v.id }.flushLines lines).dropNamed v
      let s1 := (if v.flush then s0.dropWalked v else s0).regained v
      if v.ats then .next { s1 with link := { s1.link with atsDone := s1.link.atsDone ++ [v.cmd] } } else s1.finishCommand v.cmd 0x03 0 0

/-! ### Fault answers (R51, R90, R145, R149, R184) -/

/-- A command that waits on a fault record learns its answer. (DEDUCED, log entry 37.) -/
def Cmd.answered (c : Cmd) (r : FaultRec) (fail : Bool) : Cmd :=
  if c.ctx = r.ctx ∧ c.waits.contains r.seq then
    { c with waits := c.waits.filter (fun q => q != r.seq), lost := if fail then c.lost ++ [(r.obj, r.unit)] else c.lost }
  else c

/-- A block whose save or exit record waits on a fault record learns its answer. -/
def Block.answered (b : Block) (r : FaultRec) (fail : Bool) : Block :=
  if b.ctx = r.ctx ∧ b.exitWait.contains r.seq then
    { b with exitWait := b.exitWait.filter (fun q => q != r.seq), lost := if fail then b.lost ++ [(r.obj, r.unit)] else b.lost }
  else b

/-- Entries of page launches held on a fault record: RETRY makes one with no other record ready, FAIL gives it outcome
INVALID (R90). -/
def State.answerEntries (s : State) (r : FaultRec) (fail : Bool) : State :=
  let mine := s.launches.filter fun l => l.ctx == r.ctx && l.held.any fun h => h.2 == r.seq
  mine.foldl (fun s l =>
    let hit := (l.held.filter fun h => h.2 == r.seq).map Prod.fst
    if fail then
      hit.foldl (fun s i => s.invalidEntry l.id i (((s.entryBlock l.id i).map Block.pgno).getD 0)) s
    else s.updLaunch l.id fun l =>
      let rest := l.held.filter fun h => h.2 != r.seq
      { l with held := rest ++ (hit.filter fun i => !(rest.any fun h => h.1 == i)).map fun i => (i, 0) }) s

/-- A record is answered: all that waits on it learns the answer, and so does each peer whose request met it (R51, R107). -/
def State.answerRecord (s : State) (r : FaultRec) (fail : Bool) : State :=
  let s1 := s.answerGroups r.ctx r.seq r.obj fail
  let s2 := { s1 with
    faults := s1.faults.filter fun q => !(q.ctx == r.ctx && q.seq == r.seq)
    engines := { s1.engines with cmds := s1.engines.cmds.map fun (c : Cmd) => c.answered r fail }
    blocks := s1.blocks.map fun (b : Block) => b.answered r fail }
  r.remote.foldl (fun s q =>
    s.send { peer := q.1, obj := q.2.1, off := q.2.2.1, len := q.2.2.2, op := if fail then 12 else 11, data := 0 }) (s2.answerEntries r fail)

/-- FAULTANS: the answer RETRY or FAIL to a fault record releases everything that waits on it (R51).
(DEDUCED, log entry 59.) -/
def execFaultans (cmd : Command) (s : State) : Out :=
  if commandWithin cmd (2 ^ 32) 2 1 1 = false then s.malformedCmd 0x04
  else match s.faults.find? fun r => r.ctx == cmd.ctx && r.seq == cmd.w1 && r.written with
    | none => s.finishCommand s.cmdIdx 0x04 3 0
    | some r =>
      (s.answerRecord r (cmd.w2 == 1)).finishCommand s.cmdIdx 0x04 0 0

/-! ### Pre-emption (R250) -/

/-- PREEMPT: every resident block of the context is to be saved, and none is placed until RESUME (R250).
(DEDUCED, log entry 59.) -/
def execPreempt (cmd : Command) (s : State) : Out :=
  if commandWithin cmd 1 1 1 1 = false ∨ (s.ctx? cmd.ctx).isNone then s.malformedCmd 0x05
  else
    let s1 := s.updCtx cmd.ctx fun c =>
      { c with preempted := true, preempts := c.preempts ++ [s.cmdIdx], saved := if c.preempts.isEmpty then 0 else c.saved }
    .next ((s1.blocks.filter fun b => b.ctx == cmd.ctx && b.st == .resident).foldl (fun s b => s.beginSave b.uid .preempt) s1)

/-- RESUME: the saved blocks of the context return to PENDING (R250), and those PENDING are placeable from now (R227). -/
def execResume (cmd : Command) (s : State) : Out :=
  if commandWithin cmd 1 1 1 1 = false ∨ (s.ctx? cmd.ctx).isNone then s.malformedCmd 0x06
  else
    let s1 := s.updCtx cmd.ctx fun c => { c with preempted := false }
    let bs := s1.blocks.filter fun b => b.ctx == cmd.ctx && b.st == .saved && b.save == some .preempt
      && (s1.gangOf b).all fun k => k.st == .saved || k.ended
    let s2 := { s1 with blocks := s1.blocks.map fun (b : Block) =>
      if b.ctx = cmd.ctx ∧ b.st = BState.pending then { b with pendSince := s.sched.now } else b }
    (bs.foldl (fun (s : State) b => s.toPending b.uid) s2).finishCommand s.cmdIdx 0x06 0 bs.length

/-! ### Slots (R220, R430, R431) -/

/-- The slot of a user queue: 0xFFFF where it is unmapped. -/
def State.mapped (s : State) (q : Nat) : Nat := lookupD 0xFFFF q s.queues.qmap

/-- QMAP of a queue set. -/
def State.setMap (s : State) (q v : Nat) : State :=
  let rest := s.queues.qmap.filter fun e => e.1 != q
  { s with queues := { s.queues with qmap := if v = 0xFFFF then rest else setAt q v rest } }

/-- A slot bound to a user queue by its QCB (R430, R431). (DEDUCED, log entry 60.) -/
def State.boundSlot (s : State) (q prio : Nat) : Slot :=
  let a := s.qcbAt q
  let d0 := s.mem.read a 8
  let d2 := s.mem.read (a + 16) 8
  { bound := true, queue := q, ctx := bits d2 0 16, prio := prio, ring := bits d0 0 52, log2n := bits d0 52 4,
    head := s.mem.read (a + 8) 4, tail := s.mem.read (a + 12) 4, eff := bits d2 19 3, since := s.sched.now }

/-- SLOTBIND: a free slot takes a user queue, with HEAD and TAIL as its QCB holds them (R431); it waits for the firmware core (R437,
R471). (DEDUCED, log entry 60.) -/
def execSlotbind (cmd : Command) (s : State) : Out :=
  if s.fw.running = false then notNow "slotbind: the firmware core does not run"
  else if commandWithin cmd 64 4096 8 1 = false then s.malformedCmd 0x07
  else if (s.queues.slots.getD cmd.w1 {}).bound then s.finishCommand s.cmdIdx 0x07 4 0
  else if s.hbmHas (s.qcbAt cmd.w2) 64 = false then .fault (.noSuchAddress (s.qcbAt cmd.w2))
  else
    let q := s.boundSlot cmd.w2 cmd.w3
    if q.log2n < 4 then s.malformedCmd 0x07
    else ((s.updSlot cmd.w1 fun _ => q).setMap cmd.w2 cmd.w1).finishCommand s.cmdIdx 0x07 0 0

/-- A slot gives its queue up: the queue is unmapped, a head still WAITING stays in the ring, and HEAD is written (R431). -/
def State.unbindSlot (s : State) (i : Nat) : State :=
  let q := s.queues.slots.getD i {}
  let s1 := (s.setMap q.queue 0xFFFF).writeHead q
  { s1 with launches := s1.launches.filter fun (l : Launch) => !(some l.id == q.launch && l.st == LState.waiting) }.updSlot i
    fun q => { q with bound := false, launch := none }

/-- SLOTUNBIND: the queue is unmapped, a head still WAITING stays in the ring, and HEAD is written (R431). -/
def execSlotunbind (cmd : Command) (s : State) : Out :=
  if commandWithin cmd 64 1 1 1 = false then s.malformedCmd 0x08
  else
    let q := s.queues.slots.getD cmd.w1 {}
    if q.bound = false then s.finishCommand s.cmdIdx 0x08 0 q.head
    else (s.unbindSlot cmd.w1).finishCommand s.cmdIdx 0x08 0 q.head

/-! ### The cellar (R95, R96, R428, R439) -/

/-- A flash operation enters the order of its die. (DESIGN CHOICE, log entry 40.) -/
def State.startFlash (s : State) (program : Bool) (target source : Nat) : State :=
  let f : FlashOp := { id := s.sched.nextId, cmd := s.cmdIdx, program := program, target := target, source := source,
                       order := s.cellar.order }
  { s.bump with cellar := { s.cellar with ops := s.cellar.ops ++ [f], order := s.cellar.order + 1 } }

/-- PGM: a page is to be programmed from HBM (R95). -/
def execPgm (cmd : Command) (s : State) : Out :=
  if commandWithin cmd (2 ^ 30) (2 ^ 52) 1 1 = false ∨ cmd.w2 % 65536 ≠ 0 ∨ s.hbmHas cmd.w2 16384 = false
      ∨ bitAt s.presence.channels (cmd.w1 % 64) = false then s.malformedCmd 0x09
  else .next (s.startFlash true cmd.w1 cmd.w2)

/-- ERASE: an erase block is to be erased (R95). -/
def execErase (cmd : Command) (s : State) : Out :=
  if commandWithin cmd 64 (2 ^ 16) 1 1 = false ∨ bitAt s.presence.channels cmd.w1 = false then s.malformedCmd 0x0A
  else .next (s.startFlash false (cmd.w1 + 64 * cmd.w2) 0)

/-- PGREAD: a page is to be sensed, corrected and written to HBM (R428, R439). -/
def execPgread (cmd : Command) (s : State) : Out :=
  if commandWithin cmd (2 ^ 30) (2 ^ 52) 1 1 = false ∨ cmd.w2 % 16384 ≠ 0 ∨ s.hbmHas cmd.w2 16384 = false
      ∨ bitAt s.presence.channels (cmd.w1 % 64) = false then s.malformedCmd 0x0C
  else .next (s.startRead cmd.w1 0 fun r => { r with pgread := some (s.cmdIdx, cmd.w2) }).1

/-! ### Feeds (R428, R435) -/

/-- FEEDMAP: a feed page is bound to a header in an object of the context (R435). -/
def execFeedmap (cmd : Command) (s : State) : Out :=
  if commandWithin cmd 4096 (2 ^ 32) (2 ^ 48) 1 = false ∨ cmd.w3 % 128 ≠ 0 ∨ (s.ctx? cmd.ctx).isNone then s.malformedCmd 0x0B
  else
    let old := s.link.feeds.find? fun f => f.page == cmd.w1
    let f : Feed := { page := cmd.w1, ctx := cmd.ctx, obj := cmd.w2, off := cmd.w3, stage := (old.map Feed.stage).getD [] }
    { s with link := { s.link with feeds := (s.link.feeds.filter fun (f : Feed) => f.page != cmd.w1) ++ [f] } }.finishCommand s.cmdIdx 0x0B 0 0

end Sys2Proof.Machine
end

