-- ==== Sys2Proof/Machine/Links.lean ====
section
/-!
DEFINITION. Replica sets (R77), translations by the host (R49, R53), snoops (R75, R99), the loss of a pool port (R101 to
R105) and of a peer (R106, R108), and what passes between this device and its peers (R107).
-/

namespace Sys2Proof.Machine

open Sys2Proof

/-! ### Replica sets (R77) -/

/-- REPLICA_LOCK_TIMEOUT: die `tid` has not acknowledged a lock of replica set `id`: its copy is dropped. STORE of the error record is
9, the HBM of the copy, and PADDR 0. (DEDUCED, log entry 68; DESIGN CHOICE, log entry 123.) -/
def execReplicaLockTimeout (s : State) : Out :=
  let a := s.sched.args
  if bitAt (s.replica a.id a.tid) 0 = false then notNow "replicaLockTimeout: the die holds no copy"
  else
    let row := (s.caches.replicas.getD a.id []).set a.tid (clearBit (s.replica a.id a.tid) 0)
    let s1 := { s with caches := { s.caches with replicas := s.caches.replicas.set a.id row } }
    .next ((s1.errorRecord 7 9 a.tid 0 0 0 0).postEvent 5 0 (a.id % 64 + a.tid % 8 * 2 ^ 8))

/-! ### Translations by the host (R49, R53) -/

/-- ATS_COMPLETION: the host answers the translation `id`: 0 a page at `data` with rights `value` (bit 0 read, bit 1
write), 1 no access, 2 malformed. A grant enters the extent caches that it was asked for; one that lacks what the access needs
is a fault or a denial (R47, R49, R50). (DEDUCED, log entry 15.) -/
def execAtsCompletion (s : State) : Out :=
  let a := s.sched.args
  match s.caches.asks.find? fun q => q.id == a.id && q.peer.isNone && q.state == 0 with
  | none => notNow "atsCompletion: no such translation is asked for"
  | some q =>
    let desc := a.data % 2 ^ 64 / 4096 * 4096 + a.value % 4
    if a.sub = 0 && hostGrants (.ofCode q.op) desc then
      .next ({ s with caches := { s.caches with asks := s.caches.asks.filter fun k => k.id != a.id } }.enterExtent q.units q.ctx q.obj
        q.off q.entry desc)
    else
      let answer (k : Ask) : Ask := if k.id = a.id then { k with state := hostRefusal (.ofCode q.op) a.sub desc } else k
      .next { s with caches := { s.caches with asks := s.caches.asks.map answer } }

/-- The pages of HOST objects, by context and object, whose addresses under a PASID lie in a stretch that the host withdraws:
those that caches hold, those translated for accesses that are not performed, and those that are asked for (R53).
(DEDUCED, log entry 62.) -/
def State.hostPages (s : State) (pasid va len : Nat) : List (Nat × Nat × Nat) :=
  let hit (p a : Nat) : Bool := p == pasid && decide ((a % 2 ^ 64 + 2 ^ 64 - va / 4096 * 4096) % 2 ^ 64 < 4096 * (if len = 0 then 1 else len))
  let page (ctx obj i : Nat) (e : List Nat) : Option (Nat × Nat × Nat) :=
    if entryKind e == 1 && hit (entryPasid e) (entryTarget e + 4096 * i) then some (ctx, obj, i) else none
  let used := (s.reqs.flatMap Req.pieces ++ s.items.flatMap fun i => i.eff.pieces) ++ s.blocks.flatMap fun b =>
    b.threads.flatMap fun x => x.kept.pieces
  distinct ((s.caches.extents.filterMap fun x => page x.ctx x.obj x.frame x.entry)
    ++ (used.filterMap fun p => if p.scratch.isSome || p.peer.isSome then none else
      (s.entryNow p.ctx p.obj).bind fun e => page p.ctx p.obj (p.off / 4096) e)
    ++ s.caches.asks.filterMap fun a => if a.peer.isNone && hit a.pasid a.va then some (a.ctx, a.obj, a.off) else none)

/-- ATS_INVALIDATE: the host withdraws `len` pages from address `data` under PASID `id`, with tag `value`; it is told of the end
by OBJINV_COMPLETE (R53). (DEDUCED, log entry 62.) -/
def execAtsInvalidate (s : State) : Out :=
  let a := s.sched.args
  .next (s.invalidate { id := s.sched.nextId, cmd := a.value, ctx := 0, obj := 0, first := 0, count := 0, flush := false, ats := true,
                        pages := s.hostPages a.id (a.data % 2 ^ 64) a.len })

/-! ### Snoops (R75, R99) -/

/-- A snoop of a line: its remote-data copies go, its dirty bytes are written back, and the line is dropped where the
snoop demands it. -/
def State.snoop (s : State) (line : Nat) (drop : Bool) : State :=
  (s.cacheLines [{ addr := 128 * line, len := 128 }] drop).dropRemote (128 * line) 128

/-- HOST_SNOOP: the host snoops its line `data`; `ok` says that it takes the line away (R75). -/
def execHostSnoop (s : State) : Out :=
  let a := s.sched.args
  if 128 * a.data < hostKey 0 then notNow "hostSnoop: no line of the host" else .next (s.snoop a.data a.ok)

/-- BISNP: the pool device snoops the pool line `data`; `ok` says that it takes the line away (R99). -/
def execBisnp (s : State) : Out :=
  let a := s.sched.args
  match poolPort (128 * a.data / 65536) with
  | some p => if (s.ports.getD p {}).up then .next (s.snoop a.data a.ok) else notNow "bisnp: the port's link is down"
  | none => notNow "bisnp: no pool line"

/-! ### What a loss reaches (R101, R108) -/

/-- What has been lost: a pool port, or a peer. -/
inductive Gone where
  | port (n : Nat)
  | peer (n : Nat)
deriving DecidableEq, Repr

/-- Whether a place lies on it. -/
def Gone.holds (g : Gone) (p : Piece) : Bool := match g with
  | .port n => p.scratch.isNone && p.peer.isNone && poolPort (p.addr / 65536) == some n
  | .peer n => p.peer == some n

/-- The trap of an operation whose performance is not known, and its %trapaux (R102, R108). -/
def Gone.cause : Gone → Nat
  | .port _ => cPoolLost
  | .peer _ => cFatal
def Gone.aux (g : Gone) (obj : Nat) : Nat := match g with
  | .port n => auxLost obj n true
  | .peer _ => auxFatal 5 obj

/-- Whether an object of a context lies on it. -/
def Gone.names (g : Gone) (s : State) (ctx obj : Nat) : Bool := match s.ctx? ctx with
  | none => false
  | some c =>
    let e := readEntry s.mem (c.otb + 32 * obj)
    obj != 0 && decide (obj < c.otn) && s.hbmHas (c.otb + 32 * obj) 32 && !(entryInvalid e) && (match g with
      | .port n => entryKind e == 2 && bits (entryTarget e) 0 1 == n
      | .peer n => entryKind e == 3 && bits (entryTarget e) 32 16 == n)

/-- Whether an acquire, a release or a fence of a scope waits for writes that it orders there (R101 step 5; note 11 of
R132). -/
def Gone.orders (g : Gone) (sc : Scope) : Bool := match g with
  | .port _ => sc == .pool
  | .peer _ => sc == .pool || sc == .system

/-- An operation that traps: its block and thread, the PC of its word, its object or 0, and whether its word has
committed. -/
structure Cut where
  uid : Nat
  tid : Nat
  pc : Nat
  obj : Nat
  commits : Bool
deriving DecidableEq, Repr

/-- Whether an effect reaches it. -/
def Gone.reaches (g : Gone) (e : Effect) : Bool := e.pieces.any g.holds

/-- The object that the committed writes of a thread to it name that are waited for: 0 where they name several (R102). -/
def State.lostObj (s : State) (g : Gone) (uid tid : Nat) (all : Bool) : Nat :=
  match distinct ((s.items.filter fun i => i.blk == uid && i.tid == tid && i.committed.isSome && g.reaches i.eff && drainFence all i).flatMap fun i =>
      i.eff.pieces.map Piece.obj) with
  | [o] => o
  | _ => 0

/-- Whether a thread has a committed write that is to reach it and that a release, an acquire or a fence of a kind orders (R116). -/
def State.writesTo (s : State) (g : Gone) (uid tid : Nat) (all : Bool) : Bool :=
  s.pendingIn (fun i => g.reaches i.eff && drainFence all i) uid tid

/-- Returning atomics that are outstanding there (R101 step 4). (DEDUCED, log entry 64.) -/
def State.cutAtoms (s : State) (g : Gone) : List Cut :=
  (s.reqs.filter fun r => r.isAtom && r.pieces.any g.holds).map fun r =>
    { uid := r.blk, tid := r.tid, pc := r.pc, obj := (r.pieces.map Piece.obj).headD 0, commits := true }

/-- Acquires, releases and fences that wait on a write there (R101 step 5). (DEDUCED, log entry 64.) -/
def State.cutScopes (s : State) (g : Gone) : List Cut :=
  ((s.reqs.filter fun r => r.isAcquire && g.orders r.scope && !(r.pieces.any g.holds) && s.releasing r.blk r.tid
      && s.writesTo g r.blk r.tid false).map fun r =>
    ({ uid := r.blk, tid := r.tid, pc := r.pc, obj := s.lostObj g r.blk r.tid false, commits := false } : Cut))
  ++ ((s.items.filter fun i => i.committed.isSome && (match i.eff with
        | .release _ _ sc => g.orders sc
        | _ => false) && s.writesTo g i.blk i.tid false).map fun i =>
    ({ uid := i.blk, tid := i.tid, pc := i.pc, obj := s.lostObj g i.blk i.tid false, commits := true } : Cut))
  ++ (s.blocks.flatMap fun b => (b.threads.filter Thread.mid).filterMap fun x => match s.fetchWord b x.space x.pc with
        | (_, .ok w) => match decode w with
          | .ok (.fence m) =>
            if g.orders m.scope && s.writesTo g b.uid x.tid (m.size != 0) then
              some ({ uid := b.uid, tid := x.tid, pc := pc48 x.pc, obj := s.lostObj g b.uid x.tid (m.size != 0), commits := true } : Cut)
            else none
          | _ => none
        | _ => none)

/-- A thread whose operation is cut off stands at its word again, with nothing of it outstanding. One whose word has
committed runs pinned with an effect performed, as after a commit-class word that no `rgn` follows (R207).
(DEDUCED, log entry 64.) -/
def State.cutThread (s : State) (c : Cut) : State :=
  let s1 := s.updThread c.uid c.tid fun x =>
    if c.commits then { x with bound := false, mid := false, kept := {}, pinned := true, perf := true, pc := (c.pc : Nat) }
    else { x with pc := (c.pc : Nat) }
  { s1 with reqs := s1.reqs.filter fun r => !(r.blk == c.uid && r.tid == c.tid) }

/-- The operations that are cut off trap: those of one group together (R101 steps 4 and 5, R239).
(DEDUCED, log entry 64.) -/
def State.cutAll (s : State) (g : Gone) (cuts : List Cut) : State :=
  let s1 := cuts.foldl State.cutThread s
  let one (s : State) (c : Cut) : State :=
    match s.block? c.uid, s.thread? c.uid c.tid with
    | some b, some x =>
      if x.st == .exited then s
      else ((s.trace b c.tid 0x12 g.cause c.pc (g.aux c.obj) 0 none).unfile c.uid c.tid).trapThread c.uid c.tid g.cause (g.aux c.obj)
        (c.pc : Nat)
    | _, _ => s
  let groups := distinct (cuts.filterMap fun c => (s1.groupOf c.uid c.tid).map Group.gid)
  let s2 := groups.foldl (fun t gid =>
    let mine := cuts.filter fun c => (s1.groupOf c.uid c.tid).any fun h => h.gid == gid
    match mine with
    | c :: _ => t.takeTraps gid ((mine.filter fun d => d.pc == c.pc).map fun d => (d.tid, g.cause, g.aux d.obj)) (c.pc : Nat)
    | [] => t) s1
  (cuts.filter fun c => (s1.groupOf c.uid c.tid).isNone).foldl one s2

/-- An outstanding load of a pinned group completes poisoned in what lies there (R101 step 3). -/
def State.poisonLoad (s : State) (g : Gone) (r : Req) : State :=
  (List.range r.pieces.length).foldl (fun t j => match t.reqs.find? fun q => q.id == r.id with
    | some q => match (q.due j).filter g.holds with
      | some p => t.tick.gotPiece q j { bytes := (List.range p.len).map fun i => Config.freeByte t.sched.fresh i,
                                        psn := List.replicate p.len true, tag := false }
      | none => t
    | none => t) s

/-- Whether a thread runs pinned: its group does, or it does itself (R209). -/
def State.ranPinned (s : State) (uid tid : Nat) : Bool := match s.groupOf uid tid, s.block? uid with
  | some g, some b => groupPinned (b.members g.tids)
  | _, _ => (s.thread? uid tid).any fun x => x.pinned || x.handler.isSome

/-- Loads that are outstanding there: poisoned in pinned groups, and with their regions discarded elsewhere, as with open
entries (R101 steps 2 and 3). (DEDUCED, log entry 64.) -/
def State.cutLoads (s : State) (g : Gone) : State :=
  let loads := s.reqs.filter fun r => !r.isAtom && (List.range r.pieces.length).any fun j => (r.due j).any g.holds
  let s1 := (loads.filter fun r => s.ranPinned r.blk r.tid).foldl (fun t r => t.poisonLoad g r) s
  let redo := distinct (((loads.filter fun r => !(s.ranPinned r.blk r.tid)).map fun r => (r.blk, r.tid))
    ++ (s1.items.filter fun i => i.committed.isNone && g.reaches i.eff).map fun i => (i.blk, i.tid))
  redo.foldl (fun t q =>
    if (t.reqs.any fun r => r.blk == q.1 && r.tid == q.2 && !r.isAtom && r.pieces.any g.holds)
        || (t.items.any fun i => i.blk == q.1 && i.tid == q.2 && i.committed.isNone && g.reaches i.eff) then
      t.redoGroup q.1 q.2
    else t) s1

/-- Commands whose source or destination lies there are marked failed (R101 step 7, R149). -/
def State.cutCommands (s : State) (g : Gone) : State :=
  let at1 (ctx : Nat) : Loc → Bool
    | .object cap _ => g.names s ctx cap.obj
    | .spad _ _ => false
  let mark (c : Cmd) : Cmd := if at1 c.ctx c.src || at1 c.ctx c.dst then { c with failed := true } else c
  { s with engines := { s.engines with cmds := s.engines.cmds.map mark } }

/-! ### Salvage (R101 step 6, R103) -/

/-- One port changed. -/
def State.updPort (s : State) (n : Nat) (f : Port → Port) : State :=
  { s with ports := s.ports.mapIdx fun i p => if i = n then f p else p }

/-- An entry or line that is lost is counted, saturating. -/
def Port.countLost (p : Port) : Port := { p with lostlines := if p.lostlines < 2 ^ 32 - 1 then p.lostlines + 1 else p.lostlines }

/-- A salvage record of bytes of a line, or its loss; each port counts its own records, from 0.
(DESIGN CHOICE, log entry 97.) -/
def State.salvage (s : State) (port line : Nat) (bs : List (Nat × Byte)) : State :=
  let p := s.ports.getD port {}
  if p.salvbase = 0 then s.updPort port Port.countLost
  else if p.salvhead + 160 > p.salvlen then s.updPort port fun p => { p.countLost with salvfull := true }
  else
    let mask := bs.foldl (fun m b => setBit m (b.1 % 128)) 0
    let data := (List.range 128).map fun i => match bs.find? fun b => b.1 % 128 == i with
      | some b => b.2
      | none => 0
    (s.devWrite (p.salvbase + p.salvhead)
      (natToBytes 8 (128 * line % 2 ^ 55 + port * 2 ^ 55) ++ natToBytes 8 p.salvseq ++ natToBytes 16 mask ++ data)).updPort port
        fun p => { p with salvhead := p.salvhead + 160, salvseq := (p.salvseq + 1) % 2 ^ 64 }

/-- The bytes of an entry by address: a reduction holds an operand and no bytes of memory, so its bytes are free.
(DEDUCED, log entry 63.) -/
def State.entryBytes (s : State) (e : Effect) : List (Nat × Byte) :=
  let places := e.pieces.flatMap fun p => (List.range p.len).map fun i => p.addr + i
  let data : List Byte := match e with
    | .store ps d => natToBytes (lenOf ps) d
    | .release ps d _ => natToBytes (lenOf ps) d
    | .cap _ b _ => natToBytes 16 b
    | _ => places.mapIdx fun i _ => Config.freeByte s.sched.fresh i
  places.zip data

/-- Bytes of committed effects under the store-buffer entry that holds them: stores of one group and instance share a chunk's
entry (R79), and each lane of a reduction has its own. -/
def Item.parts (i : Item) (bs : List (Nat × Byte)) : List ((Nat × Nat × Nat × Nat) × List (Nat × Byte)) :=
  (distinct (bs.map fun b => b.1 / 32)).map fun k =>
    (if i.eff.chunks.isEmpty then (0, i.id, 0, k) else (i.blk, i.gid, i.inst, k), bs.filter fun b => b.1 / 32 == k)

/-- Committed entries there are salvaged in the order of their commits, one record each, and freed.
(DEDUCED, log entry 63.) -/
def State.salvageEntries (s : State) (port : Nat) : State :=
  let g := Gone.port port
  let mine := s.items.filter fun i => i.committed.isSome && g.reaches i.eff
  let sorted := mine.foldl (fun l i =>
    (l.takeWhile fun j => j.committed.getD 0 ≤ i.committed.getD 0) ++ [i] ++ (l.dropWhile fun j => j.committed.getD 0 ≤ i.committed.getD 0)) []
  let r := sorted.foldl (fun (r : State × List ((Nat × Nat × Nat × Nat) × List (Nat × Byte))) i =>
    (r.1.tick, r.2 ++ i.parts (r.1.entryBytes i.eff))) (s, [])
  let s1 := (distinct (r.2.map Prod.fst)).foldl (fun s k =>
    s.salvage port (k.2.2.2 / 4) ((r.2.filter fun q => q.1 == k).flatMap Prod.snd).reverse) r.1
  { s1 with items := s1.items.filter fun i => !(i.committed.isSome && g.reaches i.eff) }

/-- A dirty line is salvaged; what the pool device holds in place of its dirty bytes is free.
(DESIGN CHOICE, log entry 20.) -/
def State.salvageLine (s : State) (port : Nat) (h : HomeLine) : State :=
  let dirty := (List.range 128).filter fun i => bitAt h.dirty i
  if dirty = [] then s
  else
    let s1 := s.salvage port h.line (dirty.map fun i => (i, s.mem.byte (128 * h.line + i)))
    let m := dirty.foldl (fun (m : Mem) i => { m with cells := setCells (128 * h.line + i) [Config.freeByte s.sched.fresh i] m.cells }) s1.mem
    { s1.tick with mem := m }

/-- Dirty lines of the port are salvaged, and every line of it and its copies are dropped, which triggers their watches.
(DEDUCED, log entry 63.) -/
def State.salvageLines (s : State) (port : Nat) : State :=
  let mine (l : Nat) : Bool := poolPort (128 * l / 65536) == some port
  let lines := s.caches.home.filter fun h => mine h.line
  let s1 := lines.foldl (fun s h => (s.salvageLine port h).trigger none (128 * h.line) 128) s
  { s1 with caches := { s1.caches with
      home := s1.caches.home.filter fun h => !(mine h.line)
      rdc := s1.caches.rdc.filter fun r => !(r.peer.isNone && mine r.line) } }

/-! ### Losing a pool port (R101, R104, R105) -/

/-- The POOL objects on a port, by context: each needs an object-invalidate after the port's loss (R105). -/
def State.segments (s : State) (g : Gone) : List (Nat × Nat) :=
  s.ctxs.flatMap fun c => ((List.range c.otn).filter fun o => g.names s c.n o).map fun o => (c.n, o)

/-- A port loses its link: the steps of R101, then the event for the firmware. (DEDUCED, log entry 63.) -/
def State.losePort (s : State) (port : Nat) : State :=
  let g := Gone.port port
  let hit (x : Extent) : Bool := entryKind x.entry == 2 && bits (entryTarget x.entry) 0 1 == port
  let s1 := s.updPort port fun p => { p with lost := true, lostSegs := distinct (p.lostSegs ++ s.segments g) }
  let s2 := { s1 with caches := { s1.caches with extents := s1.caches.extents.map fun x => if hit x then { x with lost := true } else x } }
  let s3 := s2.cutAll g (s2.cutAtoms g ++ s2.cutScopes g)
  let s4 := ((s3.cutLoads g).salvageEntries port).salvageLines port
  (s4.cutCommands g).postEvent 6 0 port

/-- The loss of a port, whose salvage area must have its place. -/
def State.portLost (s : State) (port : Nat) : Out :=
  let p := s.ports.getD port {}
  if p.salvbase ≠ 0 ∧ s.hbmHas p.salvbase p.salvlen = false then .fault (.noSuchAddress p.salvbase) else .next (s.losePort port)

/-- A port of a number. -/
def State.port? (s : State) (n : Nat) : Option Port := s.ports[n]?

/-- POOL_RECOVERY_TIMEOUT: the link of port `id` has left L0 and has not returned within the recovery limit (R101).
(DESIGN CHOICE, log entry 107.) -/
def execPoolRecoveryTimeout (s : State) : Out :=
  if (s.port? s.sched.args.id).any fun p => p.left && !p.lost && decide (p.leftAt + p.recLimit < s.sched.now) then
    s.portLost s.sched.args.id
  else notNow "poolRecoveryTimeout: the link is not recovering, or the limit is not reached"

/-- Whether a request or a committed entry to a port has waited longer than some clocks (R101). -/
def State.overdueAt (s : State) (g : Gone) (limit : Nat) : Bool :=
  (s.reqs.any fun r => r.pieces.any g.holds && decide (r.gateSince + limit < s.sched.now))
  || s.items.any fun i => i.committed.isSome && g.reaches i.eff && decide (i.gateSince + limit < s.sched.now)

/-- POOL_COMPLETION_TIMEOUT: a request to port `id` has passed its completion timeout (R101).
(DESIGN CHOICE, log entry 107.) -/
def execPoolCompletionTimeout (s : State) : Out :=
  let n := s.sched.args.id
  if (s.port? n).any fun p => !p.lost && s.overdueAt (.port n) p.cplLimit then s.portLost n
  else notNow "poolCompletionTimeout: no request to the port has passed its limit"

/-- POOL_VIRAL_SIGNAL: the pool device of port `id`, or a switch, signals viral or an uncorrectable link error (R101). -/
def execPoolViralSignal (s : State) : Out :=
  if (s.port? s.sched.args.id).any fun p => p.up && !p.lost then s.portLost s.sched.args.id
  else notNow "poolViralSignal: the port's link is not up"

/-- Clocks of n milliseconds, within 1 to 64; 0 keeps a limit as it is. (DESIGN CHOICE, log entry 107.) -/
def limitClocks (n old : Nat) : Nat := if n = 0 ∨ 64 < n then old else 1050000 * n

/-- POOL_LINK_UP: the link of port `id` is in L0 with CXL.mem enabled (R104); firmware sets its recovery limit to `len` and its
completion timeout to `sub` milliseconds (R101). (DESIGN CHOICE, log entries 16 and 107.) -/
def execPoolLinkUp (s : State) : Out :=
  let a := s.sched.args
  if (s.port? a.id).any (fun p => !p.up) && bitAt s.presence.ports a.id then
    .next (s.updPort a.id fun p =>
      { p with up := true, left := false, recLimit := limitClocks a.len p.recLimit, cplLimit := limitClocks a.sub p.cplLimit })
  else notNow "poolLinkUp: no such link is down"

/-- POOL_LINK_EXIT_L0: the link of port `id` leaves L0 (R101, R104). (DESIGN CHOICE, log entry 16.) -/
def execPoolLinkExitL0 (s : State) : Out :=
  if (s.port? s.sched.args.id).any Port.up then
    .next (s.updPort s.sched.args.id fun p => { p with up := false, left := true, leftAt := s.sched.now })
  else notNow "poolLinkExitL0: the link is not up"

/-- A write of PORTSTAT (R104): LOST clears on a 1 while UP is 1, SALVFULL on a 1, LOSTLINES on a field of 0. -/
def Port.writeStat (p : Port) (v : Nat) : Port :=
  { p with lost := p.lost && !(bitAt v 1 && p.up), salvfull := p.salvfull && !(bitAt v 2),
           lostlines := if bits v 16 32 = 0 then 0 else p.lostlines }

/-- PORTSTAT as it reads (R104). -/
def Port.stat (p : Port) : Nat := bit p.up + bit p.lost * 2 + bit p.salvfull * 4 + p.lostlines * 2 ^ 16

/-- PORTSTAT_WRITE: software writes `value` to PORTSTAT of port `id` (R104). -/
def execPortstatWrite (s : State) : Out :=
  if (s.port? s.sched.args.id).isSome then .next (s.updPort s.sched.args.id fun p => p.writeStat s.sched.args.value)
  else notNow "portstatWrite: no such port"

/-! ### Losing a peer (R106, R108) -/

/-- The peers that outstanding operations, committed entries and commands may concern. -/
def State.peersInUse (s : State) : List Nat :=
  let named (ps : List Piece) : List Nat := ps.filterMap Piece.peer
  distinct ((s.reqs.flatMap fun r => named r.pieces) ++ (s.items.flatMap fun i => named i.eff.pieces)
    ++ s.caches.asks.filterMap Ask.peer ++ s.routes.map Prod.fst)

/-- Messages to a peer that it has not acknowledged are given up: commands fail with what they wait for (R108, R149). -/
def State.giveUp (s : State) (peer : Nat) : State :=
  let ids := (s.caches.peerOut.filter fun m => m.peer == peer && m.id != 0).map PeerMsg.id
  let s1 := { s with
    caches := { s.caches with peerOut := s.caches.peerOut.map fun (m : PeerMsg) => if m.peer = peer then { m with id := 0 } else m }
    engines := { s.engines with cmds := s.engines.cmds.map fun c => if c.acks.any ids.contains then { c with failed := true } else c } }
  ids.foldl State.ackCmd s1

/-- A peer that no live link reaches any more: steps 2 to 5 of R101, its lines go, its commands fail, and what waits for its
answers walks again. Committed entries there have no place to go and are discarded. (DESIGN CHOICE, log entry 122.) -/
def State.losePeer (s : State) (peer : Nat) : State :=
  let g := Gone.peer peer
  let s1 := s.cutAll g (s.cutAtoms g ++ s.cutScopes g)
  let s2 := s1.cutLoads g
  let recs := s2.faults.filter fun r => r.peer.isSome && ((s2.caches.asks.any fun a => some a.id == r.peer && a.peer == some peer)
    || g.names s2 r.ctx r.obj)
  let s3 := { s2 with
    items := s2.items.filter fun i => !(i.committed.isSome && g.reaches i.eff)
    caches := { s2.caches with asks := s2.caches.asks.filter fun a => a.peer != some peer
                               rdc := s2.caches.rdc.filter fun r => r.peer != some peer } }
  recs.foldl (fun s r => s.answerRecord r false) ((s3.cutCommands g).giveUp peer)

/-- Links or routes have changed: every peer that was reached and is no longer is lost. -/
def State.afterLinks (s before : State) : State :=
  (before.peersInUse.filter fun p => before.peerReached p && !(s.peerReached p)).foldl State.losePeer s

/-- SWIRIL_LINK_DOWN: link `id` is down (R106, R108). -/
def execSwirilLinkDown (s : State) : Out :=
  let l := s.sched.args.id
  if bitAt s.linksUp l then .next ({ s with linksUp := clearBit s.linksUp l }.afterLinks s)
  else notNow "swirilLinkDown: the link is down"

/-! ### Peers (R107) -/

/-- Sectors of a peer's line that a read has brought across enter the remote-data cache (R75). (DEDUCED, log entry 66.) -/
def State.fillPeer (s : State) (die peer : Nat) (p : Piece) (data : Nat) (psn : Bool) : State :=
  let first := p.addr / 32 * 32
  (linesOf p.addr p.len).foldl (fun s l =>
    let mask := sectorMask l p.addr p.len
    s.noteRemote { die := die, line := l, sectors := mask, peer := some peer, poison := if psn then mask else 0
                   data := (List.range 128).map fun i =>
                     if first ≤ 128 * l + i then BitVec.ofNat 8 (bits data (8 * (128 * l + i - first)) 8) else 0 }) s

/-- Piece j of a load has been read at its peer, which returns `data`: the piece's bytes, or the whole sectors of a cacheable one
(R75). (DEDUCED, log entry 66.) -/
def State.peerRead (s0 : State) (r : Req) (j : Nat) (p : Piece) (peer data : Nat) (psn : Bool) : State :=
  let s := (if r.got.isEmpty then s0.sheetOf r else s0).send
    { peer := peer, obj := p.addr / 2 ^ 48, off := p.off, len := p.len, op := 1, data := bit p.cached }
  let at1 := if p.cached then p.addr % 32 else 0
  let t := if p.cached then s.fillPeer (dieOf r.core) peer p data psn else s
  t.gotPiece r j { bytes := natToBytes p.len (data / 2 ^ (8 * at1)), psn := List.replicate p.len psn, tag := false }

/-- A lane of a returning atomic has been performed at its peer, which returns what stood there. -/
def State.peerAtom (s0 : State) (r : Req) (data : Nat) (psn : Bool) : State :=
  let s := s0.sheetOf r
  match r.kind, r.pieces with
  | .atom _ op t _ opnd new, p :: _ => (s.atomPiece (some r.core) p op t opnd new).1.atomDone r data psn
  | _, _ => s

/-- The lanes of a returning atomic's word on its location, performed at a peer: dword k of `data` is for lane k. -/
def State.peerLanes (s : State) (r : Req) (data : Nat) (psn : Bool) : List WordLane :=
  (s.sameWord r).mapIdx fun k q => (s.reqKey q, fun t => t.peerAtom q (bits data (64 * k) 64) psn)

/-- The answer of a peer to a check: 1 granted, 2 denied with sub-code and right bit `value`, 3 a translation fault that is not
answered, 4 failed; 5 and 6 the answers RETRY and FAIL to such a fault (R51, R107). (DESIGN CHOICE, log entry 65.) -/
def State.peerAnswer (s : State) (id sub value data : Nat) (psn : Bool) : State :=
  let drop (t : State) : State := { t with caches := { t.caches with asks := t.caches.asks.filter fun q => q.id != id } }
  let set (st : Nat) : State :=
    { s with caches := { s.caches with asks := s.caches.asks.map fun (q : Ask) =>
        if q.id = id then { q with state := st, sub := value % 2 ^ 16, data := data, psn := psn } else q } }
  if sub ≤ 4 then set (if sub = 3 then 5 else sub)
  else match s.faults.find? fun r => r.peer == some id with
    | some r => drop (s.answerRecord r (sub == 6))
    | none => if sub = 5 then drop s else set 4

/-- Whether a check `id` may be answered so. -/
def State.checkOpen (s : State) (id sub : Nat) : Bool :=
  (decide (1 ≤ sub) && decide (sub ≤ 4) && s.caches.asks.any fun q => q.id == id && q.peer.isSome && q.state == 0)
  || ((sub == 5 || sub == 6) && ((s.caches.asks.any fun q => q.id == id && q.peer.isSome && q.state == 5)
    || s.faults.any fun r => r.peer == some id))

/-- A message is acknowledged: the write has been performed at the peer, its entry is freed, and its watches trigger (R107,
R157). (DESIGN CHOICE, log entry 65.) -/
def State.acknowledged (s : State) (m : PeerMsg) : State :=
  let place := peerPlace m.obj m.off
  let freed (i : Item) : Option Item :=
    if i.sent.contains m.id then
      (if (i.sent.filter fun k => k != m.id).isEmpty then none else some { i with sent := i.sent.filter fun k => k != m.id })
    else some i
  let s1 := { s with
    items := s.items.filterMap freed
    caches := { s.caches with peerOut := s.caches.peerOut.map fun (q : PeerMsg) => if q.id = m.id then { q with id := 0 } else q } }
  ((s1.dropPeerLines m.peer place m.len).trigger none (watchAt (some m.peer) place) m.len).ackCmd m.id

/-- A message is answered: one that asked for a line fills it in (R359), any other has been performed.
(DESIGN CHOICE, log entry 65.) -/
def State.answered (s : State) (m : PeerMsg) (data : Nat) (psn : Bool) : State := match m.fill with
  | some d =>
    let t := s.fillPeer d m.peer { addr := peerPlace m.obj m.off, len := m.len, peer := some m.peer, cached := true } data psn
    let done (q : PeerMsg) : PeerMsg := if q.id = m.id then { q with id := 0 } else q
    { t with caches := { t.caches with peerOut := t.caches.peerOut.map done } }
  | none => s.acknowledged m

/-- PEER_RESPONSE: a peer answers the check `id` (`ok`, with `sub` as in `State.peerAnswer`), returns `data` for piece `sub` of the
load or for the returning atomic `id`, or acknowledges the message `id`. `alt` marks poison. (DESIGN CHOICE, log entry 65.) -/
def execPeerResponse (s : State) : Out :=
  let a := s.sched.args
  if a.ok then
    if s.checkOpen a.id a.sub then .next (s.peerAnswer a.id a.sub a.value a.data a.alt)
    else notNow "peerResponse: no such check"
  else match s.reqs.find? fun r => r.id == a.id with
    | some r =>
      if r.isAtom then
        if s.wordReady r && (r.pieces.all fun p => p.peer.isSome) && (s.reqKey r).all fun k => !(s.gateHolds k) || s.gateHead k then
          .next (State.runWord (s.peerLanes r a.data a.alt) (s.lockReqs (s.sameWord r)))
        else notNow "peerResponse: the atomic must wait"
      else match r.due a.sub with
        | some p => match p.peer with
          | some q => if s.respondable r then .next (s.peerRead r a.sub p q a.data a.alt) else notNow "peerResponse: the access must wait"
          | none => notNow "peerResponse: the piece is not at a peer"
        | none => notNow "peerResponse: no such piece"
    | none => match s.caches.peerOut.find? fun m => m.id == a.id && m.op != 0 && m.op != 9 with
      | some m => if a.id = 0 then notNow "peerResponse: no such request" else .next (s.answered m a.data a.alt)
      | none => notNow "peerResponse: no such request"

/-- What a request of a peer asks: 0 a check of the operation `data`, 9 one with a read, 1 a read, 2 a write, 3 a wide sum, 4 the
end of copies of the peer's lines, 16 + k + 32 · tag an atomic. (DESIGN CHOICE, log entry 65.) -/
def peerOp (sub data : Nat) : AccOp :=
  if sub = 0 ∨ sub = 9 then AccOp.ofCode data else if sub = 1 then opLoad else if sub = 2 then opStore else opAtomic

/-- Whether a request of a peer is well formed. (DESIGN CHOICE, log entry 65.) -/
def peerForm (sub off len : Nat) : Bool :=
  decide (0 < len) && decide (len ≤ 4096)
  && (if sub ≤ 2 ∨ sub = 4 ∨ sub = 9 then true
      else if sub = 3 then len == 16 && off % 16 == 0
      else decide (16 ≤ sub) && decide (sub % 32 - 16 < 8) && decide (sub % 32 ≥ 16) && off % len == 0
        && (match Tag.ofCode (sub / 32) with
            | some t => decide (len ≤ 8) && decide (t.width ≤ 8 * len) && 8 * len % t.width == 0
            | none => false))

/-- A peer's request is performed at its places (R107): the state after it and what the peer receives.
(DESIGN CHOICE, log entry 65.) -/
def State.serve (s : State) (sub data len : Nat) (ps : List Piece) : State × Nat × Bool :=
  match ps with
  | [] => (s, 0, false)
  | p :: _ =>
    if sub = 0 then (s, 0, false)
    else if sub = 1 ∨ sub = 9 then
      (s, bytesToNat (ps.flatMap fun q => (s.agentBytes q).1), (ps.flatMap fun q => (s.agentBytes q).2).any id)
    else if sub = 2 then (s.writePieces none ps (natToBytes len data), 0, false)
    else if sub = 3 then (s.wsumPiece none p (data % 2 ^ 128), 0, false)
    else
      let r := s.atomPiece none p (sub % 32 - 16) ((Tag.ofCode (sub / 32)).getD .raw) (data % 2 ^ 64) (data / 2 ^ 64)
      (r.1, r.2.1, r.2.2)

/-- Lines of which a peer takes a copy: this device's directory lends them, and the copies go with the next write (R75).
(DESIGN CHOICE, log entry 65.) -/
def State.lend (s : State) (peer obj : Nat) (ps : List Piece) : State :=
  let lent := (ps.filter fun p => p.cached && p.peer.isNone).flatMap fun p => (linesOf p.addr p.len).map fun l =>
    ({ peer := peer, obj := obj, off := p.off + 128 * l - p.addr, line := l } : Lent)
  { s with caches := { s.caches with lent := distinct (s.caches.lent ++ lent) } }

/-- PEER_REQUEST: peer `id` / 65,536 asks for `len` bytes of object `tid` at offset `value`, checked against the table of
context `id` mod 65,536 under R46; `alt` says that a read takes a copy of its lines. The answer is a message: 4 what was read, 5 the
same poisoned, 6 a denial with its sub-code and right bit, 7 a failure, 10 a translation fault, whose record's answer follows as 11
RETRY or 12 FAIL. (DESIGN CHOICE, log entry 65; DEDUCED, log entry 67.) -/
def execPeerRequest (s : State) : Out :=
  let a := s.sched.args
  let ctx := a.id % 65536
  let peer := a.id / 65536
  if peerForm a.sub a.value a.len = false then notNow "peerRequest: no request has this form"
  else if a.sub = 4 then
    let place := peerPlace a.tid a.value
    .next ((s.dropPeerLines peer place a.len).trigger none (watchAt (some peer) place) a.len)
  else
    let answer (t : State) (op data : Nat) : Out :=
      .next ((t.dropAsks (t.asker none)).send { peer := peer, obj := a.tid, off := a.value, len := a.len, op := op, data := data })
    match translate s none 0 ctx a.tid a.value a.len (peerOp a.sub a.data) with
    | (s1, .ok ps) =>
      if a.sub ≠ 0 ∧ ps.any fun p => s1.lockedOut 0 p || s1.cutOff p then notNow "peerRequest: the place must wait"
      else
        let r := (if a.sub = 1 ∧ a.alt then s1.lend peer a.tid ps else s1).serve a.sub a.data a.len ps
        answer r.1 (if r.2.2 then 5 else 4) r.2.1
    | (s1, .cellar _ _) => answer s1 6 2
    | (s1, .trap c x) => if c = cPermission then answer s1 6 (x % 2 ^ 16) else answer s1 7 0
    | (s1, .wait) => .next s1
    | (s1, .tfault fs) =>
      let q := s1.recordFaults 0 0 fs
      let asked := (peer, a.tid, a.value, a.len)
      answer { q.1 with faults := q.1.faults.map fun r =>
        if r.ctx = ctx ∧ q.2.contains r.seq then { r with remote := distinct (r.remote ++ [asked]) } else r } 10 0
    | (_, .noMem x) => .fault (.noSuchAddress x)

end Sys2Proof.Machine
end

