-- ==== Sys2Proof/Machine/Doorbells.lean ====
section
/-!
DEFINITION. Kicks, the catcher and PENDING (R426, R430, R436), ageing (R432), feeds (R191, R435), the event ring (R437,
R438), residency entries (R383, R426), the watchdog (R440), and the clearing of counts (R443, R446).
-/

namespace Sys2Proof.Machine

open Sys2Proof

/-! ### Kicks (R430, R436) -/

/-- Queues that PENDING marks, changed. -/
def State.setPending (s : State) (q : Nat) (on : Bool) : State :=
  { s with queues := { s.queues with pending := if on then insertNat q s.queues.pending else eraseNat q s.queues.pending } }

/-- A queue counts as kicked: its slot reads TAIL, or PENDING marks it and the firmware is woken.
(DEDUCED, log entry 71.) -/
def State.noticeKick (s : State) (q : Nat) : State :=
  let j := s.mapped q
  if j < 64 then s.updSlot j fun k => { k with tail := s.mem.read (s.qcbAt q + 12) 4 }
  else (s.setPending q true).postEvent 1 0 q

/-- A kick of a queue with a value. -/
def State.kick (s : State) (q v : Nat) : Out :=
  let a := s.qcbAt q + 12
  if s.hbmHas a 4 = false then .fault (.noSuchAddress a) else .next ((s.devStore a 4 (v % 2 ^ 32)).noticeKick q)

/-- Kicks one after another. -/
def kickAll : List (Nat × Nat) → State → Out
  | [], s => .next s
  | (q, v) :: r, s => match s.kick q v with
    | .next s1 => kickAll r s1
    | o => o

/-- NOTIFY_KICK: a doorbell write of `value` to the notify page of queue `id`. -/
def execNotifyKick (s : State) : Out :=
  let a := s.sched.args
  if a.id ≥ 4096 ∨ s.link.gated then notNow "notifyKick: no such page, or the aperture is gated" else s.kick a.id a.value

/-- The catcher takes a kick (R436). (DEDUCED, log entry 71.) -/
def HostLink.catchKick (l : HostLink) (q v : Nat) : HostLink :=
  if l.catcher.any fun e => e.1 == q then { l with catcher := l.catcher.map fun e => if e.1 = q then (q, v) else e }
  else if l.catcher.length < 64 then { l with catcher := l.catcher ++ [(q, v)] }
  else { l with ovf := true }

/-- CATCHER_KICK: a doorbell write to the page of queue `id` while the notify aperture is gated. -/
def execCatcherKick (s : State) : Out :=
  let a := s.sched.args
  if a.id ≥ 4096 then notNow "catcherKick: no such page"
  else .next { s with link := { s.link.catchKick a.id (a.value % 2 ^ 64) with gated := true } }

/-- CATCHER_REPLAY: the notify aperture powers up: the kicks held are replayed in the order their pages were caught, and
after an overflow every queue counts as kicked. (DEDUCED, log entry 71.) -/
def execCatcherReplay (s : State) : Out :=
  if s.link.gated = false then notNow "catcherReplay: the aperture is not gated"
  else match kickAll s.link.catcher { s with link := { s.link with gated := false, catcher := [] } } with
    | .next s1 => .next (if s.link.ovf then (List.range 4096).foldl State.noticeKick s1 else s1)
    | o => o

/-- Bits of PENDING are cleared (R426): dword k of the register. -/
def State.clearPending (s : State) (k v : Nat) : State :=
  { s with queues := { s.queues with pending := s.queues.pending.filter fun q => !(q / 64 == k && bitAt v (q % 64)) } }

/-- PENDING_WRITE: a write of `value` to dword `id` of PENDING. -/
def execPendingWrite (s : State) : Out :=
  if s.sched.args.id < 64 then .next (s.clearPending s.sched.args.id s.sched.args.value)
  else notNow "pendingWrite: PENDING has 64 dwords"

/-- CATCHSTAT is written: OVF clears on a 1 (R426). -/
def State.writeCatchstat (s : State) (v : Nat) : State := { s with link := { s.link with ovf := s.link.ovf && !(bitAt v 0) } }

/-- CATCHSTAT_WRITE: a write of `value` to CATCHSTAT. -/
def execCatchstatWrite (s : State) : Out := .next (s.writeCatchstat s.sched.args.value)

/-! ### Ageing (R432) -/

/-- Fields of a queue's QCB (R430). -/
def State.qcbCtl (s : State) (q : Nat) : Nat := s.mem.read (s.qcbAt q + 16) 8
def State.qcbEff (s : State) (q : Nat) : Nat := bits (s.qcbCtl q) 19 3
def State.qcbPrio (s : State) (q : Nat) : Nat := bits (s.qcbCtl q) 16 3

/-- EFF of a queue's QCB is written. -/
def State.setEff (s : State) (q e : Nat) : State :=
  s.devStore (s.qcbAt q + 16) 8 (s.qcbCtl q - s.qcbEff q * 2 ^ 19 + e * 2 ^ 19)

/-- Firmware unbinds a slot: EFF returns to PRIO, and PENDING says whether the ring holds commands. -/
def State.evictSlot (s : State) (j : Nat) : State :=
  let q := s.queues.slots.getD j {}
  ((s.unbindSlot j).setEff q.queue (s.qcbPrio q.queue)).setPending q.queue (q.head != q.tail)

/-- Firmware binds a queue to a slot. -/
def State.bindSlot (s : State) (j q : Nat) : State :=
  ((s.updSlot j fun _ => s.boundSlot q (s.qcbPrio q)).setMap q j).setPending q false

/-- Pending queues that a slot could take: unmapped, with a QCB that is well formed. -/
def State.waitingQueues (s : State) : List Nat :=
  s.queues.pending.filter fun q => decide (s.mapped q ≥ 64) && s.hbmHas (s.qcbAt q) 64 && decide ((s.boundSlot q 0).log2n ≥ 4)

/-- The pending queue of the highest EFF, the lower number of equal ones. -/
def State.bestQueue (s : State) : Option Nat := leastBy (fun q => 7 - s.qcbEff q) s.waitingQueues

/-- The slot to give up: the lowest EFF among those bound for an interval, then the longest bound, then the lower slot.
(DEDUCED, log entry 76.) -/
def State.victimSlot (s : State) : Option Nat :=
  let f (j : Nat) : Nat :=
    let q := s.queues.slots.getD j {}
    q.eff * 2 ^ 64 + min q.since (2 ^ 64 - 1)
  leastBy f ((List.range 64).filter fun j => let q := s.queues.slots.getD j {}; q.bound && decide (q.boundFor ≥ 1))

/-- Whether a bound slot is idle: its ring is empty and no head is WAITING. (DEDUCED, log entry 76.) -/
def State.idleSlot (s : State) (j : Nat) : Bool :=
  let q := s.queues.slots.getD j {}
  q.bound && q.head == q.tail && q.launch.isNone

/-- One step of binding free slots. (DEDUCED, log entry 76.) -/
def State.fillSlot (s : State) (j : Nat) : State :=
  if (s.queues.slots.getD j {}).bound then s
  else match s.bestQueue with
    | some q => s.bindSlot j q
    | none => s

/-- One swap, where the best pending queue exceeds the lowest bound one. (DEDUCED, log entry 76.) -/
def State.swapSlot (s : State) : State :=
  match s.bestQueue, s.victimSlot with
  | some q, some j => if (s.queues.slots.getD j {}).eff < s.qcbEff q then (s.evictSlot j).bindSlot j q else s
  | _, _ => s

/-- An ageing interval ends for every bound slot: one that was bound within it has not been bound for a whole one.
(DEDUCED, log entry 76.) -/
def State.ageSlots (s : State) : State :=
  let older (q : Slot) : Slot := if q.bound then { q with boundFor := q.boundFor + 1 } else q
  { s with queues := { s.queues with slots := s.queues.slots.map older } }

/-- AGEING_INTERVAL: the four steps of R432. (DEDUCED, log entry 76.) -/
def execAgeingInterval (s : State) : Out :=
  if s.fw.running = false then notNow "ageingInterval: the firmware core does not run"
  else
    let s1 := (List.range 64).foldl (fun s j => if s.idleSlot j then s.evictSlot j else s) s
    let s2 := (s1.queues.pending.filter fun q => decide (s1.mapped q ≥ 64) && s1.hbmHas (s1.qcbAt q) 64).foldl (fun s q =>
      s.setEff q (if s.qcbEff q < 7 then s.qcbEff q + 1 else 7)) s1
    let s3 := (List.range 64).foldl State.fillSlot s2
    .next ((List.range 64).foldl (fun s _ => s.swapSlot) s3).ageSlots

/-! ### Events (R437, R438) -/

/-- EVENT_RECORD_WRITE: the oldest event that waits is written into the event ring. (DEDUCED, log entry 72.) -/
def execEventRecordWrite (s : State) : Out :=
  let l := s.link
  match l.events with
  | [] => notNow "eventRecordWrite: no event waits"
  | (kind, ctx, arg) :: rest =>
    let size := 2 ^ (l.evlog2 + 4)
    let a := l.evbase + 16 * (l.evprod % size)
    if s.fw.running = false ∨ l.evbase = 0 ∨ (l.evprod + 2 ^ 64 - l.evcons) % 2 ^ 64 ≥ size then
      notNow "eventRecordWrite: no firmware, no ring, or no room"
    else if s.memHas a 16 = false then .fault (.noSuchAddress a)
    else if s.poolDown a 16 then notNow "eventRecordWrite: the ring lies behind a link that is down"
    else
      let s1 := s.devWrite a (natToBytes 8 (kind + ctx * 2 ^ 16 + l.evseq * 2 ^ 32) ++ natToBytes 8 arg)
      .next { s1 with link := { s1.link with events := rest, evprod := (l.evprod + 1) % 2 ^ 64, evseq := (l.evseq + 1) % 2 ^ 32,
                                             msix := s1.link.msix ++ [1] } }

/-! ### Residency entries (R383, R426) -/

/-- An entry of the residency table is written whole: reserved bits are not kept, and a reserved STATE leaves it unchanged.
(DEDUCED, log entry 73.) -/
def State.writeExres (s : State) (i d0 d1 : Nat) : State :=
  if i < 65536 ∧ d0 % 8 < 5 ∧ bits d1 32 21 ≤ 2 ^ 20 then
    { s with tables := { s.tables with exres := setAt i (d0 % 2 ^ 64, d1 % 2 ^ 53) s.tables.exres } }
  else s

/-- EXRES_WRITE: a 16-byte write of `data` to entry `id`. (DEDUCED, log entry 73.) -/
def execExresWrite (s : State) : Out :=
  let a := s.sched.args
  if a.id < 65536 then .next (s.writeExres a.id (a.data % 2 ^ 64) (a.data / 2 ^ 64 % 2 ^ 64)) else notNow "exresWrite: no such entry"

/-- EXWRIDX is written: the staged dwords enter the entry it names; its reserved bits are ignored (R6).
(DEDUCED, log entry 77.) -/
def State.writeExwridx (s : State) (v : Nat) : State := s.writeExres (v % 65536) s.tables.exstg0 s.tables.exstg1

/-- EXWRIDX: a write of `value` to EXWRIDX. (DEDUCED, log entry 73.) -/
def execExwridx (s : State) : Out := .next (s.writeExwridx s.sched.args.value)

/-! ### Feeds (R191, R435) -/

/-- The feed page of a number: one that was never mapped holds no header. -/
def State.feed (s : State) (f : Nat) : Feed :=
  (s.link.feeds.find? fun e => e.page == f).getD { page := f, mapped := false, ctx := 0, obj := 0, off := 0 }

/-- A feed page changed. -/
def State.setFeed (s : State) (f : Feed) : State :=
  { s with link := { s.link with feeds := (s.link.feeds.filter fun e => e.page != f.page) ++ [f] } }

/-- Bytes of the page's STAGE are written. -/
def State.writeStage (s : State) (f off : Nat) (bs : List Byte) : State :=
  let e := s.feed f
  s.setFeed { e with stage := setCells off bs e.stage }

/-- Whether a frame of an object is SO or RC, so that a feed may lie in it (R190). (DEDUCED, log entry 74.) -/
def State.feedFrame (s : State) (c : Ctx) (obj off : Nat) : Bool :=
  bits (s.mem.read (entryMap (Machine.readEntry s.mem (c.otb + 32 * obj)) + 8 * (off / 65536)) 8) 1 2 != 2

/-- Records written at their places, from record index j on; none where the object does not hold them.
(DEDUCED, log entry 74.) -/
def appendRecords (c : Ctx) (e : Feed) (h : FeedHeader) : Nat → Nat → List Byte → State → Option State
  | 0, _, _, s => some s
  | n + 1, j, bs, s =>
    let m := 8 * h.rsize
    let at0 := h.rbase + j % 2 ^ h.log2cap * m
    if s.feedFrame c e.obj at0 = false then none
    else (s.objWrite c e.obj at0 (bs.take m)).bind fun t => appendRecords c e h n (j + 1) (bs.drop m) t

/-- An append of n records (R191): its outcome and the state. (DEDUCED, log entry 74.) -/
def State.append (s : State) (f v : Nat) : State :=
  let e := s.feed f
  let bad := s.setFeed { e with status := 2 }
  let n := v % 512
  if e.mapped = false ∨ v ≥ 512 ∨ n = 0 ∨ n > 256 then bad
  else match s.ctx? e.ctx with
    | none => bad
    | some c => match s.objRead c e.obj e.off 256 with
      | none => bad
      | some bs =>
        let h := feedHeader bs
        if h.valid = false ∨ n * h.rsize > 256 ∨ s.feedFrame c e.obj e.off = false then bad
        else if (h.tail + 2 ^ 64 - h.head) % 2 ^ 64 + n > 2 ^ h.log2cap then s.setFeed { e with status := 1, tail := h.tail }
        else
          let t := (h.tail + n) % 2 ^ 64
          match (appendRecords c e h n h.tail (cellsAt e.stage 0 (8 * h.rsize * n)) s).bind fun s1 =>
              s1.objWrite c e.obj (e.off + 128) (natToBytes 8 t) with
          | none => bad
          | some s2 => s2.setFeed { e with status := 0, appends := (e.appends + 1) % 2 ^ 32, tail := t }

/-- Whether a place of an object that the device writes lies between lanes of one word that are being performed (R121). -/
def State.lockedAt (s : State) (c : Ctx) (obj off n : Nat) : Bool :=
  (splitFrames 65536 (n / 65536 + 2) off n).any fun q => (s.devPlace c obj q.1 q.2).any (s.lockedOut 0)

/-- Whether an append of v records waits for lanes of one word, at its header or at a record (R121).
(DESIGN CHOICE, log entry 110.) -/
def State.appendWaits (s : State) (f v : Nat) : Bool :=
  let e := s.feed f
  e.mapped && (s.ctx? e.ctx).any fun c => s.lockedAt c e.obj e.off 256 || (s.objRead c e.obj e.off 256).any fun bs =>
    let h := feedHeader bs
    (List.range (v % 512)).any fun j => s.lockedAt c e.obj (h.rbase + (h.tail + j) % 2 ^ h.log2cap * (8 * h.rsize)) (8 * h.rsize)

/-- FEED_APPEND: a write of `value` to APPEND of feed page `id`. -/
def execFeedAppend (s : State) : Out :=
  let a := s.sched.args
  if a.id ≥ 4096 then notNow "feedAppend: no such page"
  else if s.appendWaits a.id a.value then notNow "feedAppend: the feed must wait"
  else .next (s.append a.id (a.value % 2 ^ 64))

/-! ### The watchdog (R440) -/

/-- Clocks of a µs, at which the I/O die is not slowed (R5, R465). (DESIGN CHOICE, log entry 75.) -/
def clkPerUs : Nat := 1050

/-- The watchdog resets the firmware core alone: the event of kind 8 waits behind those that wait already, and before those that
arise while the core restarts (R438, R440). (DESIGN CHOICE, log entry 83.) -/
def State.resetFirmware (s : State) : State :=
  let n := (s.fw.wdresets + 1) % 2 ^ 64
  { s with fw := { s.fw with running := false, inReset := true, wdresets := n } }.postEvent 8 0 n

/-- WDKICK is written: within its window it starts the next one; a WDMAX of 0 leaves the watchdog off. -/
def State.writeWdkick (s : State) (v : Nat) : State :=
  let e := s.sched.now - s.fw.wdlast
  let s1 := { s with fw := { s.fw with wdkick := v, wdlast := s.sched.now } }
  if s.fw.running && s.fw.wdmax != 0 && (decide (e < clkPerUs * s.fw.wdmin) || decide (e > clkPerUs * s.fw.wdmax)) then
    s1.resetFirmware
  else s1

/-- WDKICK: a write of `value` to WDKICK. (DESIGN CHOICE, log entry 75.) -/
def execWdkick (s : State) : Out := .next (s.writeWdkick (s.sched.args.value % 2 ^ 64))

/-- WATCHDOG_TIMEOUT: no kick has come within WDMAX µs. (DESIGN CHOICE, log entry 75.) -/
def execWatchdogTimeout (s : State) : Out :=
  if s.fw.running && s.fw.wdmax != 0 && decide (s.sched.now - s.fw.wdlast > clkPerUs * s.fw.wdmax) then .next s.resetFirmware
  else notNow "watchdogTimeout: the window is not over"

/-! ### Counts (R443, R446) -/

/-- SDC_WINDOW_BOUNDARY: a mismatch count of unit `id` that was counted in a window that has ended clears (R446).
(DESIGN CHOICE, log entry 111.) -/
def execSdcWindowBoundary (s : State) : Out :=
  let id := s.sched.args.id
  .next { s with rel := { s.rel with mismatches := s.rel.mismatches.filter fun m => m.1 != id || m.2.2 == s.sdcWindow id } }

/-- ERRLOST is written: 0 clears it. -/
def State.writeErrlost (s : State) (v : Nat) : State := if v = 0 then { s with rel := { s.rel with errlost := 0 } } else s

/-- ERRLOST_WRITE: a write of `value` to ERRLOST. -/
def execErrlostWrite (s : State) : Out := .next (s.writeErrlost s.sched.args.value)

/-- A corrected-error counter is written: 0 clears it. -/
def State.writeCecount (s : State) (code v : Nat) : State :=
  if v = 0 then { s with rel := { s.rel with cecount := s.rel.cecount.filter fun c => c.1 != code } } else s

/-- CECOUNT_WRITE: a write of `value` to the counter of storage code `id`. -/
def execCecountWrite (s : State) : Out :=
  if s.sched.args.id < 16 then .next (s.writeCecount s.sched.args.id s.sched.args.value) else notNow "cecountWrite: no such counter"

end Sys2Proof.Machine
end

