-- ==== Sys2Proof/Machine/Debugging.lean ====
section
/-!
DEFINITION. The debug unit: the log of record and replay (R457, R459), DBGCTL, stops and resumes, halted threads' registers
(R448, R450, R451), and the drain of trace buffers (R449, R454).
-/

namespace Sys2Proof.Machine

open Sys2Proof

/-! ### The log of record and replay (R457) -/

/-- The first chunk that is closed, and the others. -/
def takeChunk : List Chunk → Option (Chunk × List Chunk)
  | [] => none
  | c :: cs => if c.closed then some (c, cs) else (takeChunk cs).map fun r => (r.1, c :: r.2)

/-- Where the next chunk goes in the log ring. -/
def Debug.chunkAt (d : Debug) : Nat := d.rrbase + 256 * (d.rrprod % 2 ^ (d.rrlog2 + 4))

/-- A chunk is written at its place in the log ring, which advances. (DEDUCED, log entry 35.) -/
def State.writeChunk (s : State) (c : Chunk) (rest : List Chunk) : State :=
  let s1 := s.devWrite s.dbg.chunkAt (c.bytes s.dbg.cseq)
  { s1 with dbg := { s1.dbg with
      chunks := rest, rrprod := (s.dbg.rrprod + 1) % 2 ^ 64, cseq := (s.dbg.cseq + 1) % 2 ^ 32 } }

/-- The first closed chunk is written where the log ring has room for it; it waits else (R457, R459).
(DEDUCED, log entry 35.) -/
def State.flushChunk (s : State) : State :=
  match takeChunk s.dbg.chunks with
  | none => s
  | some (c, rest) => if s.dbg.full || !(s.memHas s.dbg.chunkAt 256) || s.poolDown s.dbg.chunkAt 256 then s else s.writeChunk c rest

/-- RR_CHUNK_WRITE: the first closed chunk is written to the log ring, which has room. (DEDUCED, log entry 35.) -/
def execRrChunkWrite (s : State) : Out :=
  match takeChunk s.dbg.chunks with
  | none => notNow "rrChunkWrite: no chunk is closed"
  | some (c, rest) =>
    if s.dbg.full then notNow "rrChunkWrite: the log ring is full"
    else if s.memHas s.dbg.chunkAt 256 = false then .fault (.noSuchAddress s.dbg.chunkAt)
    else if s.poolDown s.dbg.chunkAt 256 then notNow "rrChunkWrite: the log ring lies behind a link that is down"
    else .next (s.writeChunk c rest)

/-! ### DBGCTL (R448, R457) -/

/-- Whether DBGCTL takes a value: RRMODE 3 is reserved, and CSLOG2 is 4 to 20 where CSHEET is set.
(DEDUCED, log entry 77.) -/
def goodDbgctl (v : Nat) : Bool :=
  bits v 24 2 != 3 && (!(bitAt v 18) || (decide (4 ≤ bits v 19 5) && decide (bits v 19 5 ≤ 20)))

/-- DBGCTL is written: launch ordinals start from 0 where ATTACH becomes set, chunks close where RRMODE leaves 1 and are
written as far as the log ring has room (R459), and the counts of a mode start where it does, or where a context is attached in it (R461).
(DEDUCED, log entries 35 and 77.) -/
def State.writeDbgctl (s : State) (v0 : Nat) : State :=
  let v := v0 % 2 ^ 26
  let d := s.dbg
  if goodDbgctl v = false then s
  else
    let old := bits d.dbgctl 24 2
    let new := bits v 24 2
    let fresh := bitAt v 16 && (!(bitAt d.dbgctl 16) || bits d.dbgctl 0 16 != bits v 0 16)
    let s1 := if fresh then s.updCtx (bits v 0 16) fun c => { c with lordNext := 0 } else s
    let s2 := { s1 with dbg := { d with
        dbgctl := v
        chunks := if old = 1 ∧ new ≠ 1 then d.chunks.map fun c => { c with closed := true } else d.chunks
        counts := if new = 1 ∧ (old ≠ 1 ∨ fresh) then [] else d.counts
        replayPos := if new = 2 ∧ (old ≠ 2 ∨ fresh) then [] else d.replayPos } }
    if old = 1 ∧ new ≠ 1 then d.chunks.foldl (fun s _ => s.flushChunk) s2 else s2

/-- DBGCTL_WRITE: a write of `value` to DBGCTL. -/
def execDbgctlWrite (s : State) : Out := .next (s.writeDbgctl s.sched.args.value)

/-! ### Stopping and resuming blocks (R450) -/

/-- The blocks of the attached context that DBGCMD names: all of them, or the one of the ordinal DBGLORD and BLK, with its
gang. (DEDUCED, log entry 78.) -/
def State.commanded (s : State) (all : Bool) (blk : Nat) : List Block :=
  if bitAt s.dbg.dbgctl 16 = false then []
  else
    let mine := s.blocks.filter fun b => b.ctx == bits s.dbg.dbgctl 0 16 && b.st != .finished
    if all then mine else (mine.filter fun b => b.blk == blk && s.lordOf b == s.dbg.dbglord).flatMap s.gangOf

/-- A block resumes: each thread returns to its previous state. (DEDUCED, log entries 36 and 78.) -/
def State.resumeBlock (s : State) (b : Block) : State :=
  let s1 := (s.updBlock b.uid fun k => { k.updThreads (fun x => { x with halted := false }) with halt := none, haltTid := 0, haltLog := (0, 0) }).drawCore b.core
  { s1 with reqs := s1.reqs.map fun r => if r.blk = b.uid then { r with shut := false } else r,
            items := s1.items.map fun i => if i.blk = b.uid then { i with shut := false } else i }

/-- DBGCMD is written: OP 1 stops, 2 resumes, another does nothing, nor does a value with a bit of [31:3] set.
(DEDUCED, log entry 77.) -/
def State.writeDbgcmd (s : State) (v : Nat) : State :=
  let blk := bits v 32 32
  let bs := s.commanded (bitAt v 2) blk
  let s1 := { s with dbg := { s.dbg with dbgblk := blk } }
  if bits v 3 29 ≠ 0 then s
  else if bits v 0 2 = 1 then bs.foldl (fun s b => s.haltBlock b.uid 1 0 (0, 0)) s1
  else if bits v 0 2 = 2 then (bs.filter fun b => b.halt.isSome).foldl State.resumeBlock s1
  else s

/-- DBGCMD_STOP: a write of OP 1 to DBGCMD, with ALL in `ok` and BLK in `id`. -/
def execDbgcmdStop (s : State) : Out :=
  .next (s.writeDbgcmd (1 + bit s.sched.args.ok * 4 + s.sched.args.id % 2 ^ 32 * 2 ^ 32))

/-- DBGCMD_RESUME: a write of OP 2 to DBGCMD, with ALL in `ok` and BLK in `id`. -/
def execDbgcmdResume (s : State) : Out :=
  .next (s.writeDbgcmd (2 + bit s.sched.args.ok * 4 + s.sched.args.id % 2 ^ 32 * 2 ^ 32))

/-! ### Registers of halted threads (R448) -/

/-- A register of a halted thread is written by class (R408): a vector register keeps its tag and poison; the tag of a
capability after its high word is a free value where its bits may carry one (R13). (DESIGN CHOICE, log entry 5; DEDUCED, log
entry 79.) -/
def Thread.debugPut (x : Thread) (cls n : Nat) (v : Nat) (half : Option Nat) (tag : Bool) : Thread :=
  match cls with
  | 0 => if n < x.nregs then x.setV n { x.vreg n with val := BitVec.ofNat 64 v } else x
  | 1 => if n < 32 then x.setP n (bitAt v 0) else x
  | 2 => match half with
    | some lo => if n < 32 then x.setC n (capFrom (lo + v * 2 ^ 64) tag (x.creg n).psn) else x
    | none =>
      if n < 32 then x.setC n (capFrom (v + (x.creg n).nat / 2 ^ 64 * 2 ^ 64) (x.creg n).tag (x.creg n).psn) else x
  | _ => match n with
    | 0 => { x with cause := v % 256 }
    | 1 => { x with trappc := v % 2 ^ 48 }
    | 2 => { x with rgnpc := (v % 2 ^ 48 : Nat) }
    | 3 => { x with aux := v }
    | _ => x

/-- DBGDATA is written: the register DBGSEL names, of its thread where that is halted. (DEDUCED, log entry 79.) -/
def State.writeDbgdata (s : State) (v0 : Nat) : State :=
  let v := v0 % 2 ^ 64
  let d := s.dbg
  let tid := bits d.dbgsel 0 10
  let cls := bits d.dbgsel 10 2
  let n := bits d.dbgsel 12 9
  match (s.commanded false d.dbgblk).find? fun b => b.blk == d.dbgblk && s.lordOf b == d.dbglord with
  | none => s
  | some b =>
    if (b.thread? tid).any Thread.halted then
      let s1 := (s.updThread b.uid tid fun x => x.debugPut cls n v d.capHalf (Config.freeChoice s.sched.fresh)).tick
      { s1 with dbg := { s1.dbg with capRead := false, capHalf := if cls = 2 ∧ d.capHalf = none then some v else none } }
    else s

/-- DBGDATA_WRITE: a write of `value` to DBGDATA. -/
def execDbgdataWrite (s : State) : Out := .next (s.writeDbgdata s.sched.args.value)

/-! ### Stop records (R451) -/

/-- A mask of 1,024 bits in sixteen dwords. -/
def mask1024 (tids : List Nat) : List Nat :=
  let m := tids.foldl setBit 0
  (List.range 16).map fun i => m / 2 ^ (64 * i) % 2 ^ 64

/-- Whether a group of a stopped block still finishes a commit-class word it has issued, one that the gate of a replay which has
stopped does not hold back (R450, R457). (DEDUCED, log entry 78.) -/
def State.finishing (s : State) (b : Block) : Bool :=
  let held (x : Thread) : Bool := s.items.any fun i => i.blk == b.uid && i.tid == x.tid && i.shut
  s.groups.any fun g => g.blk == b.uid && (g.st != .frozen || g.runner.isSome)
    && (g.issuers b).any fun x => x.mid && !(held x)

/-- HALT_COMPLETE: every group of the resident block `id` has halted, and its stop record is filed.
(DEDUCED, log entry 78.) -/
def execHaltComplete (s : State) : Out :=
  match s.block? s.sched.args.id with
  | none => notNow "haltComplete: no such block"
  | some b => match b.halt with
    | some (reason, false) =>
      if b.st ≠ .resident then notNow "haltComplete: the block is not resident"
      else if s.finishing b then notNow "haltComplete: a group finishes its word"
      else
        let own := reason == 3 || reason == 4
        let x := (b.thread? b.haltTid).getD { tid := 0 }
        let at1 (st : TState) : List Nat := (b.threads.filter fun t => t.st == st).map Thread.tid
        let words := s.recordHead b (if reason = 1 then 0 else b.haltTid) 0x01 reason
          ++ [b.haltLog.1, b.haltLog.2, if own then x.retired else 0, if own then x.shash else 0]
          ++ mask1024 (at1 .atBar) ++ mask1024 (at1 .atGbar)
        let s1 := s.updBlock b.uid fun k => { k with halt := some (reason, true) }
        .next { s1 with dbg := { s1.dbg with buffer := s1.dbg.buffer ++ [{ quad := quadOf b.core, words := words, stop := true }] } }
    | _ => notNow "haltComplete: the block has no stop to record"

/-! ### The drain of trace buffers (R449, R454) -/

/-- Units of the trace ring, and how many are free. -/
def Debug.ringSize (d : Debug) : Nat := 2 ^ (d.trlog2 + 6)
def Debug.ringFree (d : Debug) : Nat := d.ringSize - (d.trprod + 2 ^ 64 - d.trcons) % 2 ^ 64

/-- Units of 64 bytes are written to the ring. -/
def State.ringWrite (s : State) (ws : List Nat) : Out :=
  let d := s.dbg
  let a := d.trbase + 64 * (d.trprod % d.ringSize)
  if s.hbmHas a (8 * ws.length) = false then .fault (.noSuchAddress a)
  else
    let s1 := s.devWrite a (ws.flatMap fun w => natToBytes 8 w)
    .next { s1 with dbg := { s1.dbg with trprod := (d.trprod + ws.length / 8) % 2 ^ 64 } }

/-- A record takes the next number of the device (R449). (DESIGN CHOICE, log entry 112.) -/
def State.numbered (s : State) (ws : List Nat) : State × List Nat :=
  ({ s with dbg := { s.dbg with seq := (s.dbg.seq + 1) % 2 ^ 32 } },
    match ws with
    | w :: r => (w % 2 ^ 32 + s.dbg.seq * 2 ^ 32) :: r
    | [] => [])

/-- The first record of a quad that is final, and the buffer without it. (DEDUCED, log entry 80.) -/
def takeRecord (quad : Nat) : List TraceRec → Option (TraceRec × List TraceRec)
  | [] => none
  | t :: ts => if t.quad = quad ∧ t.held = none then some (t, ts) else (takeRecord quad ts).map fun r => (r.1, t :: r.2)

/-- TRACE_DRAIN: the trace buffer of quad `id` drains its next record: a gap record where some were lost, of a gated quad only
while its buffer drains (R455), else the first that is final. While the ring is full, stop records wait and others are lost. A
stop record that would pass the ring's end is preceded by units of TYPE 0 to that end.
(DESIGN CHOICE, log entry 82.) -/
def execTraceDrain (s : State) : Out :=
  let quad := s.sched.args.id
  let d := s.dbg
  let lost := lookupD 0 quad d.lost
  if lost ≠ 0 ∧ d.ringFree ≠ 0 ∧ (bitAt s.power.qgate quad = false ∨ d.buffer.any fun t => t.quad == quad) then
    let r := s.numbered [0x30, 0, 0, 0, lost + quad * 2 ^ 32, 0, 0, 0]
    { r.1 with dbg := { r.1.dbg with lost := d.lost.filter fun l => l.1 != quad } }.ringWrite r.2
  else match takeRecord quad d.buffer with
  | none => notNow "traceDrain: the quad has no final record"
  | some (t, rest) =>
    if d.ringFree = 0 then
      if t.stop then notNow "traceDrain: the ring is full"
      else .next { s with dbg := { d with buffer := rest, lost := setAt quad (if lost < 2 ^ 32 - 1 then lost + 1 else lost) d.lost } }
    else if t.stop then
      let left := d.ringSize - d.trprod % d.ringSize
      let fill := if left < 5 then left else 0
      if d.ringFree < fill + 5 then notNow "traceDrain: the ring has no room for a stop record"
      else
        let r := s.numbered t.words
        let s1 := { r.1 with dbg := { r.1.dbg with buffer := rest } }
        match (if fill = 0 then .next s1 else s1.ringWrite (List.replicate (8 * fill) 0)) with
        | .next s2 => s2.ringWrite r.2
        | o => o
    else
      let r := s.numbered t.words
      { r.1 with dbg := { r.1.dbg with buffer := rest } }.ringWrite r.2

end Sys2Proof.Machine
end

