-- ==== Sys2Proof/Machine/Occupancy.lean ====
section
/-!
DEFINITION. How many clocks a word occupies its partition (R60, R324, R367), each of which counts as an issue of its group
(R231).
-/

namespace Sys2Proof

/-- The vector registers a register field of an F-form word reads, by bank number (R60). -/
def Opnd.sources (k : Opnd) (v : Nat) : List Nat := match k with
  | .vec => [v]
  | .pair => [v, v + 1]
  | _ => []

/-- The vector registers an F-form word reads: those of a, b and c, the control registers in d of a copy or `rack` (R374), and d
of a conversion where it narrows (R331). -/
def FForm.sources (e : FForm) (op : Nat) (narrows : Bool) (d a b c : Nat) : List Nat :=
  (if (0xC3 ≤ op ∧ op ≤ 0xC6) ∨ (narrows ∧ 0x60 ≤ op ∧ op ≤ 0x64) then e.d.sources d else [])
  ++ e.a.sources a ++ e.b.sources b ++ e.c.sources c

/-- How often registers fall into a bank that another one of the list has taken (R60). -/
def repeats (rs : List Nat) : Nat :=
  rs.length - ((List.range 4).filter fun k => rs.any fun r => r % 4 == k).length

/-- The step count S of a lane-matrix word of order n (R367); `t` and `mode` are its tag and MODE. -/
def stepCount (op t mode n : Nat) : Nat :=
  match op with
  | 0xA0 | 0xA4 => matRegs t n
  | 0xA1 | 0xA5 => n ^ 2
  | 0xA2 | 0xA3 => n ^ 3
  | 0xA6 => (n - 1) * n * (n + 1) / 6 + 2 * n * (n + 1)
  | 0xA7 => (n - 1) * n * (2 * n - 1) / 6 + 2 * n * (n - 1) + n
  | _ => match mode with
    | 0 => n * (n - 1) + 8 * n
    | 1 => n * (n - 1) + 4 * n
    | _ => n * (n - 1) / 2 + 4 * n

/-- The clocks of an F-form word that is no lane-matrix word, before those of repeated banks (R324). -/
def baseClocks (op t : Nat) : Nat :=
  if 0x43 ≤ op ∧ op ≤ 0x45 then (if t = 11 then 4 else 1)
  else if 0x70 ≤ op ∧ op ≤ 0x78 then (if t = 11 then 16 else 4)
  else if op = 0x85 ∨ op = 0x86 then 2
  else if op = 0x87 ∨ op = 0x88 then 4
  else 1

/-- The clocks a word occupies its partition (R60, R324, R367); `narrows` says of a register a whether a conversion from its tag
to one of `n` elements narrows. (DESIGN CHOICE, log entry 4.) -/
def View.occupancy (narrows : Nat → Nat → Bool) : View → Nat
  | .f op _ d a b c t x =>
    match fForm op x with
    | none => 1
    | some e => match e.layout with
      | .matrix => (if t = 11 then 4 else 1) * stepCount op t (x / 8 % 4) (x % 8)
      | _ => baseClocks op t + repeats (e.sources op (narrows a ((Tag.ofCode t).getD .raw).ne) d a b c)
  | _ => 1

/-- The clocks an instruction occupies its partition; an event issues nothing. (DESIGN CHOICE, log entry 4.) -/
def Instr.occupancy (i : Instr) (narrows : Nat → Nat → Bool) : Nat := match i.view with
  | some v => v.occupancy narrows
  | none => 0

end Sys2Proof
end

