-- ==== Sys2Proof/Machine/Fetch.lean ====
section
/-!
DEFINITION. What moves next: the issue selector (R231), the fetch and decoding of its group's word (R21, R290, R291), the
next command of the command ring (R427), the turns of other agents, and what follows every turn (R178).
-/

namespace Sys2Proof.Machine

open Sys2Proof

/-! ### The issue selector (R222, R231) -/

/-- Whether a group can issue now: READY, or FROZEN with the thread that runs its trap handler (R178, R243), in a
resident block; where the debug unit stops the block, a group only finishes a commit-class word it has issued (R450). -/
def State.issuable (s : State) (g : Group) : Bool :=
  (g.st == .ready || (g.st == .frozen && !g.stuck && (match g.runner with
      | some t => (s.thread? g.blk t).any fun x => x.st == .running
      | none => false))) && decide (g.readyAt ≤ s.sched.now)
  && (match s.block? g.blk with
      | some b => (b.halt.isNone || (g.issuers b).any Thread.mid) && b.st == .resident
      | none => false)

/-- WAIT of a group (R231). -/
def State.waitOf (s : State) (g : Group) : Nat := s.sched.now - (if g.lastIssue < g.readyAt then g.readyAt else g.lastIssue)

/-- Whether the first group is older: age key of its block, then the clock at which it was formed (R222). -/
def State.older (s : State) (g h : Group) : Bool :=
  match s.block? g.blk, s.block? h.blk with
  | some b, some c =>
    b.ageSeq < c.ageSeq || (b.ageSeq == c.ageSeq && (b.ageKey < c.ageKey || (b.ageKey == c.ageKey && g.formed < h.formed)))
  | _, _ => false

/-- The first of a list that no other comes before; of two that neither comes before the other, such as groups of one block that
were formed in one clock, the one that stands earlier in the list. (DESIGN CHOICE, log entry 114.) -/
def bestOf (before : Group → Group → Bool) : List Group → Option Group
  | [] => none
  | g :: gs => some (gs.foldl (fun m h => if before h m then h else m) g)

/-- The record of a partition's selector. -/
def State.selector (s : State) (core part : Nat) : Part :=
  (s.parts.find? fun p => p.core == core && p.part == part).getD { core := core, part := part }

/-- A selector's record changed. -/
def State.setSelector (s : State) (p : Part) : State :=
  { s with parts := p :: s.parts.filter fun q => !(q.core == p.core && q.part == p.part) }

/-- `select` of R231: the group chosen and the selector's record after it. -/
def State.select (s : State) (core part : Nat) : Option (Group × Part) :=
  let rdy := s.groups.filter fun g => g.core == core && g.part == part && s.issuable g
  let sel := s.selector core part
  let overdue := rdy.filter fun g => decide (s.waitOf g ≥ 1024)
  let cur := if sel.run < 64 ∧ (overdue.isEmpty ∨ sel.ovd = true) then rdy.find? fun g => g.gid == sel.cur else none
  match cur with
  | some g => some (g, { sel with run := sel.run + 1 })
  | none =>
    let longest (g h : Group) : Bool := decide (s.waitOf g > s.waitOf h) || (s.waitOf g == s.waitOf h && s.older g h)
    match bestOf longest overdue with
    | some g => some (g, { sel with cur := g.gid, ovd := true, run := 1 })
    | none =>
      let others := rdy.filter fun g => g.gid != sel.cur
      let pool := if sel.run ≥ 64 ∧ others ≠ [] then others else rdy
      (bestOf s.older pool).map fun g => (g, { sel with cur := g.gid, ovd := false, run := 1 })

/-! ### What a turn begins -/

/-- A turn either performs an instruction or an event in a state, or is already done. -/
inductive Begun where
  | run (i : Instr) (s : State)
  | done (o : Out)

/-- A word that is no instruction (R290): ILLEGAL in every active thread, or in every thread where the guard is
malformed. -/
def illegalWord (v : View) (g : Group) (b : Block) (s : State) : Out :=
  let xs := g.issuers b
  let hit := xs.filter fun x => match Guard.ofCode v.guardBits with
    | some gd => x.active gd
    | none => true
  let rs := hit.filterMap fun x => (leastViol (v.viols ++ allocViols v.regs x.nregs)).map fun u =>
    (x, (LaneRes.trap cIllegal u.aux : LaneRes Eff))
  s.compared g b hit 1 (s.combine false g b xs rs fun s xs oks => s.complete g b xs oks)

/-- Threads that had performed a commit-class word meet a word that is not `rgn` (R207). (DEDUCED, log entry 31.) -/
def State.unbindAt (s : State) (b : Block) (xs : List Thread) : State :=
  if xs.any Thread.bound then
    s.updBlock b.uid fun k => k.updThreads fun x => if xs.any fun y => y.tid == x.tid then x.unbind else x
  else s

/-- Whether register a of a thread of the group holds fewer elements than a conversion of it gives (R331): elements of d stay. -/
def Group.narrows (g : Group) (b : Block) (a n : Nat) : Bool := (g.issuers b).any fun x => decide ((x.vreg a).tag.ne < n)

/-- The clocks of a word beyond its first issue count as issues of its group (R231), and those of both issues in checked
mode (R444). (DESIGN CHOICE, log entry 4.) -/
def State.occupyFor (s : State) (g : Group) (b : Block) (clocks : Nat) : State :=
  let n := (if (s.launch? b.launch).any Launch.checked then 2 else 1) * clocks - 1
  { s with parts := s.parts.map fun p => if p.core == g.core && p.part == g.part then { p with run := p.run + n } else p }

/-- The clocks of an instruction's word. -/
def State.occupy (s : State) (g : Group) (b : Block) (i : Instr) : State := s.occupyFor g b (i.occupancy (g.narrows b))

/-- A fetched word is performed: one that is no `rgn` shows that its threads are past a boundary (R207). -/
def issueWord (g : Group) (b : Block) (xs : List Thread) (w : Nat) (s : State) : Begun :=
  match decode w with
  | .ok i =>
    match i with
    | .rgn _ => .run i (s.occupy g b i)
    | _ => .run i ((s.unbindAt b xs).occupy g b i)
  | .error v =>
    let s1 := (s.unbindAt b xs).occupyFor g b 1
    .done (illegalWord v g ((s1.block? b.uid).getD b) s1)

/-- A group's word is fetched and decoded (R21, R290). A fetch that fails does so for every thread. -/
def fetchGroup (g : Group) (b : Block) (s : State) : Begun :=
  let xs := g.issuers b
  match s.fetchWord b g.space g.pc with
  | (s1, .ok w) => issueWord g b xs w s1
  | (s1, .trap c a) => .done (s1.combine false g b xs (xs.map fun x => (x, .trap c a)) fun s xs oks => s.complete g b xs oks)
  | (s1, .poison) => .done (.next (s1.stall g.gid))
  | (s1, .wait) => .done (.next (s1.stall g.gid))
  | (s1, .tfault fs) => .done (s1.combine false g b xs (xs.map fun x => (x, .tfault fs)) fun s xs oks => s.complete g b xs oks)
  | (_, .noMem a) => .done (.fault (.noSuchAddress a))

/-- The selector of a partition issues. -/
def beginIssue (core part : Nat) (s : State) : Begun :=
  match s.select core part with
  | none => .done (.refused (.notEnabled "issue: no group of the partition is READY"))
  | some (g, sel) =>
    match s.block? g.blk with
    | none => .done (.refused .noGroup)
    | some b =>
      let s1 := s.setSelector sel
      let was := s.selector core part
      fetchGroup g b { s1 with sched := { s1.sched with cur := g.gid, before := some (was.cur, was.run, was.ovd) } }

/-! ### Commands (R427) -/

/-- The next command of the ring is read (R427); its index stands in the arguments of the event.
(DEDUCED, log entries 61 and 93.) -/
def beginCommand (s : State) : Begun :=
  let l := s.link
  if l.cmdhead = l.cmdtail then .done (.refused (.notEnabled "command: the ring holds none"))
  else if !s.cellar.ops.isEmpty || s.cellar.reads.any fun r => r.pgread.isSome then
    .done (.refused (.notEnabled "command: the one before it has not completed"))
  else
    let a := l.cmdbase + 64 * (l.cmdhead % l.cmdCount)
    if s.memHas a 64 = false then .done (.fault (.noSuchAddress a))
    else if s.poolDown a 64 then .done (notNow "command: the ring lies behind a link that is down")
    else
      let w := s.mem.read a 64
      let s1 := { s with link := { l with cmdhead := (l.cmdhead + 1) % 2 ^ 64 }
                         sched := { s.sched with args := { id := l.cmdhead } } }
      match decodeCommand w with
      | some i => .run i s1
      | none => .done (s1.finishCommand l.cmdhead (w % 256) 1 0)

/-! ### Turns -/

/-- Another agent writes memory outside the device: a pool's (R43), or the host's. What it writes may be marked poisoned
(R97). It does not come between lanes of one word (R121). (DEDUCED, log entry 92.) -/
def outsideWrite (addr : Nat) (data : List Byte) (poisoned : Bool) (s : State) : Out :=
  if s.lockedOut 0 { addr := addr, len := data.length } then notNow "outsideWrite: the place must wait"
  else if 2 ^ 54 ≤ addr ∧ addr + data.length ≤ 2 ^ 55 ∨ hostKey 0 ≤ addr then
    let t := s.writePiece none { addr := addr, len := data.length } data
    .next (if poisoned then { t with mem := t.mem.addPoison (touched 32 addr data.length) } else t)
  else notNow "outsideWrite: no memory of a pool or of the host"

/-- The next access of a request that may be performed: a piece of a load, or a returning atomic. -/
def State.readyAccess (s : State) (r : Req) : Option Turn :=
  if r.isAtom then
    if s.atomReady r && !(s.reqGated r) then some (.event .memoryResponse { id := r.id }) else none
  else ((List.range r.pieces.length).find? (s.pieceReady r)).map fun j => .event .memoryResponse { id := r.id, sub := j }

/-- What moves when the agenda is empty: the first group that can issue, else the oldest request, else the
oldest committed entry, else the clock. (DESIGN CHOICE, log entry 3.) -/
def State.idleTurn (s : State) : Turn :=
  match s.groups.find? s.issuable with
  | some g => .issue g.core g.part
  | none =>
    match s.reqs.findSome? s.readyAccess with
    | some t => t
    | none =>
      match s.items.findSome? fun i => s.nextItem i.core with
      | some i => .event .storeBufferPerform { id := i.core }
      | none =>
        match s.items.findSome? fun i => s.nextCommand i.core with
        | some i => .event .commandEnqueue { id := i.core }
        | none => .wait 1

/-- The next turn, and the state with it taken from the agenda. (DESIGN CHOICE, log entry 3.) -/
def State.nextTurn (s : State) : Turn × State :=
  match s.sched.agenda with
  | [] => (s.idleTurn, s)
  | t :: ts => (t, { s with sched := { s.sched with agenda := ts } })

/-- n clocks of 1.05 GHz pass: the arithmetic clock of each die advances at its step, k sixteenths of a clock in each (R465). -/
def State.pass (s : State) (n : Nat) : State :=
  { s with sched := { s.sched with now := s.sched.now + n }
           power := { s.power with beats := s.power.beats.mapIdx fun d k => k + n * (8 + bits s.power.clkstep (4 * d) 4) } }

/-- A turn begins. -/
def beginTurn (t : Turn) (s : State) : Begun :=
  match t with
  | .wait n => .done (.next (s.pass n))
  | .issue core part => beginIssue core part s
  | .event e args => .run e { s with sched := { s.sched with args := args } }
  | .command => beginCommand s
  | .outsideWrite a bs psn => .done (outsideWrite a bs psn s)
  | .upset code unit a b corrected =>
    .done (if corrected then .next (s.corrected code)
           else match s.upset code unit a b with
             | some t => .next t
             | none => notNow "upset: nothing is stored there")
  | .glitch lane special => .done (.next { s with sched := { s.sched with glitch := some (lane, special) } })

/-! ### A word placed for the next step -/

/-- The object entry of a 64 KiB object of HBM with every right, mapped at 0x40 (R40). -/
def slateEntry : List Byte := natToBytes 8 (1 + 0xFF * 16 + 65535 * 2 ^ 16) ++ natToBytes 8 0x40 ++ natToBytes 16 0

/-- A capability on the whole of object 1 with given rights. -/
def slateCap (rights : Nat) : CapReg := capOf 1 rights 16 0 1 0 true

/-- A launch record with object 1 as code, ten register blocks a lane and no tag but the code capability's (R182). -/
def slateRecord : List Nat :=
  let code := (slateCap 0x20).nat
  [10 * 2 ^ 32 + 8 * 2 ^ 50, 1, 0, 0, 0, 0, code % 2 ^ 64, code / 2 ^ 64] ++ List.replicate 24 0

/-- A word stands at the PC of a group of one thread, which the next step issues: an object table at 0, object 1 in the
frame 1, a context, a launch, a block, a thread and a group under one unused number, and the selector of partition 0
of core 0 at that group. (DESIGN CHOICE, log entry 13.) -/
def State.placeWord (s : State) (w : Nat) : State :=
  let n := s.sched.nextId
  let m := ((s.mem.write 0x20 slateEntry).store 0x40 8 (1 + 2 ^ 16)).store 0x10000 8 w
  let x : Thread := { Thread.start 0 10 0 (List.replicate 8 {}) with st := .running }
  let b : Block := { uid := n, launch := n, ctx := n, blk := 0, st := .resident, threads := [x], quota := 256 }
  let g : Group := { gid := n, blk := n, core := 0, part := 0, space := .kernel, pc := 0, tids := [0] }
  let l : Launch := { id := n, ctx := n, slot := 0, prio := 0, record := slateRecord,
                      tags := [false, false, false, true] ++ List.replicate 12 false, st := .released }
  { (s.setSelector { core := 0, part := 0, cur := n, run := 0, ovd := true }) with
    mem := m
    ctxs := { n := n, otn := 2 } :: s.ctxs
    launches := l :: s.launches
    blocks := b :: s.blocks
    groups := g :: s.groups
    sched := { s.sched with agenda := .issue 0 0 :: s.sched.agenda, nextId := n + 1 } }

/-- A command stands at the head of the command ring, and the next step performs it: the firmware core runs, which SLOTBIND waits
for. (DESIGN CHOICE, log entry 13.) -/
def State.placeCommand (s : State) (w : Nat) : State :=
  { s with
    mem := s.mem.store 0x20000 64 w
    fw := { s.fw with running := true }
    link := { s.link with cmdbase := 0x20000, cmdlog2 := 4, cmdhead := 0, cmdtail := 1, cplbase := 0x30000 }
    sched := { s.sched with agenda := .command :: s.sched.agenda } }

end Sys2Proof.Machine
end

