-- ==== Sys2Proof/Machine/Float.lean ====
section
/-!
DEFINITION. Floating arithmetic, compare, classify, scaling and rounding (R322 to R329), the exact dot products (R330),
conversions (R331 to R333) and the special functions (R334, R335).
-/

namespace Sys2Proof.Machine

open Sys2Proof

/-! ### Shared forms (R322) -/

/-- The flags of several results. -/
def flagsOf (rs : List FRes) : Nat := rs.foldl (fun a r => a ||| r.2) 0

/-- A register result made of element results, with their flags (R266). -/
def Eff.floats (d : Nat) (t : Tag) (rs : List FRes) : Eff :=
  { Eff.vec d t (packWord t.width (rs.map fun r => r.1)) with fl := flagsOf rs }

/-- The first n of the sources a, b, c, each exactly of the tag field. -/
def exactSrcs (w : Rounded) (n : Nat) : List Src := [srcExact 0 w.a w.tag, srcExact 1 w.b w.tag, srcExact 2 w.c w.tag].take n

/-- A word that computes each element of d with its flags from the elements of its sources; `kind` is 1, or 2 for a
special function (R402). -/
def floatWord (op n kind : Nat) (f : Nat → Nat → Nat → FRes) (w : Rounded) (s : State) : Out :=
  laneWord [w.form op (exactSrcs w n)] false kind (fun s _ _ x =>
    (s, .ok (Eff.floats w.d w.tag ((List.range w.tag.ne).map fun i =>
      let e := w.elemsAt x i
      f e.1 e.2.1 e.2.2)))) s

/-! ### Arithmetic (R325, R326) -/

/-- `fadd` (R325). -/
def execFadd (w : Rounded) (s : State) : Out := floatWord 0x40 2 1 (fun x y _ => fpAdd (fmtOf w.tag) w.rnd x y) w s

/-- `fsub` (R325). -/
def execFsub (w : Rounded) (s : State) : Out := floatWord 0x41 2 1 (fun x y _ => fpSub (fmtOf w.tag) w.rnd x y) w s

/-- `fmul` (R325). -/
def execFmul (w : Rounded) (s : State) : Out := floatWord 0x42 2 1 (fun x y _ => fpMul (fmtOf w.tag) w.rnd x y) w s

/-- `fma` (R325). -/
def execFma (w : Rounded) (s : State) : Out :=
  floatWord 0x43 3 1 (fun x y z => fpFma (fmtOf w.tag) w.rnd false false x y z) w s

/-- `fms` (R325). -/
def execFms (w : Rounded) (s : State) : Out :=
  floatWord 0x44 3 1 (fun x y z => fpFma (fmtOf w.tag) w.rnd false true x y z) w s

/-- `fnma` (R325). -/
def execFnma (w : Rounded) (s : State) : Out :=
  floatWord 0x45 3 1 (fun x y z => fpFma (fmtOf w.tag) w.rnd true false x y z) w s

/-- `fmin` (R326). -/
def execFmin (w : Rounded) (s : State) : Out := floatWord 0x46 2 1 (fun x y _ => fpMinMax (fmtOf w.tag) false x y) w s

/-- `fmax` (R326). -/
def execFmax (w : Rounded) (s : State) : Out := floatWord 0x47 2 1 (fun x y _ => fpMinMax (fmtOf w.tag) true x y) w s

/-- The sign bit cleared, and inverted (R325): no flag, NaN payloads kept. -/
def fabsE (f : Fmt) (x : Nat) : FRes := (f.mag x, 0)
def fnegE (f : Fmt) (x : Nat) : FRes := (f.signed (!(f.isNeg x)) (f.mag x), 0)

/-- `fabs` (R325). -/
def execFabs (w : Rounded) (s : State) : Out := floatWord 0x48 1 1 (fun x _ _ => fabsE (fmtOf w.tag) x) w s

/-- `fneg` (R325). -/
def execFneg (w : Rounded) (s : State) : Out := floatWord 0x49 1 1 (fun x _ _ => fnegE (fmtOf w.tag) x) w s

/-! ### Compare, classify, scale, round (R327 to R329) -/

/-- `fcmp` (R327). -/
def execFcmp (w : Rounded) (s : State) : Out :=
  laneWord [{ w.form 0x4A (exactSrcs w 2) with dV := [], dP := [w.d] }] false 1 (fun s _ _ x =>
    let rs := (List.range w.tag.ne).map fun i =>
      let e := w.elemsAt x i
      fpCmp (fmtOf w.tag) w.sub e.1 e.2.1
    (s, .ok { p := [(w.d, rs.all fun r => r.1)], fl := rs.foldl (fun a r => a ||| r.2) 0 })) s

/-- The unsigned tag of an element width. -/
def unsignedOf (width : Nat) : Tag :=
  match width with
  | 64 => .u64
  | 32 => .u32x2
  | 16 => .u16x4
  | _ => .u8x8

/-- The signed tag of an element width. -/
def signedOf (width : Nat) : Tag :=
  match width with
  | 64 => .s64
  | 32 => .s32x2
  | 16 => .s16x4
  | _ => .s8x8

/-- `fclass` (R328). -/
def execFclass (w : Rounded) (s : State) : Out :=
  laneWord [w.form 0x4B (exactSrcs w 1)] false 1 (fun s _ _ x =>
    (s, .ok (Eff.vec w.d (unsignedOf w.tag.width) (packWord w.tag.width ((List.range w.tag.ne).map fun i =>
      fpClass (fmtOf w.tag) (w.elemsAt x i).1))))) s

/-- `fscale` (R329). -/
def execFscale (w : Rounded) (s : State) : Out :=
  laneWord [w.form 0x4E [srcExact 0 w.a w.tag, srcRaw 1 w.b (signedOf w.tag.width)]] false 1 (fun s _ _ x =>
    (s, .ok (Eff.floats w.d w.tag ((List.range w.tag.ne).map fun i =>
      let e := w.elemsAt x i
      fpScale (fmtOf w.tag) w.rnd e.1 (sext w.tag.width e.2.1))))) s

/-- `frint` (R329). -/
def execFrint (w : Rounded) (s : State) : Out :=
  floatWord 0x4F 1 1 (fun x _ _ => fpRint (fmtOf w.tag) w.rnd (w.sub % 2 == 1) x) w s

/-! ### Exact dot products (R330) -/

/-- The exact sum of products and an accumulator, rounded once to F32 (R267, R330). -/
def dotSum (f : Fmt) (r : Rnd) (ps : List (Nat × Nat)) (acc : Option Nat) : FRes :=
  let prods := ps.map fun p => (f.value p.1).mul (f.value p.2)
  let terms := prods.map (fun p => p.1) ++ (match acc with
    | some c => [fmt32.value c]
    | none => [])
  let z := sumRound fmt32 r terms
  (z.1, prods.foldl (fun a p => a ||| p.2) z.2)

/-- A dot product whose result element k sums the n products from element n·k, for each k below `count`; the other
element is +0. -/
def dotWord (op n : Nat) (w : Rounded) (s : State) : Out :=
  let acc := w.sub % 2 == 1
  let srcs := [srcExact 0 w.a w.tag, srcExact 1 w.b w.tag] ++ (if acc then [srcExact 2 w.c .f32x2] else [])
  laneWord [w.form op srcs] false 1 (fun s _ _ x =>
    let one (k : Nat) : FRes :=
      if n * k + n ≤ w.tag.ne then
        dotSum (fmtOf w.tag) w.rnd ((span (n * k) n).map fun i => ((w.elemsAt x i).1, (w.elemsAt x i).2.1))
          (if acc then some (elem 32 (x.vreg w.c).val k) else none)
      else (0, 0)
    (s, .ok (Eff.floats w.d .f32x2 [one 0, one 1]))) s

/-- `dot2` (R330). -/
def execDot2 (w : Rounded) (s : State) : Out := dotWord 0x4C 2 w s

/-- `dot4` (R330). -/
def execDot4 (w : Rounded) (s : State) : Out := dotWord 0x4D 4 w s

/-! ### Conversions (R331 to R333) -/

/-- The SUB bound of R331 for a thread's source tag. -/
def convLate (w : Rounded) (x : Thread) : Option Viol :=
  let nes := (x.vreg w.a).tag.ne
  if w.sub < (if nes ≥ w.tag.ne then nes / w.tag.ne else w.tag.ne / nes) then none else some ⟨9, 10, 0⟩

/-- The float tags. -/
def floatTags : List Tag := [.f64, .f32x2, .f16x4, .b16x4]

/-- The integer tags 0x01 to 0x08. -/
def numTags : List Tag := [.u64, .s64, .u32x2, .s32x2, .u16x4, .s16x4, .u8x8, .s8x8]

/-- The elements of a conversion (R331): `none` keeps the old element of d. -/
def convElems (w : Rounded) (x : Thread) (conv : Tag → Nat → FRes) : List FRes :=
  let st := (x.vreg w.a).tag
  let src (j : Nat) : FRes := conv st j
  (List.range w.tag.ne).map fun i =>
    if st.ne ≥ w.tag.ne then src (w.sub * w.tag.ne + i)
    else if w.sub * st.ne ≤ i ∧ i < (w.sub + 1) * st.ne then src (i - w.sub * st.ne)
    else (elem w.tag.width (x.vreg w.d).val i, 0)

/-- A conversion: `conv` gives the result of source element j of a thread under its tag. A narrowing one also reads d. -/
def convWord (op : Nat) (accept : List Tag) (extra : Thread → List Src) (conv : Thread → Tag → Nat → FRes) (w : Rounded)
    (s : State) : Out :=
  let more (x : Thread) : List Src := extra x ++ (if (x.vreg w.a).tag.ne < w.tag.ne then [srcAny 0 w.d] else [])
  let form : Form := { w.form op [{ code := 0, reg := w.a, accept := accept, report := w.tag.code }] with
                       more := more, late := convLate w }
  laneWord [form] false 1 (fun s _ _ x => (s, .ok (Eff.floats w.d w.tag (convElems w x (conv x))))) s

/-- Element j of the source register a. -/
def srcElem (w : Rounded) (x : Thread) (st : Tag) (j : Nat) : Nat := elem st.width (x.vreg w.a).val j

/-- `cvt.f` (R332). -/
def execCvtF (w : Rounded) (s : State) : Out :=
  convWord 0x60 floatTags (fun _ => []) (fun x st j => fpConvert (fmtOf st) (fmtOf w.tag) w.rnd (srcElem w x st j)) w s

/-- The least and the greatest value of an integer format. -/
def intRange (t : Tag) : Int × Int :=
  if t.isSigned then (-((2 ^ (t.width - 1) : Nat) : Int), ((2 ^ (t.width - 1) : Nat) : Int) - 1)
  else (0, ((2 ^ t.width : Nat) : Int) - 1)

/-- `cvt.fi` (R264, R332). -/
def execCvtFi (w : Rounded) (s : State) : Out :=
  convWord 0x61 floatTags (fun _ => []) (fun x st j =>
    let r := fpToInt (fmtOf st) w.rnd (intRange w.tag).1 (intRange w.tag).2 (srcElem w x st j)
    (wrap w.tag.width r.1, r.2)) w s

/-- `cvt.if` (R264, R332). -/
def execCvtIf (w : Rounded) (s : State) : Out :=
  convWord 0x62 numTags (fun _ => []) (fun x st j => fpFromInt (fmtOf w.tag) w.rnd (intVal st (srcElem w x st j))) w s

/-- `cvt.q` (R260, R333): b carries the tag of a. -/
def execCvtQ (w : Rounded) (s : State) : Out :=
  convWord 0x63 floatTags (fun x => [srcExact 1 w.b (x.vreg w.a).tag]) (fun x st j =>
    ppConvert (fmtOf st) (srcElem w x st j) (elem st.width (x.vreg w.b).val j)) w s

/-- `cvt.m` (R264, R332). -/
def execCvtM (w : Rounded) (s : State) : Out :=
  convWord 0x64 floatTags (fun _ => []) (fun x st j =>
    let m : Int := (2 ^ (w.tag.width - 1) - 1 : Nat)
    let r := fpToInt (fmtOf st) w.rnd (-m) m (srcElem w x st j)
    (mCode w.tag.width r.1, r.2)) w s

/-! ### Special functions (R334, R335) -/

/-- `rcp` (R334). -/
def execRcp (w : Rounded) (s : State) : Out := floatWord 0x70 1 2 (fun x _ _ => fpRcp (fmtOf w.tag) w.rnd x) w s

/-- `rsqrt` (R334). -/
def execRsqrt (w : Rounded) (s : State) : Out := floatWord 0x71 1 2 (fun x _ _ => fpRsqrt (fmtOf w.tag) w.rnd x) w s

/-- `sqrt` (R334). -/
def execSqrt (w : Rounded) (s : State) : Out := floatWord 0x72 1 2 (fun x _ _ => fpSqrt (fmtOf w.tag) w.rnd x) w s

/-- `div` (R334). -/
def execDiv (w : Rounded) (s : State) : Out := floatWord 0x73 2 2 (fun x y _ => fpDiv (fmtOf w.tag) w.rnd x y) w s

/-- `exp2` (R334). -/
def execExp2 (w : Rounded) (s : State) : Out := floatWord 0x74 1 2 (fun x _ _ => fpExp2 (fmtOf w.tag) w.rnd x) w s

/-- `log2` (R334). -/
def execLog2 (w : Rounded) (s : State) : Out := floatWord 0x75 1 2 (fun x _ _ => fpLog2 (fmtOf w.tag) w.rnd x) w s

/-- `sin` (R334, R335). -/
def execSin (w : Rounded) (s : State) : Out := floatWord 0x76 1 2 (fun x _ _ => fpSinCos (fmtOf w.tag) w.rnd false x) w s

/-- `cos` (R334, R335). -/
def execCos (w : Rounded) (s : State) : Out := floatWord 0x77 1 2 (fun x _ _ => fpSinCos (fmtOf w.tag) w.rnd true x) w s

/-- `tanh` (R334). -/
def execTanh (w : Rounded) (s : State) : Out := floatWord 0x78 1 2 (fun x _ _ => fpTanh (fmtOf w.tag) w.rnd x) w s

end Sys2Proof.Machine
end

