-- ==== Sys2Proof/Machine/Lanes.lean ====
section
/-!
DEFINITION. The cross-lane instructions (R336 to R343).
-/

namespace Sys2Proof.Machine

open Sys2Proof

/-! ### Participants (R336) -/

/-- The participants: active threads that pass the checks of the word. Where another traps by group the word has no
effect at all (R239). -/
def participants (fs : List Form) (act : List Thread) : List Thread := act.filter fun x => (checkAll x fs).isNone

/-- The participant on a home lane. -/
def onLane (ps : List Thread) (lane : Nat) : Option Thread := ps.find? fun x => laneOf x.tid == lane

/-- A word whose thread's effect is computed from the participants. -/
def crossWord (f : Form) (lane : List Thread → Thread → Eff) (s : State) : Out :=
  laneWord [f] false 1 (fun s _ act x => (s, .ok (lane (participants [f] act) x))) s

/-- The mask of home lanes of participants that meet a test. -/
def lanesWhere (ps : List Thread) (test : Thread → Bool) : Nat := laneMask ((ps.filter test).map Thread.tid)

/-! ### Shuffles and votes (R338 to R341) -/

/-- Element k of register a over the participants, or none for an absent one. -/
def elemAcross (ps : List Thread) (t : Tag) (a k : Nat) : Option Nat :=
  (onLane ps (k / t.ne)).map fun x => elem t.width (x.vreg a).val (k % t.ne)

/-- The element address that `shfl` reads (R338); none outside [0, 32·NE). -/
def shflAddr (mode ne own n : Nat) : Option Nat :=
  match mode with
  | 0 => some (n % (32 * ne))
  | 1 => some ((own ^^^ n) % (32 * ne))
  | 2 => if n ≤ own then some (own - n) else none
  | _ => if own + n < 32 * ne then some (own + n) else none

/-- `shfl` (R338). -/
def execShfl (w : Plain) (s : State) : Out :=
  crossWord (w.form 0x80 [srcExact 0 w.a w.tag, srcRaw 1 w.b (unsignedOf w.tag.width)]) (fun ps x =>
    Eff.vec w.d w.tag (packWord w.tag.width ((List.range w.tag.ne).map fun i =>
      ((shflAddr w.opx w.tag.ne (laneOf x.tid * w.tag.ne + i) (elem w.tag.width (x.vreg w.b).val i)).bind
        (elemAcross ps w.tag w.a)).getD (elem w.tag.width (x.vreg w.a).val i)))) s

/-- `bcast` (R339): the b field is an element address. -/
def execBcast (w : Plain) (s : State) : Out :=
  crossWord (w.form 0x81 [srcExact 0 w.a w.tag]) (fun ps x =>
    Eff.vec w.d w.tag (packWord w.tag.width ((List.range w.tag.ne).map fun i =>
      (elemAcross ps w.tag w.a w.b).getD (elem w.tag.width (x.vreg w.a).val i)))) s

/-- `ballot` (R340). -/
def execBallot (w : Plain) (s : State) : Out :=
  crossWord (w.form 0x82 []) (fun ps _ =>
    Eff.vec w.d .u64 (BitVec.ofNat 64 (lanesWhere ps fun y => y.pred w.a))) s

/-- The result of `vote` (R340): 0 all, 1 any, 2 uni. -/
def voteOf (mode : Nat) (bs : List Bool) : Bool :=
  match mode with
  | 0 => bs.all id
  | 1 => bs.any id
  | _ => bs.all id || !(bs.any id)

/-- `vote` (R340). -/
def execVote (w : Plain) (s : State) : Out :=
  crossWord { w.form 0x83 [] with dV := [], dP := [w.d] } (fun ps _ =>
    { p := [(w.d, voteOf w.opx (ps.map fun y => y.pred w.a))] }) s

/-- `match` (R341). -/
def execMatchLanes (w : Plain) (s : State) : Out :=
  crossWord (w.form 0x84 [srcAny 0 w.a]) (fun ps x =>
    Eff.vec w.d .u64 (BitVec.ofNat 64 (lanesWhere ps fun y => (y.vreg w.a).val == (x.vreg w.a).val))) s

/-! ### Spans (R342, R343) -/

/-- The place of a participant among them. -/
def placeIn (ps : List Thread) (x : Thread) : Nat := (findIdxFrom (fun y => y.tid == x.tid) ps 0).getD 0

/-- A function of spans applied over the participants: across, a span is position i of every participant; flat, it is every
element. The results of one participant, and the flags of every span. -/
def overSpans (flat : Bool) (t : Tag) (a : Nat) (f : List Nat → List Nat × Nat) (ps : List Thread) (x : Thread) :
    List Nat × Nat :=
  let rows := ps.map fun y => elems t (y.vreg a).val
  let j := placeIn ps x
  if flat then
    let r := f (rows.flatMap id)
    ((List.range t.ne).map fun i => r.1.getD (j * t.ne + i) 0, r.2)
  else
    let cols := (List.range t.ne).map fun i => f (rows.map fun row => row.getD i 0)
    (cols.map fun r => r.1.getD j 0, cols.foldl (fun a r => a ||| r.2) 0)

/-- One step of `scan` or `reduce` (R342): 0 add, 1 min, 2 max, 3 and, 4 or, 5 xor. -/
def spanStep (op : Nat) (t : Tag) (a b : Nat) : FRes :=
  if t.isFloat then
    match op with
    | 0 => fpAdd (fmtOf t) .rn a b
    | 1 => fpMinMax (fmtOf t) false a b
    | _ => fpMinMax (fmtOf t) true a b
  else (atomElem op t a b, 0)

/-- The identity of an operation (R342). -/
def spanIdentity (op : Nat) (t : Tag) : Nat :=
  let f := fmtOf t
  match op with
  | 1 => if t.isFloat then f.infCode else if t.isSigned then 2 ^ (t.width - 1) - 1 else 2 ^ t.width - 1
  | 2 => if t.isFloat then f.signed true f.infCode else if t.isSigned then 2 ^ (t.width - 1) else 0
  | 3 => 2 ^ t.width - 1
  | _ => 0

/-- The running values of a span: inclusive and exclusive results, and the flags of its steps (R342). -/
def scanFrom (op : Nat) (t : Tag) : Option Nat → List Nat → List Nat × List Nat × Nat
  | _, [] => ([], [], 0)
  | none, e :: es =>
    let r := scanFrom op t (some e) es
    (e :: r.1, spanIdentity op t :: r.2.1, r.2.2)
  | some a, e :: es =>
    let v := spanStep op t a e
    let r := scanFrom op t (some v.1) es
    (v.1 :: r.1, a :: r.2.1, v.2 ||| r.2.2)

/-- The sources of a span word: RAW or the tag field for an integer tag, exactly the tag field for a float one (R322). -/
def spanSrc (w : Plain) : Src := if w.tag.isFloat then srcExact 0 w.a w.tag else srcRaw 0 w.a w.tag

/-- A word that applies a function to spans; `t` is the tag of its result. -/
def spanWord (op : Nat) (t : Tag) (f : List Nat → List Nat × Nat) (w : Plain) (s : State) : Out :=
  crossWord (w.form op [spanSrc w]) (fun ps x =>
    let r := overSpans (bitAt w.opx 4) w.tag w.a f ps x
    { Eff.vec w.d t (packWord w.tag.width r.1) with fl := r.2 }) s

/-- `scan` (R342). -/
def execScan (w : Plain) (s : State) : Out :=
  spanWord 0x85 w.tag (fun es =>
    let r := scanFrom (w.opx % 8) w.tag none es
    (if bitAt w.opx 3 then r.2.1 else r.1, r.2.2)) w s

/-- `reduce` (R342). -/
def execReduce (w : Plain) (s : State) : Out :=
  spanWord 0x86 w.tag (fun es =>
    let r := scanFrom (w.opx % 8) w.tag none es
    (List.replicate es.length (r.1.getLastD 0), r.2.2)) w s

/-- The key by which an element is ordered (R343). -/
def sortKey (t : Tag) (e : Nat) : Int := if t.isFloat then (fmtOf t).orderKey e else intVal t e

/-- An element with its place goes before those of a sorted list that its key does not come strictly after (R343). -/
def insertKey (t : Tag) (desc : Bool) (x : Nat × Nat) : List (Nat × Nat) → List (Nat × Nat)
  | [] => [x]
  | y :: ys =>
    let after := if desc then sortKey t y.2 > sortKey t x.2 else sortKey t y.2 < sortKey t x.2
    if after then y :: insertKey t desc x ys else x :: y :: ys

/-- Places and elements in the stable order of R343. -/
def sortSpan (t : Tag) (desc : Bool) (es : List Nat) : List (Nat × Nat) :=
  (es.mapIdx fun i e => (i, e)).foldr (insertKey t desc) []

/-- `sort` (R343). -/
def execSort (w : Plain) (s : State) : Out :=
  spanWord 0x87 w.tag (fun es => ((sortSpan w.tag (bitAt w.opx 0) es).map fun r => r.2, 0)) w s

/-- `rank` (R343). -/
def execRank (w : Plain) (s : State) : Out :=
  spanWord 0x88 (unsignedOf w.tag.width) (fun es =>
    let order := (sortSpan w.tag (bitAt w.opx 0) es).map fun r => r.1
    ((List.range es.length).map fun i => (findIdxFrom (fun j => j == i) order 0).getD 0, 0)) w s

end Sys2Proof.Machine
end

