-- ==== Sys2Proof/Machine/Matrices.lean ====
section
/-!
DEFINITION. The lane-matrix instructions (R364 to R371).
-/

namespace Sys2Proof.Machine

open Sys2Proof

/-! ### Runs (R364, R365) -/

/-- The elements of a run of registers (R364). -/
def runElems (t : Tag) (x : Thread) (base count : Nat) : List Nat :=
  (List.range count).map fun k => elem t.width (x.vreg (base + k / t.ne)).val (k % t.ne)

/-- The registers of a result run; an odd element count leaves +0 in the last upper half (R364). -/
def runWrites (t : Tag) (base : Nat) (es : List Nat) : List (Nat × VReg) :=
  (List.range ((es.length + t.ne - 1) / t.ne)).map fun r =>
    (base + r, { val := packWord t.width ((List.range t.ne).map fun i => es.getD (r * t.ne + i) 0), tag := t })

/-- The sources of a run: every register of it, exactly of the tag field (R365). -/
def runSrcs (t : Tag) (code base regs : Nat) : List Src := (List.range regs).map fun i => srcExact code (base + i) t

/-- The numbers of a run. -/
def runNums (base regs : Nat) : List Nat := span base regs

/-- The form of a lane-matrix word. -/
def matForm (op : Nat) (w : MatrixW) (srcs : List Src) (dV dP : List Nat) : Form :=
  { guard := w.guard, regs := (w.view op).regs, srcs := srcs, dV := dV, dP := dP }

/-- Registers of the matrix and of the vector runs of a word. -/
def mRun (w : MatrixW) : Nat := matRegs w.tag.code w.n
def vRun (w : MatrixW) : Nat := vecRegs w.tag.code w.n

/-- Element (i, j) of a matrix given row by row. -/
def at2 (n : Nat) (m : List Nat) (i j : Nat) : Nat := m.getD (i * n + j) 0

/-- Index pairs of an n × n matrix, row by row. -/
def pairs (n : Nat) : List (Nat × Nat) := (List.range n).flatMap fun i => (List.range n).map fun j => (i, j)

/-- A chain of fused steps s := ±(x · y) + s, rounded rn, with the flags of all (R365). -/
def fmaChain (f : Fmt) (neg : Bool) (s : FRes) (ps : List (Nat × Nat)) : FRes :=
  ps.foldl (fun s p =>
    let r := fpFma f .rn neg false p.1 p.2 s.1
    (r.1, s.2 ||| r.2)) s

/-- A sum of products whose first is rounded by itself (R368). -/
def dotChain (f : Fmt) : List (Nat × Nat) → FRes
  | [] => (0, 0)
  | p :: ps => fmaChain f false (fpMul f .rn p.1 p.2) ps

/-! ### Elementwise and product words (R368) -/

/-- A word whose result matrix has element (i, j) given by a function of the thread's sources. -/
def matWord (op : Nat) (srcs : MatrixW → List Src) (f : MatrixW → Thread → Nat → Nat → FRes) (w : MatrixW) (s : State) :
    Out :=
  laneWord [matForm op w (srcs w) (runNums w.d (mRun w)) []] false 3 (fun s _ _ x =>
    let rs := (pairs w.n).map fun ij => f w x ij.1 ij.2
    (s, .ok { v := runWrites w.tag w.d (rs.map fun r => r.1), fl := flagsOf rs })) s

/-- The source matrices a, b and c of a thread. -/
def matA (w : MatrixW) (x : Thread) : List Nat := runElems w.tag x w.a (w.n * w.n)
def matB (w : MatrixW) (x : Thread) : List Nat := runElems w.tag x w.b (w.n * w.n)
def matC (w : MatrixW) (x : Thread) : List Nat := runElems w.tag x w.c (w.n * w.n)

/-- The sources of a word with one, two or three source matrices. -/
def srcsA (w : MatrixW) : List Src := runSrcs w.tag 0 w.a (mRun w)
def srcsAB (w : MatrixW) : List Src := srcsA w ++ runSrcs w.tag 1 w.b (mRun w)
def srcsABC (w : MatrixW) : List Src := srcsAB w ++ runSrcs w.tag 2 w.c (mRun w)

/-- `mset` (R368). -/
def execMset (w : MatrixW) (s : State) : Out :=
  matWord 0xA0 (fun w => [srcExact 0 w.a w.tag]) (fun w x i j =>
    (if i = j then elem w.tag.width (x.vreg w.a).val 0 else 0, 0)) w s

/-- `madd` (R368). -/
def execMadd (w : MatrixW) (s : State) : Out :=
  matWord 0xA1 srcsAB (fun w x i j => fpAdd (fmtOf w.tag) .rn (at2 w.n (matA w x) i j) (at2 w.n (matB w x) i j)) w s

/-- `mmul` (R368). -/
def execMmul (w : MatrixW) (s : State) : Out :=
  matWord 0xA2 srcsAB (fun w x i j =>
    dotChain (fmtOf w.tag) ((List.range w.n).map fun k => (at2 w.n (matA w x) i k, at2 w.n (matB w x) k j))) w s

/-- `mmad` (R368). -/
def execMmad (w : MatrixW) (s : State) : Out :=
  matWord 0xA3 srcsABC (fun w x i j =>
    fmaChain (fmtOf w.tag) false (at2 w.n (matC w x) i j, 0)
      ((List.range w.n).map fun k => (at2 w.n (matA w x) i k, at2 w.n (matB w x) k j))) w s

/-- `mtrans` (R368). -/
def execMtrans (w : MatrixW) (s : State) : Out :=
  matWord 0xA4 srcsA (fun w x i j => (at2 w.n (matA w x) j i, 0)) w s

/-- The source vector b. -/
def vecB (w : MatrixW) (x : Thread) : List Nat := runElems w.tag x w.b w.n

/-- `mvmul` (R368). -/
def execMvmul (w : MatrixW) (s : State) : Out :=
  laneWord [matForm 0xA5 w (srcsA w ++ runSrcs w.tag 1 w.b (vRun w)) (runNums w.d (vRun w)) []] false 3 (fun s _ _ x =>
    let rs := (List.range w.n).map fun i =>
      dotChain (fmtOf w.tag) ((List.range w.n).map fun k => (at2 w.n (matA w x) i k, (vecB w x).getD k 0))
    (s, .ok { v := runWrites w.tag w.d (rs.map fun r => r.1), fl := flagsOf rs })) s

/-! ### Cholesky (R369) -/

/-- A factorisation under way: the elements, the failing step, the flags. -/
structure Factor where
  m : List Nat
  fail : Option Nat := none
  fl : Nat := 0
deriving DecidableEq, Repr

/-- One element of the lower triangle (R369). -/
def cholStep (f : Fmt) (n : Nat) (a : List Nat) (c : Factor) (i j : Nat) : Factor :=
  let put (v fl : Nat) : Factor := { c with m := c.m.set (i * n + j) v, fl := c.fl ||| fl }
  let failed : Bool := match c.fail with
    | some k => k ≤ j
    | none => false
  if failed then put f.nan 0
  else
    let s := fmaChain f true (at2 n a i j, 0) ((List.range j).map fun k => (at2 n c.m i k, at2 n c.m j k))
    if i = j then
      if f.isNan s.1 = false ∧ f.isNeg s.1 = false ∧ f.mag s.1 ≠ 0 then
        let r := fpSqrt f .rn s.1
        put r.1 (s.2 ||| r.2)
      else { put f.nan s.2 with fail := some i }
    else
      let r := fpDiv f .rn s.1 (at2 n c.m j j)
      put r.1 (s.2 ||| r.2)

/-- The lower Cholesky factor (R369). -/
def cholesky (f : Fmt) (n : Nat) (a : List Nat) : Factor :=
  ((pairs n).filter fun ij => ij.2 ≤ ij.1).foldl (fun c ij => cholStep f n a c ij.1 ij.2) { m := List.replicate (n * n) 0 }

/-- STEP of %mstat for a failing step (R366). -/
def stepOf : Option Nat → Nat
  | some k => k + 1
  | none => 0

/-- `mchol` (R369). -/
def execMchol (w : MatrixW) (s : State) : Out :=
  laneWord [matForm 0xA6 w (srcsA w) (runNums w.d (mRun w)) [w.b]] false 3 (fun s _ _ x =>
    let c := cholesky (fmtOf w.tag) w.n (matA w x)
    (s, .ok { v := runWrites w.tag w.d c.m, p := [(w.b, c.fail.isNone)], fl := c.fl,
              ms := some (mstatAfter x.mstat (stepOf c.fail) 1) })) s

/-! ### LU with partial pivoting (R370) -/

/-- The magnitude by which a pivot is chosen: a NaN ranks above +∞ (R370). -/
def pivotMag (f : Fmt) (x : Nat) : Nat := if f.isNan x then f.infCode + 1 else f.mag x

/-- The row of the pivot of column k: the smallest r ≥ k of the largest magnitude (R370). -/
def pivotRow (f : Fmt) (n : Nat) (m : List Nat) (k : Nat) : Nat :=
  (span k (n - k)).foldl (fun p r => if pivotMag f (at2 n m r k) > pivotMag f (at2 n m p k) then r else p) k

/-- Two rows of a matrix exchanged. -/
def swapRows (n : Nat) (m : List Nat) (p k : Nat) : List Nat :=
  (pairs n).map fun ij => at2 n m (if ij.1 = p then k else if ij.1 = k then p else ij.1) ij.2

/-- Two entries of a list exchanged. -/
def swapAt (q : List Nat) (p k : Nat) : List Nat := (q.set p (q.getD k 0)).set k (q.getD p 0)

/-- One column of the factorisation (R370). -/
def luStep (f : Fmt) (n : Nat) (c : Factor × List Nat) (k : Nat) : Factor × List Nat :=
  let p := pivotRow f n c.1.m k
  let m := swapRows n c.1.m p k
  let q := swapAt c.2 p k
  let zero : Bool := f.mag (at2 n m k k) == 0
  let divs := (span (k + 1) (n - k - 1)).map fun i => (i, fpDiv f .rn (at2 n m i k) (at2 n m k k))
  let m1 := if zero then m else divs.foldl (fun m r => m.set (r.1 * n + k) r.2.1) m
  let fl1 := if zero then c.1.fl else divs.foldl (fun a r => a ||| r.2.2) c.1.fl
  let rest := ((pairs n).filter fun ij => k < ij.1 && k < ij.2).map fun ij =>
    (ij.1 * n + ij.2, fpFma f .rn true false (at2 n m1 ij.1 k) (at2 n m1 k ij.2) (at2 n m1 ij.1 ij.2))
  ({ m := rest.foldl (fun m r => m.set r.1 r.2.1) m1
     fail := if zero ∧ c.1.fail.isNone then some k else c.1.fail
     fl := rest.foldl (fun a r => a ||| r.2.2) fl1 }, q)

/-- The factorisation PA = LU, with the permutation (R370). -/
def luFactor (f : Fmt) (n : Nat) (a : List Nat) : Factor × List Nat :=
  (List.range n).foldl (luStep f n) ({ m := a }, List.range n)

/-- `mlu` (R370). -/
def execMlu (w : MatrixW) (s : State) : Out :=
  laneWord [matForm 0xA7 w (srcsA w) (runNums w.d (mRun w) ++ [w.b]) [w.c]] false 3 (fun s _ _ x =>
    let r := luFactor (fmtOf w.tag) w.n (matA w x)
    (s, .ok { v := runWrites w.tag w.d r.1.m ++ [(w.b, { val := packWord 3 r.2, tag := .u64 })],
              p := [(w.c, r.1.fail.isNone)], fl := r.1.fl, ms := some (mstatAfter x.mstat (stepOf r.1.fail) 2) })) s

/-! ### Solving (R371) -/

/-- A vector being solved, with the flags so far. -/
abbrev Solve := List Nat × Nat

/-- Forward substitution; with `unit` no division (R371). -/
def solveLower (f : Fmt) (n : Nat) (a b : List Nat) (unit : Bool) : Solve :=
  (List.range n).foldl (fun (y : Solve) i =>
    let s := fmaChain f true (b.getD i 0, 0) ((List.range i).map fun k => (at2 n a i k, y.1.getD k 0))
    let r := if unit then (s.1, 0) else fpDiv f .rn s.1 (at2 n a i i)
    (y.1.set i r.1, y.2 ||| s.2 ||| r.2)) (List.replicate n 0, 0)

/-- Back substitution with the upper triangle, or with the transposed lower one (R371). -/
def solveUpper (f : Fmt) (n : Nat) (a b : List Nat) (transposed : Bool) : Solve :=
  ((List.range n).map fun j => n - 1 - j).foldl (fun (y : Solve) i =>
    let el (k : Nat) : Nat := if transposed then at2 n a k i else at2 n a i k
    let s := fmaChain f true (b.getD i 0, 0) ((span (i + 1) (n - 1 - i)).map fun k => (el k, y.1.getD k 0))
    let r := fpDiv f .rn s.1 (at2 n a i i)
    (y.1.set i r.1, y.2 ||| s.2 ||| r.2)) (List.replicate n 0, 0)

/-- `msolve` by MODE: 0 chol, 1 lu, 2 lower, 3 upper (R371). `perm` is the permutation register. -/
def solve (f : Fmt) (n mode : Nat) (a b : List Nat) (perm : Nat) : Solve :=
  match mode with
  | 0 =>
    let y := solveLower f n a b false
    let x := solveUpper f n a y.1 true
    (x.1, y.2 ||| x.2)
  | 1 =>
    let g := (List.range n).map fun i =>
      let k := bits perm (3 * i) 3
      b.getD (if k < n then k else i) 0
    let y := solveLower f n a g true
    let x := solveUpper f n a y.1 false
    (x.1, y.2 ||| x.2)
  | 2 => solveLower f n a b false
  | _ => solveUpper f n a b false

/-- `msolve` (R371). -/
def execMsolve (w : MatrixW) (s : State) : Out :=
  let srcs := srcsA w ++ runSrcs w.tag 1 w.b (vRun w) ++ (if w.mode = 1 then [srcRaw 2 w.c .u64] else [])
  laneWord [matForm 0xA8 w srcs (runNums w.d (vRun w)) []] false 3 (fun s _ _ x =>
    let r := solve (fmtOf w.tag) w.n w.mode (matA w x) (vecB w x) (x.vreg w.c).val.toNat
    (s, .ok { v := runWrites w.tag w.d r.1, fl := r.2 })) s

end Sys2Proof.Machine
end

