-- ==== Sys2Proof/Machine/Paired.lean ====
section
/-!
DEFINITION. The paired words (R284 to R286): two halves of class A or B, read together and written together.
-/

namespace Sys2Proof.Machine

open Sys2Proof

/-- Whether an operation of a half is binary: d is then its first source (R286). -/
def pairBinary : PairOp → Bool
  | .mov | .abs | .neg | .not | .fabs | .fneg => false
  | _ => true

/-- One element of a half (R285, R286): x and y are the sources of a binary operation, x that of a unary one. -/
def pairElem (op : PairOp) (t : Tag) (r : Rnd) (sat : Bool) (x y : Nat) : FRes :=
  let z (f : Int → Int → Int) : FRes := (narrow t sat (f (intVal t x) (intVal t y)), 0)
  match op with
  | .mov => (x, 0)
  | .add => z addZ
  | .sub => z subZ
  | .mul => z mulZ
  | .min => z minZ
  | .max => z maxZ
  | .abs => z fun a _ => absZ t a
  | .neg => z fun a _ => negZ a
  | .and => (x &&& y, 0)
  | .or => (x ||| y, 0)
  | .xor => (x ^^^ y, 0)
  | .not => (notE t.width x, 0)
  | .andn => (andnE t.width x y, 0)
  | .shl => (shlE t.width x y, 0)
  | .shr => (shrE t.width x y, 0)
  | .sar => (sarE t.width x y, 0)
  | .fadd => fpAdd (fmtOf t) r x y
  | .fsub => fpSub (fmtOf t) r x y
  | .fmul => fpMul (fmtOf t) r x y
  | .fmin => fpMinMax (fmtOf t) false x y
  | .fmax => fpMinMax (fmtOf t) true x y
  | .fabs => fabsE (fmtOf t) x
  | .fneg => fnegE (fmtOf t) x

/-- Whether an operation is of class B (R285). -/
def pairFloat : PairOp → Bool
  | .fadd | .fsub | .fmul | .fmin | .fmax | .fabs | .fneg => true
  | _ => false

/-- The form of a half: FORMAT reports d as operand a and a as operand b (R286). `regs` are the registers whose
allocation it checks. (DEDUCED, log entry 14.) -/
def pairForm (op : PairOp) (regs : List (Nat × Nat)) (h : Half) : Form :=
  let src (code reg : Nat) : Src :=
    match op with
    | .mov => srcAny code reg
    | _ => if pairFloat op then srcExact code reg h.tag else srcRaw code reg h.tag
  { regs := regs, srcs := (if pairBinary op then [src 0 h.d] else []) ++ [src 1 h.a], dV := [h.d] }

/-- The register a half writes, with its flags. -/
def pairWrite (op : PairOp) (h : Half) (x : Thread) : (Nat × VReg) × Nat :=
  let t := if op = .mov then (x.vreg h.a).tag else h.tag
  let first := if pairBinary op then h.d else h.a
  let rs := (List.range h.tag.ne).map fun i =>
    pairElem op h.tag h.rnd h.sat (elem h.tag.width (x.vreg first).val i) (elem h.tag.width (x.vreg h.a).val i)
  ((h.d, { val := packWord h.tag.width (rs.map fun r => r.1), tag := t }), flagsOf rs)

/-- A paired word (R286): the allocation of every register, the checks of H0, then those of H1, then both halves
write. -/
def pairedWord (op0 : PairOp) (h0 : Half) (op1 : PairOp) (h1 : Half) (s : State) : Out :=
  laneWord [pairForm op0 [(8, h0.d), (8, h0.a), (9, h1.d), (9, h1.a)] h0, pairForm op1 [] h1] false 1 (fun s _ _ x =>
    let r0 := pairWrite op0 h0 x
    let r1 := pairWrite op1 h1 x
    (s, .ok { v := [r0.1, r1.1], fl := r0.2 ||| r1.2 })) s

/-- A paired word whose first half is `mov` (R286). -/
def execMovPaired (h0 : Half) (op1 : PairOp) (h1 : Half) (s : State) : Out := pairedWord .mov h0 op1 h1 s

/-- A paired word whose first half is `add` (R286). -/
def execAddPaired (h0 : Half) (op1 : PairOp) (h1 : Half) (s : State) : Out := pairedWord .add h0 op1 h1 s

/-- A paired word whose first half is `sub` (R286). -/
def execSubPaired (h0 : Half) (op1 : PairOp) (h1 : Half) (s : State) : Out := pairedWord .sub h0 op1 h1 s

/-- A paired word whose first half is `mul` (R286). -/
def execMulPaired (h0 : Half) (op1 : PairOp) (h1 : Half) (s : State) : Out := pairedWord .mul h0 op1 h1 s

/-- A paired word whose first half is `min` (R286). -/
def execMinPaired (h0 : Half) (op1 : PairOp) (h1 : Half) (s : State) : Out := pairedWord .min h0 op1 h1 s

/-- A paired word whose first half is `max` (R286). -/
def execMaxPaired (h0 : Half) (op1 : PairOp) (h1 : Half) (s : State) : Out := pairedWord .max h0 op1 h1 s

/-- A paired word whose first half is `abs` (R286). -/
def execAbsPaired (h0 : Half) (op1 : PairOp) (h1 : Half) (s : State) : Out := pairedWord .abs h0 op1 h1 s

/-- A paired word whose first half is `neg` (R286). -/
def execNegPaired (h0 : Half) (op1 : PairOp) (h1 : Half) (s : State) : Out := pairedWord .neg h0 op1 h1 s

/-- A paired word whose first half is `and` (R286). -/
def execAndPaired (h0 : Half) (op1 : PairOp) (h1 : Half) (s : State) : Out := pairedWord .and h0 op1 h1 s

/-- A paired word whose first half is `or` (R286). -/
def execOrPaired (h0 : Half) (op1 : PairOp) (h1 : Half) (s : State) : Out := pairedWord .or h0 op1 h1 s

/-- A paired word whose first half is `xor` (R286). -/
def execXorPaired (h0 : Half) (op1 : PairOp) (h1 : Half) (s : State) : Out := pairedWord .xor h0 op1 h1 s

/-- A paired word whose first half is `not` (R286). -/
def execNotPaired (h0 : Half) (op1 : PairOp) (h1 : Half) (s : State) : Out := pairedWord .not h0 op1 h1 s

/-- A paired word whose first half is `andn` (R286). -/
def execAndnPaired (h0 : Half) (op1 : PairOp) (h1 : Half) (s : State) : Out := pairedWord .andn h0 op1 h1 s

/-- A paired word whose first half is `shl` (R286). -/
def execShlPaired (h0 : Half) (op1 : PairOp) (h1 : Half) (s : State) : Out := pairedWord .shl h0 op1 h1 s

/-- A paired word whose first half is `shr` (R286). -/
def execShrPaired (h0 : Half) (op1 : PairOp) (h1 : Half) (s : State) : Out := pairedWord .shr h0 op1 h1 s

/-- A paired word whose first half is `sar` (R286). -/
def execSarPaired (h0 : Half) (op1 : PairOp) (h1 : Half) (s : State) : Out := pairedWord .sar h0 op1 h1 s

/-- A paired word whose first half is `fadd` (R286). -/
def execFaddPaired (h0 : Half) (op1 : PairOp) (h1 : Half) (s : State) : Out := pairedWord .fadd h0 op1 h1 s

/-- A paired word whose first half is `fsub` (R286). -/
def execFsubPaired (h0 : Half) (op1 : PairOp) (h1 : Half) (s : State) : Out := pairedWord .fsub h0 op1 h1 s

/-- A paired word whose first half is `fmul` (R286). -/
def execFmulPaired (h0 : Half) (op1 : PairOp) (h1 : Half) (s : State) : Out := pairedWord .fmul h0 op1 h1 s

/-- A paired word whose first half is `fmin` (R286). -/
def execFminPaired (h0 : Half) (op1 : PairOp) (h1 : Half) (s : State) : Out := pairedWord .fmin h0 op1 h1 s

/-- A paired word whose first half is `fmax` (R286). -/
def execFmaxPaired (h0 : Half) (op1 : PairOp) (h1 : Half) (s : State) : Out := pairedWord .fmax h0 op1 h1 s

/-- A paired word whose first half is `fabs` (R286). -/
def execFabsPaired (h0 : Half) (op1 : PairOp) (h1 : Half) (s : State) : Out := pairedWord .fabs h0 op1 h1 s

/-- A paired word whose first half is `fneg` (R286). -/
def execFnegPaired (h0 : Half) (op1 : PairOp) (h1 : Half) (s : State) : Out := pairedWord .fneg h0 op1 h1 s

end Sys2Proof.Machine
end

