-- ==== Sys2Proof/Machine/PowerUnit.lean ====
section
/-!
DEFINITION. Temperature, clock steps and gated quads (R464 to R469), and boot and attestation (R471, R473).
-/

namespace Sys2Proof.Machine

open Sys2Proof

/-! ### Clock steps (R464 to R467) -/

/-- The nibble of a die in CLKSTEP or KMAX: a step less 8. -/
def clockStep (w die : Nat) : Nat := bits w (4 * die) 4

/-- CLKSTEP of a die changed. (DEDUCED, log entry 81.) -/
def State.setStep (s : State) (die k : Nat) : State :=
  { s with power := { s.power with clkstep := s.power.clkstep - clockStep s.power.clkstep die * 2 ^ (4 * die) + k * 2 ^ (4 * die) } }

/-- THERMAL_THROTTLE: die `id` reaches the throttle temperature, and is held at step 8. -/
def execThermalThrottle (s : State) : Out :=
  let d := s.sched.args.id
  if s.diePowered d = false ∨ bitAt s.power.throttled d then notNow "thermalThrottle: no such die, or it is throttled"
  else .next ({ s with power := { s.power with throttled := setBit s.power.throttled d } }.setStep d 0)

/-- THROTTLE_RELEASE: the junction of die `id` has fallen 5 °C below the throttle temperature. -/
def execThrottleRelease (s : State) : Out :=
  let d := s.sched.args.id
  if bitAt s.power.throttled d then .next { s with power := { s.power with throttled := clearBit s.power.throttled d } }
  else notNow "throttleRelease: the die is not throttled"

/-- THERMAL_TRIP: every context stops with CAUSE 0x11, and once they have stopped the compute dies lose power (R252, R464). -/
def execThermalTrip (s : State) : Out :=
  if s.power.tripped then notNow "thermalTrip: the module has tripped"
  else
    let s1 := s.ctxs.foldl (fun s c => s.stopContext c.n { cause := 0x11 }) s
    .next { s1 with power := { s1.power with tripped := true } }

/-- SUPPLY_SAG: the supply of die `id` falls below its threshold: its step drops by 4, to no less than 8.
(DEDUCED, log entry 81.) -/
def execSupplySag (s : State) : Out :=
  let d := s.sched.args.id
  if s.diePowered d then .next (s.setStep d (clockStep s.power.clkstep d - 4)) else notNow "supplySag: no such die"

/-- CLOCK_STEP_RISE: a µs of sound supply has passed on die `id`: its step rises by 1 up to KMAX, unless it is throttled.
(DEDUCED, log entry 81.) -/
def execClockStepRise (s : State) : Out :=
  let d := s.sched.args.id
  let k := clockStep s.power.clkstep d
  if s.diePowered d && !(bitAt s.power.throttled d) && decide (k < clockStep s.power.kmax d) then .next (s.setStep d (k + 1))
  else notNow "clockStepRise: the die's step does not rise"

/-- KMAX is written: a step beyond 8 leaves it unchanged, and a die above its new KMAX falls to it.
(DEDUCED, log entry 81.) -/
def State.writeKmax (s : State) (v0 : Nat) : State :=
  let v := v0 % 2 ^ 32
  if (List.range 8).any fun d => decide (clockStep v d > 8) then s
  else
    let s1 := { s with power := { s.power with kmax := v } }
    (List.range 8).foldl (fun s d => if clockStep s.power.clkstep d > clockStep v d then s.setStep d (clockStep v d) else s) s1

/-- POWER_WINDOW: a window of 1 ms ends, and firmware sets KMAX to `value` (R467). -/
def execPowerWindow (s : State) : Out :=
  if s.fw.running then .next (s.writeKmax s.sched.args.value) else notNow "powerWindow: the firmware core does not run"

/-! ### Gated quads (R455, R469) -/

/-- Whether a quad may be gated: no block is resident there or migrates to it, and no candidate holds it or waits for a block to
leave it. (DESIGN CHOICE, log entry 82.) -/
def State.mayGate (s : State) (quad : Nat) : Bool :=
  !(s.blocks.any fun b => (b.st == .resident || b.st == .clearing) && quadOf b.core == quad)
  && !(s.blocks.any fun b => match b.save with
    | some (.migrate c _) => quadOf c == quad
    | _ => false)
  && !(s.blocks.any fun k => k.st == .pending && (k.awaits.any (fun c => quadOf c == quad) || match k.holds with
    | some h => (if k.gangSize ≤ 1 then quadOf h else h) == quad
    | none => false))

/-- A quad is gated: it counts as absent, and loses power once its trace buffer has drained. A gate that is forced drops what the
buffer still holds into LOST. (DESIGN CHOICE, log entry 82.) -/
def State.gateQuad (s : State) (quad : Nat) (forced : Bool) : State :=
  let mine := s.dbg.buffer.filter fun t => t.quad == quad && !t.stop
  let n := lookupD 0 quad s.dbg.lost + mine.length
  { s with
    power := { s.power with qgate := setBit s.power.qgate quad, ungating := eraseNat quad s.power.ungating }
    dbg := if mine.isEmpty || !forced then s.dbg
           else { s.dbg with buffer := s.dbg.buffer.filter fun t => !(t.quad == quad && !t.stop)
                             lost := setAt quad (if n < 2 ^ 32 then n else 2 ^ 32 - 1) s.dbg.lost } }

/-- A quad begins to be ungated: it stays absent to the distributor until it is. -/
def State.ungateQuad (s : State) (quad : Nat) : State :=
  { s with power := { s.power with qgate := clearBit s.power.qgate quad, ungating := insertNat quad s.power.ungating } }

/-- Dword k of QGATE is written, with `alt` as a forced gate (R455): quads that may not be gated stay as they are.
(DESIGN CHOICE, log entry 82.) -/
def State.writeQgate (s : State) (k v : Nat) : State :=
  (List.range 64).foldl (fun s i =>
    let quad := 64 * k + i
    let on := bitAt s.power.qgate quad
    if bitAt v i ∧ on = false ∧ s.mayGate quad then s.gateQuad quad s.sched.args.alt
    else if bitAt v i = false ∧ on then s.ungateQuad quad else s) s

/-- QUAD_UNGATE_COMPLETE: quad `id` is ungated and available to the distributor. -/
def execQuadUngateComplete (s : State) : Out :=
  if s.power.ungating.contains s.sched.args.id then
    .next { s with power := { s.power with ungating := eraseNat s.sched.args.id s.power.ungating } }
  else notNow "quadUngateComplete: the quad is not being ungated"

/-! ### Boot (R471, R440) -/

/-- The firmware core starts. (DESIGN CHOICE, log entry 83.) -/
def State.startFirmware (s : State) (version measurement : Nat) : State :=
  { s with
    fw := { s.fw with running := true, inReset := false, verified := true, failed := false, rollback := false,
                      version := version, measurement := measurement, wdlast := s.sched.now } }

/-- The whole device is reset: a core that is fenced, or lies in a quad whose Press is, is present no more (R447, R434); what memory
and the cellar hold and the fused version stay, and what stands on the agenda. (DESIGN CHOICE, log entry 125.) -/
def State.deviceReset (s : State) : State :=
  let stays (c : Nat) : Bool := bitAt s.presence.cores c && !(bitAt s.rel.fencedCores c) && !(bitAt s.rel.fencedPress (quadOf c))
  { State.reset with
    sched := { s.sched with glitch := none }
    presence := { s.presence with
      cores := packNat 1 ((List.range 1024).map fun c => bit (stays c))
      quads := packNat 1 ((List.range 256).map fun q => bit (bitAt s.presence.quads q && !(bitAt s.rel.fencedPress q))) }
    mem := s.mem
    cellar := { pages := s.cellar.pages }
    fw := { minVersion := s.fw.minVersion } }

/-- RESET_BOOT: the boot ROM has examined the image of version `value` and digest `data`: `ok` says that signature and digest
are right. Where `alt` is set, the whole device has been reset first. (DESIGN CHOICE, log entries 83 and 125.) -/
def execResetBoot (s0 : State) : Out :=
  let a := s0.sched.args
  let s := if a.alt then s0.deviceReset else s0
  if s.fw.inReset = false then notNow "resetBoot: the firmware core is not in reset"
  else if a.ok ∧ s.fw.minVersion ≤ a.value then .next (s.startFirmware (a.value % 2 ^ 32) (a.data % 2 ^ 384))
  else .next { s with fw := { s.fw with verified := false, failed := true, rollback := a.ok } }

/-- BOOTSTAT as it reads (R468). -/
def Firmware.bootstat (f : Firmware) : Nat := bit f.verified + bit f.failed * 2 + bit f.rollback * 4 + f.minVersion % 256 * 2 ^ 8

/-! ### Attestation (R473) -/

/-- ATTCTL is written: GO starts an attestation unless one is under way, DONE clears on a 1. -/
def State.writeAttctl (s : State) (v : Nat) : State :=
  let f := { s.fw with attdone := s.fw.attdone && !(bitAt v 2) }
  if bitAt v 0 ∧ f.attbusy = false then { s with fw := { f with attbusy := true, attsnap := f.attnonce } } else { s with fw := f }

/-- ATTCTL_GO: a write of `value` to ATTCTL. -/
def execAttctlGo (s : State) : Out := .next (s.writeAttctl s.sched.args.value)

/-- The report without its signature. (DESIGN CHOICE, log entry 83.) -/
def State.report (s : State) : List Byte :=
  natToBytes 8 1 ++ natToBytes 48 s.fw.measurement ++ natToBytes 8 s.presence.config
  ++ natToBytes 4 s.fw.version ++ natToBytes 4 (s.fw.wdresets % 2 ^ 32) ++ natToBytes 32 s.fw.attsnap ++ List.replicate 24 0

/-- ATTEST_DONE: the report is written with its signature, a free value, DONE is set, and vector 1 is raised. -/
def execAttestDone (s : State) : Out :=
  if s.fw.attbusy = false then notNow "attestDone: no attestation is under way"
  else if s.hbmHas s.fw.attbuf 224 = false then .fault (.noSuchAddress s.fw.attbuf)
  else
    let sign := (List.range 12).flatMap fun i => natToBytes 8 (Config.freeSignature s.sched.fresh i).toNat
    let s1 := s.tick.devWrite s.fw.attbuf (s.report ++ sign)
    .next { s1 with fw := { s1.fw with attbusy := false, attdone := true }
                    link := { s1.link with msix := s1.link.msix ++ [1] } }

end Sys2Proof.Machine
end

