-- ==== Sys2Proof/Machine/Predicates.lean ====
section
/-!
DEFINITION. Predicate instructions (R309) and capability instructions (R19, R20, R313 to R315).
-/

namespace Sys2Proof.Machine

open Sys2Proof

/-! ### Predicates (R309) -/

/-- A word that writes predicate d from the thread's state. -/
def predWord (op : Nat) (srcs : List Src) (f : Thread → Bool) (w : Plain) (s : State) : Out :=
  laneWord [{ w.form op srcs with dV := [], dP := [w.d] }] false 1 (fun s _ _ x => (s, .ok { p := [(w.d, f x)] })) s

/-- `pand` (R309). -/
def execPand (w : Plain) (s : State) : Out := predWord 0x20 [] (fun x => x.pred w.a && x.pred w.b) w s

/-- `por` (R309). -/
def execPor (w : Plain) (s : State) : Out := predWord 0x21 [] (fun x => x.pred w.a || x.pred w.b) w s

/-- `pxor` (R309). -/
def execPxor (w : Plain) (s : State) : Out := predWord 0x22 [] (fun x => x.pred w.a != x.pred w.b) w s

/-- `pnot` (R309). -/
def execPnot (w : Plain) (s : State) : Out := predWord 0x23 [] (fun x => !(x.pred w.a)) w s

/-- `pmask` (R309). -/
def execPmask (w : Plain) (s : State) : Out :=
  predWord 0x24 [srcRaw 0 w.a w.tag] (fun x => bitAt (x.vreg w.a).val.toNat w.opx) w s

/-- `pset` (R309). -/
def execPset (w : Plain) (s : State) : Out := predWord 0x25 [] (fun _ => w.opx % 2 == 1) w s

/-! ### Capabilities (R19, R20, R313) -/

/-- A word that writes capability register d from the capability a and the thread's state. -/
def capWord (op : Nat) (srcs : List Src) (f : Thread → CapReg → CapReg) (w : Plain) (s : State) : Out :=
  laneWord [{ w.form op srcs with dV := [], dC := [w.d], caps := [w.a] }] false 1 (fun s _ _ x =>
    (s, .ok { c := [(w.d, { f x (x.creg w.a) with psn := false })] })) s

/-- A capability with another cursor: its tag stays only where the exact cursor lies in [0, 2^48) (R19). -/
def CapReg.withCursor (c : CapReg) (z : Int) : CapReg :=
  { bits := BitVec.ofNat 128 (c.nat / 2 ^ 48 * 2 ^ 48 + wrap 48 z), tag := c.tag && decide (0 ≤ z ∧ z < (2 ^ 48 : Nat)) }

/-- A capability whose rights are masked (R19). -/
def CapReg.andRights (c : CapReg) (m : Nat) : CapReg :=
  { bits := BitVec.ofNat 128 (c.obj * 2 ^ 96 + (c.rights &&& m) * 2 ^ 88 + Machine.bits c.nat 0 88), tag := c.tag }

/-- Whether a capability is well formed (R13). -/
def CapReg.wf (c : CapReg) : Bool := Machine.bits c.nat 48 16 == 0 && c.expo ≤ 39

/-- `cmov` (R313). -/
def execCmov (w : Plain) (s : State) : Out := capWord 0x30 [] (fun _ c => c) w s

/-- `cincoff` (R313). -/
def execCincoff (w : Plain) (s : State) : Out :=
  capWord 0x31 [srcRaw 1 w.b w.tag] (fun x c => c.withCursor ((c.cursor : Int) + (x.vreg w.b).val.toInt)) w s

/-- `csetoff` (R313). -/
def execCsetoff (w : Plain) (s : State) : Out :=
  capWord 0x32 [srcRaw 1 w.b w.tag] (fun x c => c.withCursor (x.vreg w.b).val.toNat) w s

/-- `csetbnd` (R313). -/
def execCsetbnd (w : Plain) (s : State) : Out :=
  capWord 0x33 [srcRaw 1 w.b w.tag, srcRaw 2 w.c w.tag]
    (fun x c => c.setBounds (x.vreg w.b).val.toNat (x.vreg w.c).val.toNat) w s

/-- `candperm` (R313). -/
def execCandperm (w : Plain) (s : State) : Out :=
  capWord 0x34 [srcRaw 1 w.b w.tag] (fun x c => c.andRights (bits (x.vreg w.b).val.toNat 0 8)) w s

/-- The field that `cget` reads (R314). -/
def CapReg.field (c : CapReg) (k : Nat) : Nat :=
  match k with
  | 0 => c.obj
  | 1 => c.rights
  | 2 => c.expo
  | 3 => if c.wf then c.base else 0
  | 4 => if c.wf then c.top else 0
  | 5 => c.cursor
  | _ => bit c.tag

/-- `cget` (R314). -/
def execCget (w : Plain) (s : State) : Out :=
  laneWord [{ w.form 0x35 [] with caps := [w.a] }] false 1 (fun s _ _ x =>
    (s, .ok (Eff.vec w.d .u64 (BitVec.ofNat 64 ((x.creg w.a).field w.opx))))) s

/-- The test of `ctest` (R315): 0 tag, 1 rights, 2 fits, 3 wf; `n` is the vector operand. -/
def CapReg.test (c : CapReg) (k n : Nat) : Bool :=
  match k with
  | 0 => c.tag
  | 1 => c.tag && (n % 256 &&& c.rights) == n % 256
  | 2 => (c.check c.cursor n []).isNone
  | _ => c.wf

/-- `ctest` (R315). -/
def execCtest (w : Plain) (s : State) : Out :=
  let srcs := if w.opx = 1 ∨ w.opx = 2 then [srcRaw 1 w.b w.tag] else []
  laneWord [{ w.form 0x36 srcs with dV := [], dP := [w.d], caps := [w.a] }] false 1 (fun s _ _ x =>
    (s, .ok { p := [(w.d, (x.creg w.a).test w.opx (x.vreg w.b).val.toNat)] })) s

end Sys2Proof.Machine
end

