-- ==== Sys2Proof/Machine/Registers.lean ====
section
/-!
DEFINITION. The apertures of the host link (R425, R426): reads and writes of the control aperture's registers (R426, R433,
R434, R443, R448, R468), the notify and feed apertures (R430, R435), and CXL.mem.
-/

namespace Sys2Proof.Machine

open Sys2Proof

/-! ### Registers with no effect of their own -/

/-- A register set where a condition on the value holds, else left unchanged (R426). -/
def State.setIf (s : State) (good : Bool) (f : State → State) : State := if good then f s else s

/-- A field of the host link, of the firmware, of the error log or of the debug unit changed. -/
def State.onLink (f : HostLink → HostLink) (s : State) : State := { s with link := f s.link }
def State.onFw (f : Firmware → Firmware) (s : State) : State := { s with fw := f s.fw }
def State.onRel (f : Reliab → Reliab) (s : State) : State := { s with rel := f s.rel }
def State.onDbg (f : Debug → Debug) (s : State) : State := { s with dbg := f s.dbg }
def State.onTables (f : Tables → Tables) (s : State) : State := { s with tables := f s.tables }

/-- The rings and tables of the host link: offsets below 0x2000 (R426). -/
def State.writeRings (s : State) (off v : Nat) : State :=
  match off with
  | 0x0000 => s.setIf (v % 64 == 0) (.onLink fun l => { l with cmdbase := v })
  | 0x0008 => s.setIf (4 ≤ v % 16 && v % 16 ≤ 12) (.onLink fun l => { l with cmdlog2 := v % 16 })
  | 0x0010 => s.onLink fun l => { l with cmdtail := v }
  | 0x0020 => s.onLink fun l => { l with cplbase := v }
  | 0x0028 => s.setIf (v % 64 == 0) (.onLink fun l => { l with qcbbase := v })
  | 0x0030 => s.setIf (v % 16 == 0) (.onLink fun l => { l with evbase := v })
  | 0x0038 => s.onLink fun l => { l with evlog2 := v % 16 }
  | 0x0048 => s.onLink fun l => { l with evcons := v }
  | 0x1000 => s.setIf (v % 256 == 0) (.onLink fun l => { l with ctxtb := v })
  | _ => s

/-- The registers of a pool port at an offset of its block (R104). -/
def State.writePort (s : State) (p off v : Nat) : State :=
  match off with
  | 0x00 => s.updPort p fun q => q.writeStat v
  | 0x08 => s.setIf (v % 65536 == 0) fun s => s.updPort p fun q => { q with salvbase := v }
  | 0x10 => s.setIf (v % 2 ^ 32 % 160 == 0) fun s => s.updPort p fun q => { q with salvlen := v % 2 ^ 32 }
  | 0x18 => s.updPort p fun q => { q with salvhead := v % 2 ^ 32 }
  | _ => s

/-- A word of the replica-set table (R45): reserved bits that are set are dropped, the rest is stored.
(DESIGN CHOICE, log entry 95.) -/
def State.writeReplica (s : State) (k v : Nat) : State :=
  let row := (s.caches.replicas.getD (k / 8) []).set (k % 8) (v % 2 ^ 41)
  { s with caches := { s.caches with replicas := s.caches.replicas.set (k / 8) row } }

/-- SDCWIN is set: a count of the present window goes on till the next boundary of the new length, an older one is gone (R446).
(DESIGN CHOICE, log entry 111.) -/
def State.setSdcwin (s : State) (k : Nat) : State :=
  let t := { s with rel := { s.rel with sdcwin := k } }
  { t with rel := { t.rel with mismatches :=
      (s.rel.mismatches.filter fun m => m.2.2 == s.sdcWindow m.1).map fun m => (m.1, m.2.1, t.sdcWindow m.1) } }

/-- The error log and checking registers (R443). -/
def State.writeErrors (s : State) (off v : Nat) : State :=
  match off with
  | 0x00 => s.setIf (v % 32 == 0) (.onRel fun r => { r with errbase := v })
  | 0x08 => s.onRel fun r => { r with errlog2 := v % 16 }
  | 0x18 => s.onRel fun r => { r with errcons := v }
  | 0x20 => s.writeErrlost v
  | 0x40 => s.setIf (16 ≤ v % 32) fun s => s.setSdcwin (v % 32)
  | 0x48 => s.setIf (v % 256 != 0) (.onRel fun r => { r with sdclimit := v % 256 })
  | _ => if 0x100 ≤ off ∧ off < 0x180 then s.writeCecount ((off - 0x100) / 8) v else s

/-- The debug registers (R448). (DEDUCED, log entry 77.) -/
def State.writeDebug (s : State) (off v : Nat) : State :=
  match off with
  | 0x00 => s.writeDbgctl v
  | 0x08 => s.writeDbgcmd v
  | 0x10 => s.onDbg fun d => { d with dbglord := v % 2 ^ 32 }
  | 0x18 => s.setIf (v / 2 ^ 21 == 0) (.onDbg fun d => { d with dbgsel := v, capHalf := none, capRead := false })
  | 0x20 => s.setIf (v % 64 == 0) (.onDbg fun d => { d with trbase := v })
  | 0x28 => s.onDbg fun d => { d with trlog2 := v % 16 }
  | 0x38 => s.onDbg fun d => { d with trcons := v }
  | 0x40 => s.setIf (v % 256 == 0) (.onDbg fun d => { d with rrbase := v })
  | 0x48 => s.onDbg fun d => { d with rrlog2 := v % 16 }
  | 0x50 => s.setIf (bits s.dbg.dbgctl 24 2 == 2) (.onDbg fun d => { d with rrprod := v })
  | 0x58 => s.onDbg fun d => { d with rrcons := v }
  | 0x60 => s.onDbg fun d => { d with rrobj := [v % 2 ^ 32, v / 2 ^ 32, d.rrobj.getD 2 0, d.rrobj.getD 3 0] }
  | 0x68 => s.onDbg fun d => { d with rrobj := [d.rrobj.getD 0 0, d.rrobj.getD 1 0, v % 2 ^ 32, v / 2 ^ 32] }
  | 0x70 => s.setIf (10 ≤ v % 32 && v % 32 ≤ 30) (.onDbg fun d => { d with rrwait := v % 32 })
  | 0x78 => s.writeDbgdata v
  | _ => s

/-- Dword k of ATTNONCE in its place. -/
def putDword (n k v : Nat) : Nat := n - bits n (64 * k) 64 * 2 ^ (64 * k) + v * 2 ^ (64 * k)

/-- The power and security registers (R468). -/
def State.writePower (s : State) (off v : Nat) : State :=
  match off with
  | 0x00 => s.setIf (400 ≤ v % 2 ^ 11 && v % 2 ^ 11 ≤ 1800) fun s => { s with power := { s.power with pwrcap := v % 2 ^ 11 } }
  | 0x10 => s.writeKmax v
  | 0x48 => s.setIf (v % 64 == 0 && s.hbmHas v 224) (.onFw fun f => { f with attbuf := v })
  | 0x70 => s.writeAttctl v
  | _ =>
    if 0x18 ≤ off ∧ off < 0x38 then s.writeQgate ((off - 0x18) / 8) v
    else if 0x50 ≤ off ∧ off < 0x70 then s.onFw (fun f => { f with attnonce := putDword f.attnonce ((off - 0x50) / 8) v })
    else s

/-- The places of the counter tables: level and first offset (R433). -/
def counterPlace (off : Nat) : Option (Nat × Nat) :=
  let one (l base n : Nat) : Option (Nat × Nat) := if base ≤ off ∧ off < base + 8 * n then some (l, (off - base) / 8) else none
  (one 0 0x0E0000 4096).or ((one 1 0x0E8000 1024).or ((one 2 0x0EA000 256).or (one 3 0x0EA800 64)))

/-- A counter entry is written (R433): VALUE only while the entry is not granted. -/
def State.writeCounter (s : State) (level h v : Nat) : State :=
  let c := s.counter level h
  s.setCounter level h { value := if c.granted then c.value else v % 2 ^ 32, owner := bits v 32 16, granted := bitAt v 48 }

/-- Four entries of QMAP, or of ROUTE, of 16 bits each. -/
def State.writeQmap (s : State) (k v : Nat) : State := (List.range 4).foldl (fun s i => s.setMap (4 * k + i) (bits v (16 * i) 16)) s
def State.writeRoute (s : State) (k v : Nat) : State :=
  { s with routes := (List.range 4).foldl (fun r i => setAt (4 * k + i) (bits v (16 * i) 16) r) s.routes }.afterLinks s

/-! ### The apertures (R425, R426) -/

/-- An 8-byte write to the control aperture, at an offset that is a multiple of 8. (DEDUCED, log entry 84.) -/
def State.writeControl (s : State) (off v : Nat) : State :=
  if off < 0x2000 then s.writeRings off v
  else if off < 0x2080 then s.writePort ((off - 0x2000) / 0x40) ((off - 0x2000) % 0x40) v
  else if 0x10000 ≤ off ∧ off < 0x11000 then s.writeReplica ((off - 0x10000) / 8) v
  else if 0x40000 ≤ off ∧ off < 0x42000 then s.writeQmap ((off - 0x40000) / 8) v
  else if 0x50000 ≤ off ∧ off < 0x50200 then s.clearPending ((off - 0x50000) / 8) v
  else if off = 0x60000 then s.writeCatchstat v
  else if off = 0x70000 then s.writeWdkick v
  else if off = 0x70008 then s.onFw fun f => { f with wdmin := v }
  else if off = 0x70010 then s.onFw fun f => { f with wdmax := v }
  else if 0x80000 ≤ off ∧ off < 0x90000 then s.writeErrors (off - 0x80000) v
  else if 0x90000 ≤ off ∧ off < 0xA0000 then s.writeDebug (off - 0x90000) v
  else if 0xA0000 ≤ off ∧ off < 0xB0000 then s.writePower (off - 0xA0000) v
  else if off = 0xB0000 then s.onTables fun t => { t with exstg0 := v }
  else if off = 0xB0008 then s.onTables fun t => { t with exstg1 := v }
  else if off = 0xB0010 then s.writeExwridx v
  else if 0xC0000 ≤ off ∧ off < 0xE0000 then s.writeRoute ((off - 0xC0000) / 8) v
  else if 0x2000000 ≤ off ∧ off < 0x2080000 then s.onTables fun t => { t with act := setAt ((off - 0x2000000) / 8) v t.act }
  else if 0x3000000 ≤ off ∧ off < 0x3040000 then
    s.setIf s.fw.inReset (.onFw fun f => { f with tcm := setCells (off - 0x3000000) (natToBytes 8 v) f.tcm })
  else match counterPlace off with
    | some (level, h) => s.writeCounter level h v
    | none => s

/-- A write to an aperture: BAR, offset, bytes and value. What an aperture does not accept is dropped. -/
def State.writeBar (s : State) (bar off len v : Nat) : Out :=
  match bar with
  | 0 =>
    if len = 16 ∧ off % 16 = 0 ∧ 0x1000000 ≤ off ∧ off < 0x1100000 then
      .next (s.writeExres ((off - 0x1000000) / 16) (v % 2 ^ 64) (v / 2 ^ 64 % 2 ^ 64))
    else if len = 8 ∧ off % 8 = 0 then .next (s.writeControl off (v % 2 ^ 64)) else .next s
  | 2 =>
    if len = 8 ∧ off % 4096 = 0 ∧ off / 4096 < 4096 then
      if s.link.gated then .next (s.onLink fun l => l.catchKick (off / 4096) (v % 2 ^ 64)) else s.kick (off / 4096) v
    else .next s
  | 4 =>
    let f := off / 4096
    let o := off % 4096
    if f ≥ 4096 then .next s
    else if o < 0x800 ∧ (len = 8 ∨ len = 16 ∨ len = 32 ∨ len = 64) ∧ o % len = 0 then .next (s.writeStage f o (natToBytes len v))
    else if o = 0x800 ∧ len = 8 then
      if s.appendWaits f v then notNow "registerWrite: the feed must wait" else .next (s.append f (v % 2 ^ 64))
    else .next s
  | _ => .next s

/-- REGISTER_WRITE: a write of `len` bytes `data` at offset `sub` of BAR `id`. (DEDUCED, log entry 84.) -/
def execRegisterWrite (s : State) : Out :=
  let a := s.sched.args
  s.writeBar a.id a.sub a.len a.data

/-! ### What registers read (R426) -/

/-- LSEQLOW (R426): the smallest sequence number of a launch that has left WAITING and not completed. -/
def State.lseqlow (s : State) : Nat :=
  leastOf s.queues.lseqNext ((s.launches.filter fun l => l.st == .released).map Launch.seq)

/-- A mask of 64 bits at dword k. -/
def dwordOf (m k : Nat) : Nat := bits m (64 * k) 64

/-- Four values of 16 bits as a dword. -/
def four (f : Nat → Nat) (k : Nat) : Nat := (List.range 4).foldl (fun n i => n + f (4 * k + i) % 65536 * 2 ^ (16 * i)) 0

/-- A slot as it reads: its QCB's fields, with bit 0 for BOUND. (DEDUCED, log entry 85.) -/
def Slot.dword (q : Slot) (k : Nat) : Nat :=
  match k with
  | 0 => q.ring / 2 * 2 + q.log2n * 2 ^ 52 + bit q.bound
  | 1 => q.head + q.tail * 2 ^ 32
  | 2 => q.ctx + q.prio * 2 ^ 16 + q.eff * 2 ^ 19
  | _ => 0

/-- The register DBGSEL names, of its thread where that is halted; of a capability the low word, and where that has been read the
high word. (DEDUCED, log entry 79.) -/
def State.readDbgdata (s : State) : Nat :=
  let d := s.dbg
  let n := bits d.dbgsel 12 9
  match (s.commanded false d.dbgblk).find? fun b => b.blk == d.dbgblk && s.lordOf b == d.dbglord with
  | none => 0
  | some b => match b.thread? (bits d.dbgsel 0 10) with
    | none => 0
    | some x =>
      if x.halted = false then 0
      else match bits d.dbgsel 10 2, n with
        | 0, n => if n < x.nregs then (x.vreg n).val.toNat else 0
        | 1, n => bit (x.pred n)
        | 2, n => if d.capRead then (x.creg n).nat / 2 ^ 64 else (x.creg n).nat % 2 ^ 64
        | _, 0 => x.cause
        | _, 1 => x.trappc
        | _, 2 => pc48 x.rgnpc
        | _, 3 => x.aux
        | _, _ => 0

/-- An 8-byte read of the control aperture at an offset that is a multiple of 8: it changes nothing.
(DEDUCED, log entries 84 and 85.) -/
def State.readControl (s : State) (off : Nat) : Nat :=
  let l := s.link
  let p := s.ports.getD ((off - 0x2000) / 0x40) {}
  match off with
  | 0x0000 => l.cmdbase | 0x0008 => l.cmdlog2 | 0x0010 => l.cmdtail | 0x0018 => l.cmdhead | 0x0020 => l.cplbase
  | 0x0028 => l.qcbbase | 0x0030 => l.evbase | 0x0038 => l.evlog2 | 0x0040 => l.evprod | 0x0048 => l.evcons
  | 0x0050 => s.queues.lseqNext | 0x0058 => s.lseqlow | 0x1000 => l.ctxtb
  | 0x60000 => bit l.ovf + l.catcher.length * 2
  | 0x70000 => s.fw.wdkick | 0x70008 => s.fw.wdmin | 0x70010 => s.fw.wdmax | 0x70018 => s.fw.wdresets
  | 0x80000 => s.rel.errbase | 0x80008 => s.rel.errlog2 | 0x80010 => s.rel.errprod | 0x80018 => s.rel.errcons
  | 0x80020 => s.rel.errlost | 0x80040 => s.rel.sdcwin | 0x80048 => s.rel.sdclimit
  | 0x90000 => s.dbg.dbgctl | 0x90010 => s.dbg.dbglord | 0x90018 => s.dbg.dbgsel | 0x90020 => s.dbg.trbase
  | 0x90028 => s.dbg.trlog2 | 0x90030 => s.dbg.trprod | 0x90038 => s.dbg.trcons | 0x90040 => s.dbg.rrbase
  | 0x90048 => s.dbg.rrlog2 | 0x90050 => s.dbg.rrprod | 0x90058 => s.dbg.rrcons
  | 0x90060 => s.dbg.rrobj.getD 0 0 + s.dbg.rrobj.getD 1 0 * 2 ^ 32
  | 0x90068 => s.dbg.rrobj.getD 2 0 + s.dbg.rrobj.getD 3 0 * 2 ^ 32
  | 0x90070 => s.dbg.rrwait | 0x90078 => s.readDbgdata
  | 0xA0000 => s.power.pwrcap | 0xA0008 => s.power.clkstep | 0xA0010 => s.power.kmax | 0xA0040 => s.fw.bootstat
  | 0xA0048 => s.fw.attbuf | 0xA0070 => bit s.fw.attbusy * 2 + bit s.fw.attdone * 4
  | 0xB0000 => s.tables.exstg0 | 0xB0008 => s.tables.exstg1
  | _ =>
    if 0x2000 ≤ off ∧ off < 0x2080 then
      match off % 0x40 with
      | 0x00 => p.stat
      | 0x08 => p.salvbase
      | 0x10 => p.salvlen
      | 0x18 => p.salvhead
      | _ => 0
    else if 0x10000 ≤ off ∧ off < 0x11000 then s.replica ((off - 0x10000) / 64) (off % 64 / 8)
    else if 0x20000 ≤ off ∧ off < 0x21000 then (s.queues.slots.getD ((off - 0x20000) / 64) {}).dword (off % 64 / 8)
    else if 0x40000 ≤ off ∧ off < 0x42000 then four s.mapped ((off - 0x40000) / 8)
    else if 0x50000 ≤ off ∧ off < 0x50200 then
      (s.queues.pending.filter fun q => q / 64 == (off - 0x50000) / 8).foldl (fun m q => setBit m (q % 64)) 0
    else if 0x80100 ≤ off ∧ off < 0x80180 then lookupD 0 ((off - 0x80100) / 8) s.rel.cecount
    else if 0x80200 ≤ off ∧ off < 0x80280 then dwordOf s.rel.fencedCores ((off - 0x80200) / 8)
    else if 0x80280 ≤ off ∧ off < 0x802A0 then dwordOf s.rel.fencedPress ((off - 0x80280) / 8)
    else if 0xA0018 ≤ off ∧ off < 0xA0038 then dwordOf s.power.qgate ((off - 0xA0018) / 8)
    else if 0xA0050 ≤ off ∧ off < 0xA0070 then dwordOf s.fw.attnonce ((off - 0xA0050) / 8)
    else if 0xC0000 ≤ off ∧ off < 0xE0000 then four (fun q => lookupD 0 q s.routes) ((off - 0xC0000) / 8)
    else if 0xF0000 ≤ off ∧ off < 0xF0080 then dwordOf s.presence.cores ((off - 0xF0000) / 8)
    else if 0xF0080 ≤ off ∧ off < 0xF00A0 then dwordOf s.presence.quads ((off - 0xF0080) / 8)
    else if off = 0xF00A0 then s.presence.channels
    else if 0x1000000 ≤ off ∧ off < 0x1100000 then
      let e := lookupD (0, 0) ((off - 0x1000000) / 16) s.tables.exres
      if off % 16 = 0 then e.1 else e.2
    else if 0x2000000 ≤ off ∧ off < 0x2080000 then lookupD 0 ((off - 0x2000000) / 8) s.tables.act
    else if 0x3000000 ≤ off ∧ off < 0x3040000 then bytesToNat (cellsAt s.fw.tcm (off - 0x3000000) 8)
    else match counterPlace off with
      | some (level, h) =>
        let c := s.counter level h
        c.value + c.owner * 2 ^ 32 + bit c.granted * 2 ^ 48
      | none => 0

/-- What a page of the feed aperture reads (R435): FSTAT and FTAIL. -/
def Feed.read (e : Feed) (off : Nat) : Nat :=
  match off with
  | 0x808 => e.status + e.appends % 2 ^ 32 * 2 ^ 32
  | 0x810 => e.tail
  | _ => 0

/-- What a read of an aperture gives: BAR, offset and bytes. It changes nothing, and what an aperture does not accept reads 0
(R426, R430, R435). (DEDUCED, log entry 84.) -/
def State.readBar (s : State) (bar off len : Nat) : Nat :=
  match bar with
  | 0 =>
    if len = 16 ∧ off % 16 = 0 ∧ 0x1000000 ≤ off ∧ off < 0x1100000 then s.readControl off + s.readControl (off + 8) * 2 ^ 64
    else if len = 8 ∧ off % 8 = 0 then s.readControl off else 0
  | 4 => if len = 8 ∧ off / 4096 < 4096 then (s.feed (off / 4096)).read (off % 4096) else 0
  | _ => 0

/-- The state after a read of an aperture: reads change nothing, but that the two of a capability through DBGDATA alternate between
its words (R448). (DEDUCED, log entry 79.) -/
def State.afterRead (s : State) (bar off len : Nat) : State :=
  if bar = 0 ∧ off = 0x90078 ∧ len = 8 ∧ bits s.dbg.dbgsel 10 2 = 2 then { s with dbg := { s.dbg with capRead := !s.dbg.capRead } } else s

/-! ### CXL.mem (R39, R425) -/

/-- HOST_CXL_MEM_ACCESS: the host reads, or where `ok` is set writes, `len` bytes of a line of HBM at `value`; a write of
`data` is performed at device scope, clears tags and triggers watches, and does not come between lanes of one word (R121).
(DEDUCED, log entry 86.) -/
def execHostCxlMemAccess (s : State) : Out :=
  let a := s.sched.args
  if a.len = 0 ∨ a.value % 64 + a.len > 64 ∨ s.hbmHas a.value a.len = false then notNow "hostCxlMemAccess: no line of HBM"
  else if a.ok && s.lockedOut 0 (devPiece a.value a.len) then notNow "hostCxlMemAccess: the place must wait"
  else if a.ok then .next (s.devStore a.value a.len a.data)
  else .next (s.touchHome (devPiece a.value a.len) a.value a.len false)

end Sys2Proof.Machine
end

