-- ==== Sys2Proof/Machine/Dispatch.lean ====
section
/-!
DEFINITION. One arm for each constructor of `Instr`: the direct call of its meaning.
-/

namespace Sys2Proof.Machine

open Sys2Proof

/-- What an instruction or an event does. -/
def exec (i : Instr) (s : State) : Host.Outcome State Fault Refusal :=
  match i with
  | .mov w => Sys2Proof.Machine.execMov w s
  | .add w => Sys2Proof.Machine.execAdd w s
  | .sub w => Sys2Proof.Machine.execSub w s
  | .mul w => Sys2Proof.Machine.execMul w s
  | .mulhi w => Sys2Proof.Machine.execMulhi w s
  | .mad w => Sys2Proof.Machine.execMad w s
  | .min w => Sys2Proof.Machine.execMin w s
  | .max w => Sys2Proof.Machine.execMax w s
  | .abs w => Sys2Proof.Machine.execAbs w s
  | .neg w => Sys2Proof.Machine.execNeg w s
  | .and w => Sys2Proof.Machine.execAnd w s
  | .or w => Sys2Proof.Machine.execOr w s
  | .xor w => Sys2Proof.Machine.execXor w s
  | .not w => Sys2Proof.Machine.execNot w s
  | .andn w => Sys2Proof.Machine.execAndn w s
  | .shl w => Sys2Proof.Machine.execShl w s
  | .shr w => Sys2Proof.Machine.execShr w s
  | .sar w => Sys2Proof.Machine.execSar w s
  | .rot w => Sys2Proof.Machine.execRot w s
  | .clz w => Sys2Proof.Machine.execClz w s
  | .popc w => Sys2Proof.Machine.execPopc w s
  | .brev w => Sys2Proof.Machine.execBrev w s
  | .bfx w => Sys2Proof.Machine.execBfx w s
  | .bfi w => Sys2Proof.Machine.execBfi w s
  | .sel w => Sys2Proof.Machine.execSel w s
  | .cmp w => Sys2Proof.Machine.execCmp w s
  | .pand w => Sys2Proof.Machine.execPand w s
  | .por w => Sys2Proof.Machine.execPor w s
  | .pxor w => Sys2Proof.Machine.execPxor w s
  | .pnot w => Sys2Proof.Machine.execPnot w s
  | .pmask w => Sys2Proof.Machine.execPmask w s
  | .pset w => Sys2Proof.Machine.execPset w s
  | .cvtI w => Sys2Proof.Machine.execCvtI w s
  | .pack w => Sys2Proof.Machine.execPack w s
  | .unpack w => Sys2Proof.Machine.execUnpack w s
  | .retag w => Sys2Proof.Machine.execRetag w s
  | .cmov w => Sys2Proof.Machine.execCmov w s
  | .cincoff w => Sys2Proof.Machine.execCincoff w s
  | .csetoff w => Sys2Proof.Machine.execCsetoff w s
  | .csetbnd w => Sys2Proof.Machine.execCsetbnd w s
  | .candperm w => Sys2Proof.Machine.execCandperm w s
  | .cget w => Sys2Proof.Machine.execCget w s
  | .ctest w => Sys2Proof.Machine.execCtest w s
  | .fadd w => Sys2Proof.Machine.execFadd w s
  | .fsub w => Sys2Proof.Machine.execFsub w s
  | .fmul w => Sys2Proof.Machine.execFmul w s
  | .fma w => Sys2Proof.Machine.execFma w s
  | .fms w => Sys2Proof.Machine.execFms w s
  | .fnma w => Sys2Proof.Machine.execFnma w s
  | .fmin w => Sys2Proof.Machine.execFmin w s
  | .fmax w => Sys2Proof.Machine.execFmax w s
  | .fabs w => Sys2Proof.Machine.execFabs w s
  | .fneg w => Sys2Proof.Machine.execFneg w s
  | .fcmp w => Sys2Proof.Machine.execFcmp w s
  | .fclass w => Sys2Proof.Machine.execFclass w s
  | .fscale w => Sys2Proof.Machine.execFscale w s
  | .frint w => Sys2Proof.Machine.execFrint w s
  | .dot2 w => Sys2Proof.Machine.execDot2 w s
  | .dot4 w => Sys2Proof.Machine.execDot4 w s
  | .cvtF w => Sys2Proof.Machine.execCvtF w s
  | .cvtFi w => Sys2Proof.Machine.execCvtFi w s
  | .cvtIf w => Sys2Proof.Machine.execCvtIf w s
  | .cvtQ w => Sys2Proof.Machine.execCvtQ w s
  | .cvtM w => Sys2Proof.Machine.execCvtM w s
  | .rcp w => Sys2Proof.Machine.execRcp w s
  | .rsqrt w => Sys2Proof.Machine.execRsqrt w s
  | .sqrt w => Sys2Proof.Machine.execSqrt w s
  | .div w => Sys2Proof.Machine.execDiv w s
  | .exp2 w => Sys2Proof.Machine.execExp2 w s
  | .log2 w => Sys2Proof.Machine.execLog2 w s
  | .sin w => Sys2Proof.Machine.execSin w s
  | .cos w => Sys2Proof.Machine.execCos w s
  | .tanh w => Sys2Proof.Machine.execTanh w s
  | .shfl w => Sys2Proof.Machine.execShfl w s
  | .bcast w => Sys2Proof.Machine.execBcast w s
  | .ballot w => Sys2Proof.Machine.execBallot w s
  | .vote w => Sys2Proof.Machine.execVote w s
  | .matchLanes w => Sys2Proof.Machine.execMatchLanes w s
  | .scan w => Sys2Proof.Machine.execScan w s
  | .reduce w => Sys2Proof.Machine.execReduce w s
  | .sort w => Sys2Proof.Machine.execSort w s
  | .rank w => Sys2Proof.Machine.execRank w s
  | .mset w => Sys2Proof.Machine.execMset w s
  | .madd w => Sys2Proof.Machine.execMadd w s
  | .mmul w => Sys2Proof.Machine.execMmul w s
  | .mmad w => Sys2Proof.Machine.execMmad w s
  | .mtrans w => Sys2Proof.Machine.execMtrans w s
  | .mvmul w => Sys2Proof.Machine.execMvmul w s
  | .mchol w => Sys2Proof.Machine.execMchol w s
  | .mlu w => Sys2Proof.Machine.execMlu w s
  | .msolve w => Sys2Proof.Machine.execMsolve w s
  | .pacq w => Sys2Proof.Machine.execPacq w s
  | .prel w => Sys2Proof.Machine.execPrel w s
  | .ppass w => Sys2Proof.Machine.execPpass w s
  | .cpy w => Sys2Proof.Machine.execCpy w s
  | .cpyg w => Sys2Proof.Machine.execCpyg w s
  | .cpym w => Sys2Proof.Machine.execCpym w s
  | .rack w => Sys2Proof.Machine.execRack w s
  | .qfence w => Sys2Proof.Machine.execQfence w s
  | .lbarm w => Sys2Proof.Machine.execLbarm w s
  | .ecntAdd w => Sys2Proof.Machine.execEcntAdd w s
  | .ecntRd w => Sys2Proof.Machine.execEcntRd w s
  | .exlook w => Sys2Proof.Machine.execExlook w s
  | .rbacq w => Sys2Proof.Machine.execRbacq w s
  | .rbrel w => Sys2Proof.Machine.execRbrel w s
  | .bar w => Sys2Proof.Machine.execBar w s
  | .gbar w => Sys2Proof.Machine.execGbar w s
  | .mon w => Sys2Proof.Machine.execMon w s
  | .mwait w => Sys2Proof.Machine.execMwait w s
  | .getsr w => Sys2Proof.Machine.execGetsr w s
  | .setsr w => Sys2Proof.Machine.execSetsr w s
  | .launch w => Sys2Proof.Machine.execLaunch w s
  | .waitc w => Sys2Proof.Machine.execWaitc w s
  | .yield w => Sys2Proof.Machine.execYield w s
  | .fpop w => Sys2Proof.Machine.execFpop w s
  | .cancel w => Sys2Proof.Machine.execCancel w s
  | .brk w => Sys2Proof.Machine.execBrk w s
  | .xget w => Sys2Proof.Machine.execXget w s
  | .xput w => Sys2Proof.Machine.execXput w s
  | .movi w => Sys2Proof.Machine.execMovi w s
  | .movhi w => Sys2Proof.Machine.execMovhi w s
  | .addi w => Sys2Proof.Machine.execAddi w s
  | .andi w => Sys2Proof.Machine.execAndi w s
  | .ori w => Sys2Proof.Machine.execOri w s
  | .cmpi w => Sys2Proof.Machine.execCmpi w s
  | .bra w => Sys2Proof.Machine.execBra w s
  | .call w => Sys2Proof.Machine.execCall w s
  | .ret w => Sys2Proof.Machine.execRet w s
  | .jmpr w => Sys2Proof.Machine.execJmpr w s
  | .loop w => Sys2Proof.Machine.execLoop w s
  | .nop w => Sys2Proof.Machine.execNop w s
  | .reform w => Sys2Proof.Machine.execReform w s
  | .rgn w => Sys2Proof.Machine.execRgn w s
  | .exit w => Sys2Proof.Machine.execExit w s
  | .trap w => Sys2Proof.Machine.execTrap w s
  | .assert w => Sys2Proof.Machine.execAssert w s
  | .rte w => Sys2Proof.Machine.execRte w s
  | .ld w => Sys2Proof.Machine.execLd w s
  | .ldacq w => Sys2Proof.Machine.execLdacq w s
  | .st w => Sys2Proof.Machine.execSt w s
  | .strel w => Sys2Proof.Machine.execStrel w s
  | .lds w => Sys2Proof.Machine.execLds w s
  | .sts w => Sys2Proof.Machine.execSts w s
  | .atomAdd w => Sys2Proof.Machine.execAtomAdd w s
  | .atomMin w => Sys2Proof.Machine.execAtomMin w s
  | .atomMax w => Sys2Proof.Machine.execAtomMax w s
  | .atomAnd w => Sys2Proof.Machine.execAtomAnd w s
  | .atomOr w => Sys2Proof.Machine.execAtomOr w s
  | .atomXor w => Sys2Proof.Machine.execAtomXor w s
  | .atomXchg w => Sys2Proof.Machine.execAtomXchg w s
  | .atomCas w => Sys2Proof.Machine.execAtomCas w s
  | .redAdd w => Sys2Proof.Machine.execRedAdd w s
  | .redMin w => Sys2Proof.Machine.execRedMin w s
  | .redMax w => Sys2Proof.Machine.execRedMax w s
  | .redAnd w => Sys2Proof.Machine.execRedAnd w s
  | .redOr w => Sys2Proof.Machine.execRedOr w s
  | .redXor w => Sys2Proof.Machine.execRedXor w s
  | .atomsAdd w => Sys2Proof.Machine.execAtomsAdd w s
  | .atomsMin w => Sys2Proof.Machine.execAtomsMin w s
  | .atomsMax w => Sys2Proof.Machine.execAtomsMax w s
  | .atomsAnd w => Sys2Proof.Machine.execAtomsAnd w s
  | .atomsOr w => Sys2Proof.Machine.execAtomsOr w s
  | .atomsXor w => Sys2Proof.Machine.execAtomsXor w s
  | .atomsXchg w => Sys2Proof.Machine.execAtomsXchg w s
  | .atomsCas w => Sys2Proof.Machine.execAtomsCas w s
  | .wsum w => Sys2Proof.Machine.execWsum w s
  | .wrd w => Sys2Proof.Machine.execWrd w s
  | .mld w => Sys2Proof.Machine.execMld w s
  | .mst w => Sys2Proof.Machine.execMst w s
  | .ldcap w => Sys2Proof.Machine.execLdcap w s
  | .stcap w => Sys2Proof.Machine.execStcap w s
  | .fence w => Sys2Proof.Machine.execFence w s
  | .prefetch w => Sys2Proof.Machine.execPrefetch w s
  | .cachectlWb w => Sys2Proof.Machine.execCachectlWb w s
  | .cachectlEvict w => Sys2Proof.Machine.execCachectlEvict w s
  | .cachectlL1drop w => Sys2Proof.Machine.execCachectlL1drop w s
  | .movPaired h0 op1 h1 => Sys2Proof.Machine.execMovPaired h0 op1 h1 s
  | .addPaired h0 op1 h1 => Sys2Proof.Machine.execAddPaired h0 op1 h1 s
  | .subPaired h0 op1 h1 => Sys2Proof.Machine.execSubPaired h0 op1 h1 s
  | .mulPaired h0 op1 h1 => Sys2Proof.Machine.execMulPaired h0 op1 h1 s
  | .minPaired h0 op1 h1 => Sys2Proof.Machine.execMinPaired h0 op1 h1 s
  | .maxPaired h0 op1 h1 => Sys2Proof.Machine.execMaxPaired h0 op1 h1 s
  | .absPaired h0 op1 h1 => Sys2Proof.Machine.execAbsPaired h0 op1 h1 s
  | .negPaired h0 op1 h1 => Sys2Proof.Machine.execNegPaired h0 op1 h1 s
  | .andPaired h0 op1 h1 => Sys2Proof.Machine.execAndPaired h0 op1 h1 s
  | .orPaired h0 op1 h1 => Sys2Proof.Machine.execOrPaired h0 op1 h1 s
  | .xorPaired h0 op1 h1 => Sys2Proof.Machine.execXorPaired h0 op1 h1 s
  | .notPaired h0 op1 h1 => Sys2Proof.Machine.execNotPaired h0 op1 h1 s
  | .andnPaired h0 op1 h1 => Sys2Proof.Machine.execAndnPaired h0 op1 h1 s
  | .shlPaired h0 op1 h1 => Sys2Proof.Machine.execShlPaired h0 op1 h1 s
  | .shrPaired h0 op1 h1 => Sys2Proof.Machine.execShrPaired h0 op1 h1 s
  | .sarPaired h0 op1 h1 => Sys2Proof.Machine.execSarPaired h0 op1 h1 s
  | .faddPaired h0 op1 h1 => Sys2Proof.Machine.execFaddPaired h0 op1 h1 s
  | .fsubPaired h0 op1 h1 => Sys2Proof.Machine.execFsubPaired h0 op1 h1 s
  | .fmulPaired h0 op1 h1 => Sys2Proof.Machine.execFmulPaired h0 op1 h1 s
  | .fminPaired h0 op1 h1 => Sys2Proof.Machine.execFminPaired h0 op1 h1 s
  | .fmaxPaired h0 op1 h1 => Sys2Proof.Machine.execFmaxPaired h0 op1 h1 s
  | .fabsPaired h0 op1 h1 => Sys2Proof.Machine.execFabsPaired h0 op1 h1 s
  | .fnegPaired h0 op1 h1 => Sys2Proof.Machine.execFnegPaired h0 op1 h1 s
  | .memoryResponse => Sys2Proof.Machine.execMemoryResponse s
  | .storeBufferPerform => Sys2Proof.Machine.execStoreBufferPerform s
  | .commandEnqueue => Sys2Proof.Machine.execCommandEnqueue s
  | .copyUnit => Sys2Proof.Machine.execCopyUnit s
  | .commandComplete => Sys2Proof.Machine.execCommandComplete s
  | .passJoin => Sys2Proof.Machine.execPassJoin s
  | .cpymPassPost => Sys2Proof.Machine.execCpymPassPost s
  | .pressGrant => Sys2Proof.Machine.execPressGrant s
  | .passComplete => Sys2Proof.Machine.execPassComplete s
  | .reservationFree => Sys2Proof.Machine.execReservationFree s
  | .watchTrigger => Sys2Proof.Machine.execWatchTrigger s
  | .mwaitTimeout => Sys2Proof.Machine.execMwaitTimeout s
  | .binAgedDraw => Sys2Proof.Machine.execBinAgedDraw s
  | .slotHeadCheck => Sys2Proof.Machine.execSlotHeadCheck s
  | .launchRelease => Sys2Proof.Machine.execLaunchRelease s
  | .pageReadStart => Sys2Proof.Machine.execPageReadStart s
  | .senseDone => Sys2Proof.Machine.execSenseDone s
  | .transferDone => Sys2Proof.Machine.execTransferDone s
  | .correctionDone => Sys2Proof.Machine.execCorrectionDone s
  | .pageBufferEnter => Sys2Proof.Machine.execPageBufferEnter s
  | .pageDelivery => Sys2Proof.Machine.execPageDelivery s
  | .blockPlace => Sys2Proof.Machine.execBlockPlace s
  | .placementOverdue => Sys2Proof.Machine.execPlacementOverdue s
  | .blockClearingDone => Sys2Proof.Machine.execBlockClearingDone s
  | .blockFinish => Sys2Proof.Machine.execBlockFinish s
  | .waitConditionMet => Sys2Proof.Machine.execWaitConditionMet s
  | .blockSave => Sys2Proof.Machine.execBlockSave s
  | .pinnedWaitLimit => Sys2Proof.Machine.execPinnedWaitLimit s
  | .trapDelivery => Sys2Proof.Machine.execTrapDelivery s
  | .faultRecordWrite => Sys2Proof.Machine.execFaultRecordWrite s
  | .replicaLockTimeout => Sys2Proof.Machine.execReplicaLockTimeout s
  | .atsCompletion => Sys2Proof.Machine.execAtsCompletion s
  | .atsInvalidate => Sys2Proof.Machine.execAtsInvalidate s
  | .hostSnoop => Sys2Proof.Machine.execHostSnoop s
  | .bisnp => Sys2Proof.Machine.execBisnp s
  | .poolRecoveryTimeout => Sys2Proof.Machine.execPoolRecoveryTimeout s
  | .poolCompletionTimeout => Sys2Proof.Machine.execPoolCompletionTimeout s
  | .poolViralSignal => Sys2Proof.Machine.execPoolViralSignal s
  | .poolLinkUp => Sys2Proof.Machine.execPoolLinkUp s
  | .portstatWrite => Sys2Proof.Machine.execPortstatWrite s
  | .swirilLinkDown => Sys2Proof.Machine.execSwirilLinkDown s
  | .peerRequest => Sys2Proof.Machine.execPeerRequest s
  | .peerResponse => Sys2Proof.Machine.execPeerResponse s
  | .ctxload cmd => Sys2Proof.Machine.execCtxload cmd s
  | .objcreate cmd => Sys2Proof.Machine.execObjcreate cmd s
  | .objinv cmd => Sys2Proof.Machine.execObjinv cmd s
  | .objinvComplete => Sys2Proof.Machine.execObjinvComplete s
  | .faultans cmd => Sys2Proof.Machine.execFaultans cmd s
  | .preempt cmd => Sys2Proof.Machine.execPreempt cmd s
  | .preemptComplete => Sys2Proof.Machine.execPreemptComplete s
  | .resume cmd => Sys2Proof.Machine.execResume cmd s
  | .slotbind cmd => Sys2Proof.Machine.execSlotbind cmd s
  | .slotunbind cmd => Sys2Proof.Machine.execSlotunbind cmd s
  | .pgm cmd => Sys2Proof.Machine.execPgm cmd s
  | .erase cmd => Sys2Proof.Machine.execErase cmd s
  | .feedmap cmd => Sys2Proof.Machine.execFeedmap cmd s
  | .pgread cmd => Sys2Proof.Machine.execPgread cmd s
  | .notifyKick => Sys2Proof.Machine.execNotifyKick s
  | .catcherKick => Sys2Proof.Machine.execCatcherKick s
  | .catcherReplay => Sys2Proof.Machine.execCatcherReplay s
  | .exresWrite => Sys2Proof.Machine.execExresWrite s
  | .exwridx => Sys2Proof.Machine.execExwridx s
  | .pendingWrite => Sys2Proof.Machine.execPendingWrite s
  | .catchstatWrite => Sys2Proof.Machine.execCatchstatWrite s
  | .feedAppend => Sys2Proof.Machine.execFeedAppend s
  | .ageingInterval => Sys2Proof.Machine.execAgeingInterval s
  | .eventRecordWrite => Sys2Proof.Machine.execEventRecordWrite s
  | .wdkick => Sys2Proof.Machine.execWdkick s
  | .watchdogTimeout => Sys2Proof.Machine.execWatchdogTimeout s
  | .sdcWindowBoundary => Sys2Proof.Machine.execSdcWindowBoundary s
  | .errlostWrite => Sys2Proof.Machine.execErrlostWrite s
  | .cecountWrite => Sys2Proof.Machine.execCecountWrite s
  | .dbgctlWrite => Sys2Proof.Machine.execDbgctlWrite s
  | .dbgcmdStop => Sys2Proof.Machine.execDbgcmdStop s
  | .dbgcmdResume => Sys2Proof.Machine.execDbgcmdResume s
  | .dbgdataWrite => Sys2Proof.Machine.execDbgdataWrite s
  | .haltComplete => Sys2Proof.Machine.execHaltComplete s
  | .traceDrain => Sys2Proof.Machine.execTraceDrain s
  | .rrChunkWrite => Sys2Proof.Machine.execRrChunkWrite s
  | .replayGateRelease => Sys2Proof.Machine.execReplayGateRelease s
  | .replayGateTimeout => Sys2Proof.Machine.execReplayGateTimeout s
  | .thermalThrottle => Sys2Proof.Machine.execThermalThrottle s
  | .thermalTrip => Sys2Proof.Machine.execThermalTrip s
  | .supplySag => Sys2Proof.Machine.execSupplySag s
  | .clockStepRise => Sys2Proof.Machine.execClockStepRise s
  | .powerWindow => Sys2Proof.Machine.execPowerWindow s
  | .attctlGo => Sys2Proof.Machine.execAttctlGo s
  | .attestDone => Sys2Proof.Machine.execAttestDone s
  | .resetBoot => Sys2Proof.Machine.execResetBoot s
  | .registerWrite => Sys2Proof.Machine.execRegisterWrite s
  | .hostCxlMemAccess => Sys2Proof.Machine.execHostCxlMemAccess s
  | .poolLinkExitL0 => Sys2Proof.Machine.execPoolLinkExitL0 s
  | .throttleRelease => Sys2Proof.Machine.execThrottleRelease s
  | .quadUngateComplete => Sys2Proof.Machine.execQuadUngateComplete s
  | .pgmEraseComplete => Sys2Proof.Machine.execPgmEraseComplete s

end Sys2Proof.Machine
end

