-- ==== Sys2Proof/Machine/Turns.lean ====
section
/-!
DEFINITION. What follows every turn: groups that waited become READY once their word can issue (R178, R231).
-/

namespace Sys2Proof.Machine

open Sys2Proof

/-- Whether a group waits for what its word needs: STALLED, or FROZEN with a runner whose word waits. -/
def Group.waiting (g : Group) : Bool := g.st == .stalled || g.stuck

/-- Whether the word of a group that waits would issue now, or would ask for something that it has not asked for yet: the word is
tried on the state, and what it would do is dropped. (DESIGN CHOICE, log entry 3.) -/
def State.unblocked (s : State) (g : Group) : Bool :=
  match s.block? g.blk with
  | none => true
  | some b =>
    let s0 := s.updGroup g.gid fun g => { g with st := if g.stuck then g.st else .ready, stuck := false }
    let s1 := { s0 with sched := { s0.sched with cur := g.gid, before := none, glitch := none } }
    let after : Out := match s1.group? g.gid with
      | none => .next s1
      | some g1 => match fetchGroup g1 b s1 with
        | .run i s2 => exec i s2
        | .done o => o
    match after with
    | .next t => !((t.group? g.gid).any Group.waiting) || t.caches.asks != s.caches.asks || t.items != s.items
    | _ => true

/-- A group that waited is READY (R178): WAIT counts from now (R231). -/
def Group.wake (g : Group) (now : Nat) : Group :=
  { g with st := if g.stuck then g.st else .ready, stuck := false, readyAt := now }

/-- Groups that waited and whose word can issue become READY (R178, R231): after every turn but one that left its own group
waiting. (DESIGN CHOICE, log entry 3.) -/
def endTurn (t : Turn) (s : State) : State :=
  let tried : Bool := match t with
    | .issue _ _ => (s.group? s.sched.cur).any Group.waiting
    | _ => false
  if tried then s
  else { s with groups := s.groups.map fun g => if g.waiting && s.unblocked g then g.wake s.sched.now else g }

end Sys2Proof.Machine
end

