-- ==== Sys2Proof/Machine/Step.lean ====
section
/-!
DEFINITION. One step of the device: the next turn begins, the instruction or event it names is performed, and groups that
waited may try again. Also how a word is placed for the next step.
-/

namespace Sys2Proof.Machine

open Sys2Proof

/-- The outcome of a turn whose instruction or event has been performed. -/
def finishTurn (t : Turn) : Out → Out
  | .next s => .next (endTurn t s)
  | .fault r => .fault r
  | .refused r => .refused r

/-- One step. -/
def step (s : State) : Host.Outcome State Fault Refusal :=
  let t := s.nextTurn
  match beginTurn t.1 t.2 with
  | .run i s' => finishTurn t.1 (exec i s')
  | .done o => finishTurn t.1 o

/-- The state in which the next step fetches a given word, or performs a given 64-byte command where the word has more
than 64 bits. (DESIGN CHOICE, log entry 13.) -/
def State.withFetchWord (s : State) (nbits w : Nat) : State :=
  if nbits ≤ 64 then s.placeWord (w % 2 ^ 64) else s.placeCommand (w % 2 ^ 512)

end Sys2Proof.Machine
end

