-- ==== Sys2Proof/Safety.lean ====
section
/-!
DEFINITION. What counts as a safe state, and the words claims use: the active threads of the group that issues, when
nothing holds a word back, and the state a word leaves behind when it completes.
-/

namespace Sys2Proof

open Sys2Proof.Machine

/-- The scratch of a block is in canonical form (R62, R64). -/
def scratchCanonical (b : Block) : Bool := cellsFrom 0 b.scr && risingFrom 0 b.scrPoison

/-- A state whose data stand in canonical form, so that equal contents are equal data. -/
def Safe (s : State) : Prop := s.mem.wf = true ∧ ∀ b ∈ s.blocks, scratchCanonical b = true

end Sys2Proof

namespace Sys2Proof.Machine

open Sys2Proof

/-! ### The threads of a word -/

/-- The active threads of the group that issues, in ascending home lane (R283). -/
def actives (gd : Guard) (g : Group) (b : Block) : List Thread := (g.issuers b).filter fun x => x.active gd

/-- Nothing holds a word back: no outstanding request writes a register that it names, an outstanding acquire does not
stand before a memory word, no atomic is awaited, and no error of a datapath strikes a checked block (R123, R133, R445). -/
def Unhindered (s : State) (b : Block) (fs : List Form) (mem : Bool) (kind : Nat) (act : List Thread) : Prop :=
  (∀ x ∈ act, (∀ f ∈ fs, s.hazard b.uid x.tid f = false) ∧ (mem = true → s.acquiring b.uid x.tid = false)
    ∧ s.awaiting b.uid x.tid = false)
  ∧ s.glitchOf b act kind = none

/-- Every check of items 1 to 5 of R238 passes for every thread. -/
def Passes (fs : List Form) (act : List Thread) : Prop := ∀ x ∈ act, checkAll x fs = none

/-! ### The state after a word -/

/-- The effects of the threads of a word, with the trace record of a transfer (R79, R210, R452). -/
def State.effectsDone (s : State) (g : Group) (b : Block) (oks : List (Thread × Eff)) : State :=
  ((s.dropAsks s.sched.cur).putLanes b g.gid (groupPinned (g.issuers b)) oks).branchTrace g b (groupPinned (g.issuers b))
    (g.issuers b) oks

/-- A word completes: its threads' effects, the next PCs, and the group goes on (R176). -/
def State.wordDone (s : State) (g : Group) (b : Block) (oks : List (Thread × Eff)) : State :=
  ((s.effectsDone g b oks).stepPcs b (g.issuers b) oks).regroup g.gid

/-- The memory port takes what a word requests, with its loads in place in `t` and the lines that a pinned group's effects reach
besides (R72); a word that requests nothing needs no room there. -/
def PortTakes (t : State) (core part : Nat) (pinned : Bool) (oks : List (Thread × Eff)) : Prop :=
  ((∀ o ∈ oks, o.2.req = none) ∧ effectLines pinned oks = [])
  ∨ t.requestsFit core part (effectLines pinned oks).length = true

/-- There is room for what the threads of a word do: a pinned group performs effects at issue only once its threads have
nothing outstanding, open or committed, no word is being performed on their places (R121), and every queue has room (R211);
another group's entries fit the quota of its block
(R83); and the memory port takes the requests (R72). A word that adds no entry or no request needs no such room.
(DEDUCED, log entry 22.) -/
def RoomFor (s : State) (g : Group) (b : Block) (oks : List (Thread × Eff)) : Prop :=
  (groupPinned (g.issuers b) = true → ∀ o ∈ oks, o.2.outside = true →
    s.outstanding b.uid o.1.tid = false ∧ s.pendingOf b.uid o.1.tid = false ∧ s.openOf b.uid o.1.tid = false
    ∧ ∀ f ∈ o.2.effects, ∀ p ∈ f.pieces, s.lockedOut s.sched.nextId p = false)
  ∧ (groupPinned (g.issuers b) = true → ∀ o ∈ oks, ∀ m ∈ o.2.commandMasks, s.queueRoom b.core m = true)
  ∧ (groupPinned (g.issuers b) = false → s.entriesTaken (s.effectsDone g b oks).items b ≤ b.quota
    ∨ entriesUsed (s.effectsDone g b oks).items b.uid ≤ entriesUsed s.items b.uid)
  ∧ PortTakes (s.effectsDone g b oks) b.core g.part (groupPinned (g.issuers b)) oks

/-- The lanes of a word one after another, each of which passes: the state after the last, and what each thread does. -/
def lanesPass (lane : LaneFn) (b : Block) (act : List Thread) : List Thread → State → Option (State × List (Thread × Eff))
  | [], s => some (s, [])
  | x :: xs, s => match lane s b act x with
    | (s1, .ok e) => (lanesPass lane b act xs s1).map fun r => (r.1, (x, e) :: r.2)
    | _ => none

/-- The access of each thread of a word one after another, each of which passes (R346): the state after the last, and for
each thread the state after its access and its pieces. `at1` gives the capability, the offset, the length and the alignment
of a thread's access. -/
def accessesPass (op : Thread → AccOp) (at1 : Thread → CapReg × Int × Nat × Nat) (b : Block) :
    List Thread → State → Option (State × List (Thread × State × List Piece))
  | [], s => some (s, [])
  | x :: xs, s => match s.access b (at1 x).1 (at1 x).2.1 (at1 x).2.2.1 (at1 x).2.2.2 (op x) with
    | (s1, .ok ps) => (accessesPass op at1 b xs s1).map fun r => (r.1, (x, s1, ps) :: r.2)
    | _ => none

/-- The state in which a commit-class word has committed its threads (R206). -/
def State.onCommit (s : State) (g : Group) (b : Block) (oks : List (Thread × Eff)) : State :=
  (((s.dropAsks s.sched.cur).retire b (oks.map fun o => o.1.tid)).commitAll b (oks.map fun o => o.1.tid)).commitTrace b
    (oks.map fun o => o.1.tid) 1 g.pc

/-! ### Words by what they do -/

/-- The guard of a word of given forms. -/
def guardOf : List Form → Guard
  | f :: _ => f.guard
  | [] => .always

/-- A word that changes registers alone: whenever a group issues it, nothing holds it back and every check of its forms
passes for the active threads, it completes, and each active thread `x` of the active threads `act` of block `b` has the
effect `e s b act x`. `kind` is the datapath that computes it (R402). -/
def RegisterWord (i : Instr) (fs : List Form) (kind : Nat) (e : State → Block → List Thread → Thread → Eff) : Prop :=
  ∀ (s : State) (g : Group) (b : Block), s.current = some (g, b) →
    Unhindered s b fs false kind (actives (guardOf fs) g b) → Passes fs (actives (guardOf fs) g b) →
    exec i s = .next (s.wordDone g b ((actives (guardOf fs) g b).map fun x => (x, e s b (actives (guardOf fs) g b) x)))

/-- A 64-bit word of elements, each computed from the elements of the sources a, b and c of a thread (R254, R303). -/
def elementwise (w : Rounded) (x : Thread) (f : Nat → Nat → Nat → Nat) : Word :=
  packWord w.tag.width ((List.range w.tag.ne).map fun i =>
    f (elem w.tag.width (x.vreg w.a).val i) (elem w.tag.width (x.vreg w.b).val i) (elem w.tag.width (x.vreg w.c).val i))

/-- The same with the exception flags that each element sets (R266). -/
def floatwise (w : Rounded) (x : Thread) (f : Nat → Nat → Nat → FRes) : Eff :=
  let rs := (List.range w.tag.ne).map fun i =>
    f (elem w.tag.width (x.vreg w.a).val i) (elem w.tag.width (x.vreg w.b).val i) (elem w.tag.width (x.vreg w.c).val i)
  { Eff.vec w.d w.tag (packWord w.tag.width (rs.map Prod.fst)) with fl := rs.foldl (fun a r => a ||| r.2) 0 }

/-- An exact integer result narrowed to an element: modulo 2^W, or clamped to the range of the format under SAT (R256). -/
def narrowed (w : Rounded) (z : Int) : Nat :=
  if w.sat then clamp w.tag.width w.tag.isSigned z else wrap w.tag.width z

/-- The source a of a conversion: the tags that it accepts, and the destination's tag as the one a refusal reports (R310,
R331). -/
def sourceOf (w : Rounded) (accept : List Tag) : Src := { code := 0, reg := w.a, accept := accept, report := w.tag.code }

/-- The form of a conversion (R331): its source, further sources, and the old destination that a narrowing one reads. -/
def convForm (op : Nat) (w : Rounded) (accept : List Tag) (extra : Thread → List Src) : Form :=
  { w.form op [sourceOf w accept] with
    more := fun x => extra x ++ (if (x.vreg w.a).tag.ne < w.tag.ne then [srcAny 0 w.d] else [])
    late := convLate w }

/-- Result element k of a dot product of n products (R330): their exact sum, with the accumulator under SUB 1, rounded once to
F32; +0 where the tag has no such products. -/
def dotResult (n : Nat) (w : Rounded) (x : Thread) : Eff :=
  let one (k : Nat) : FRes :=
    if n * k + n ≤ w.tag.ne then
      dotSum (fmtOf w.tag) w.rnd ((span (n * k) n).map fun i =>
          (elem w.tag.width (x.vreg w.a).val i, elem w.tag.width (x.vreg w.b).val i))
        (if w.sub % 2 == 1 then some (elem 32 (x.vreg w.c).val k) else none)
    else (0, 0)
  { Eff.vec w.d .f32x2 (packWord 32 [(one 0).1, (one 1).1]) with fl := (one 0).2 ||| (one 1).2 }

/-- What a function of spans gives one of the participants (R342, R343). -/
def spanResult (w : Plain) (t : Tag) (f : List Nat → List Nat × Nat) (act : List Thread) (x : Thread) : Eff :=
  let r := overSpans (bitAt w.opx 4) w.tag w.a f act x
  { Eff.vec w.d t (packWord w.tag.width r.1) with fl := r.2 }

/-- A matrix of results in the run of d, row by row, with the flags of all (R364, R365). -/
def matrixResult (w : MatrixW) (f : Nat → Nat → FRes) : Eff :=
  let rs := (pairs w.n).map fun ij => f ij.1 ij.2
  { v := runWrites w.tag w.d (rs.map Prod.fst), fl := rs.foldl (fun a r => a ||| r.2) 0 }

/-- A paired word whose first half has a given operation (R286). -/
def PairedWord (op0 : PairOp) (mk : Half → PairOp → Half → Instr) : Prop :=
  ∀ (h0 : Half) (op1 : PairOp) (h1 : Half), RegisterWord (mk h0 op1 h1)
    [pairForm op0 [(8, h0.d), (8, h0.a), (9, h1.d), (9, h1.a)] h0, pairForm op1 [] h1] 1 fun _ _ _ x =>
      { v := [(pairWrite op0 h0 x).1, (pairWrite op1 h1 x).1], fl := (pairWrite op0 h0 x).2 ||| (pairWrite op1 h1 x).2 }

/-- A result in predicate d. -/
def predResult (d : Nat) (v : Bool) : Eff := { p := [(d, v)] }

/-- A result in capability register d. -/
def capResult (d : Nat) (c : CapReg) : Eff := { c := [(d, c)] }

/-! ### Words that reach outside the registers -/

/-- The active threads of a word, each with its effect. -/
def each (act : List Thread) (e : Thread → Eff) : List (Thread × Eff) := act.map fun x => (x, e x)

/-- A word that needs no more of memory than room for what it does: whenever a group issues it, nothing holds it back and
every check passes, it completes with the effect `e s b x` of each active thread. -/
def PlainWord (i : Instr) (f : State → Form) (mem : Bool) (e : State → Block → Thread → Eff) : Prop :=
  ∀ (s : State) (g : Group) (b : Block), s.current = some (g, b) →
    Unhindered s b [f s] mem 1 (actives (f s).guard g b) → Passes [f s] (actives (f s).guard g b) →
    RoomFor s g b (each (actives (f s).guard g b) (e s b)) →
    exec i s = .next (s.wordDone g b (each (actives (f s).guard g b) (e s b)))

/-- What the threads of a word do with the pieces of their accesses. -/
def withPieces (qs : List (Thread × State × List Piece)) (e : Thread → State → List Piece → Eff) : List (Thread × Eff) :=
  qs.map fun q => (q.1, e q.1 q.2.1 q.2.2)

/-- The capability, offset, length and alignment of an access of an M-form word of n bytes (R346). -/
def throughCap (w : MemW) (n : Nat) (x : Thread) : CapReg × Int × Nat × Nat := (x.creg w.cap, MemW.offset w x true, n, n)

/-- A word whose threads go through a capability: where each access passes, it completes. -/
def MemoryWord (i : Instr) (f : Form) (mem : Bool) (op : Thread → AccOp) (at1 : Thread → CapReg × Int × Nat × Nat)
    (e : Thread → State → List Piece → Eff) : Prop :=
  ∀ (s s' : State) (g : Group) (b : Block) (qs : List (Thread × State × List Piece)), s.current = some (g, b) →
    Unhindered s b [f] mem 1 (actives f.guard g b) → Passes [f] (actives f.guard g b) →
    accessesPass op at1 b (actives f.guard g b) s = some (s', qs) → RoomFor s' g b (withPieces qs e) →
    exec i s = .next (s'.wordDone g b (withPieces qs e))

/-- What a thread does with its place in scratch; out of range, its lane is switched off (R32). -/
def inScratch (q : Thread → Option Piece) (e : Thread → Piece → Eff) (x : Thread) : Eff := match q x with
  | some p => e x p
  | none => { off := true }

/-- A word whose threads access scratch: where none is misaligned, it completes. `at1` gives the address, the length and
the alignment of a thread's access, and `q x` is its place, or none where its lane is switched off. -/
def ScratchWord (i : Instr) (f : Form) (at1 : Thread → Int × Nat × Nat) (e : Thread → Piece → Eff) : Prop :=
  ∀ (s : State) (g : Group) (b : Block) (q : Thread → Option Piece), s.current = some (g, b) →
    Unhindered s b [f] true 1 (actives f.guard g b) → Passes [f] (actives f.guard g b) →
    (∀ x ∈ actives f.guard g b, s.scratchAccess b (at1 x).1 (at1 x).2.1 (at1 x).2.2 = .ok (q x)) →
    RoomFor s g b (each (actives f.guard g b) (inScratch q e)) →
    exec i s = .next (s.wordDone g b (each (actives f.guard g b) (inScratch q e)))

/-- The address, length and alignment of a scratch access of an M-form word of n bytes (R346). -/
def throughScratch (w : MemW) (n : Nat) (x : Thread) : Int × Nat × Nat := (MemW.offset w x false, n, n)

/-! ### Commands (R142) -/

/-- What the threads of a command word do: the leader issues its command, or its lane is switched off where a scratch range
is outside (R375), and the others nothing. -/
def commandOf (b : Block) (cmd : Block → Thread → Cmd) (x : Thread) (go : Bool) (pre rest : List Thread) : List (Thread × Eff) :=
  each pre (fun _ => {}) ++ (x, if go then { effects := [.command { cmd b x with core := b.core, blk := b.uid, tid := x.tid, ctx := b.ctx }] }
      else { off := true }) :: each rest fun _ => {}

/-- A command word: where every check of the leader `x`, its lowest-numbered active thread (R142, R174), passes or switches its lane
off, it completes. -/
def CommandWord (i : Instr) (f : Form) (checks : Block → Thread → List Check) (cmd : Block → Thread → Cmd) : Prop :=
  ∀ (s s' : State) (g : Group) (b : Block) (x : Thread) (pre rest : List Thread) (go : Bool), s.current = some (g, b) →
    actives f.guard g b = pre ++ x :: rest → (∀ y ∈ pre ++ rest, x.tid < y.tid) →
    Unhindered s b [f] true 1 (pre ++ x :: rest) →
    checkAll x [f] = none → runChecks (checks b x) s = (s', .ok go) → RoomFor s' g b (commandOf b cmd x go pre rest) →
    exec i s = .next (s'.wordDone g b (commandOf b cmd x go pre rest))

/-! ### Commit-class words (R206) -/

/-- A commit-class word with guard `gd` can go ahead: some thread is active, none of the group is within such a word, no load
or atomic of an active thread is outstanding, and no error of a datapath strikes. -/
def MayCommit (s : State) (g : Group) (b : Block) (gd : Guard) : Prop :=
  (∀ x ∈ g.issuers b, x.mid = false) ∧ (∀ x ∈ actives gd g b, s.outstanding b.uid x.tid = false)
  ∧ s.glitchOf b (actives gd g b) 1 = none ∧ actives gd g b ≠ []

/-- The threads of a word as they stand after the commit, each with its effect. -/
def standing (b2 : Block) (oks : List (Thread × Eff)) : List (Thread × Eff) :=
  oks.map fun o => ((b2.thread? o.1.tid).getD o.1, o.2)

/-- The threads of a word have nothing committed left to perform of the kinds that the word waits for (R79, R358). -/
def Drained (drain : Item → Bool) (s : State) (b : Block) (oks : List (Thread × Eff)) : Prop :=
  ∀ o ∈ oks, s.pendingIn drain b.uid o.1.tid = false

/-- A commit-class word without operands in memory: the active threads commit, and once what they have committed is
performed where the word waits for it (`drain`), it does `perform`, and its threads go on. -/
def CommitWord (i : Instr) (f : State → Form) (drain : Item → Bool) (perform : State → Group → Block → List (Thread × Eff) → State) :
    Prop :=
  ∀ (s : State) (g : Group) (b b2 : Block), s.current = some (g, b) → MayCommit s g b (f s).guard →
    Passes [f s] (actives (f s).guard g b) →
    Drained drain (s.onCommit g b (each (actives (f s).guard g b) fun _ => {})) b
      (each (actives (f s).guard g b) fun _ => {}) →
    (s.onCommit g b (each (actives (f s).guard g b) fun _ => {})).block? b.uid = some b2 →
    exec i s = .next ((perform (s.onCommit g b (each (actives (f s).guard g b) fun _ => {})) g b2
      (standing b2 (each (actives (f s).guard g b) fun _ => {}))).afterCommits g b2 (g.issuers b)
      (standing b2 (each (actives (f s).guard g b) fun _ => {})))

/-- A commit-class word is performed: its registers are delivered, its requests and releases go out. -/
def State.sentOut (s : State) (g : Group) (b b2 : Block) (oks : List (Thread × Eff)) : State :=
  (performPlain (s.onCommit g b oks) g b2 (standing b2 oks)).1

/-- A commit-class word is performed, and its threads go on. -/
def State.delivered (s : State) (g : Group) (b b2 : Block) (oks : List (Thread × Eff)) : State :=
  (s.sentOut g b b2 oks).afterCommits g b2 (g.issuers b) (standing b2 oks)

/-- A commit-class word whose threads go through a capability. -/
def CommitMemoryWord (i : Instr) (f : Form) (op : Thread → AccOp) (at1 : Thread → CapReg × Int × Nat × Nat)
    (e : Thread → State → List Piece → Eff) : Prop :=
  ∀ (s s' : State) (g : Group) (b b2 : Block) (qs : List (Thread × State × List Piece)), s.current = some (g, b) →
    MayCommit s g b f.guard → Passes [f] (actives f.guard g b) →
    accessesPass op at1 b (actives f.guard g b) s = some (s', qs) →
    (s'.onCommit g b (withPieces qs e)).block? b.uid = some b2 →
    PortTakes (s'.sentOut g b b2 (withPieces qs e)) b.core g.part false (withPieces qs e) →
    exec i s = .next (s'.delivered g b b2 (withPieces qs e))

/-- A commit-class word whose threads access scratch. -/
def CommitScratchWord (i : Instr) (f : Form) (at1 : Thread → Int × Nat × Nat) (e : Thread → Piece → Eff) : Prop :=
  ∀ (s : State) (g : Group) (b b2 : Block) (q : Thread → Option Piece), s.current = some (g, b) →
    MayCommit s g b f.guard → Passes [f] (actives f.guard g b) →
    (∀ x ∈ actives f.guard g b, s.scratchAccess b (at1 x).1 (at1 x).2.1 (at1 x).2.2 = .ok (q x)) →
    (s.onCommit g b (each (actives f.guard g b) (inScratch q e))).block? b.uid = some b2 →
    PortTakes (s.sentOut g b b2 (each (actives f.guard g b) (inScratch q e))) b.core g.part false
      (each (actives f.guard g b) (inScratch q e)) →
    exec i s = .next (s.delivered g b b2 (each (actives f.guard g b) (inScratch q e)))

/-- A commit-class word of which no thread is active only goes on. -/
def IdleCommit (i : Instr) (gd : Guard) : Prop :=
  ∀ (s : State) (g : Group) (b : Block), s.current = some (g, b) → (∀ x ∈ g.issuers b, x.mid = false) →
    actives gd g b = [] →
    exec i s = .next (((s.dropAsks s.sched.cur).stepPcs b (g.issuers b) []).regroup g.gid)

/-! ### Exceptions (R239, R241) -/

/-- The state after threads of a group take exceptions, `ts` of (thread, cause, %trapaux): each enters its handler; in group
mode, and in a pinned group whose word does not act for the group (`leads`, R142), or a group that has ended, that is all, and
else the other threads pass the word. -/
def State.trapThose (s : State) (g : Group) (b : Block) (ts : List (Nat × Nat × Nat)) (leads : Bool := false) : State :=
  let t := (s.dropAsks s.sched.cur).takeTraps g.gid (alignedTraps ts) g.pc
  if s.tmode b.ctx = true ∨ (groupPinned (g.issuers b) && !leads) = true ∨ t.group? g.gid = none then t
  else (t.bump.stepPcs b ((g.issuers b).filter fun x => !(ts.any fun y => y.1 == x.tid)) []).regroup g.gid

/-- The same where every active thread takes one exception. -/
def State.allTrap (s : State) (g : Group) (b : Block) (act : List Thread) (cause aux : Nat) : State :=
  s.trapThose g b (act.map fun x => (x.tid, cause, aux))

/-- A word that traps: whenever nothing holds it back and some thread is active, and PASS lets none of them by (R246), every
active thread takes the exception. -/
def TrappingWord (i : Instr) (gd : Guard) (may : State → Block → Prop) (cause aux : Nat) : Prop :=
  ∀ (s : State) (g : Group) (b : Block), s.current = some (g, b) → may s b → Unhindered s b [{ guard := gd }] false 1 (actives gd g b) →
    Passes [{ guard := gd }] (actives gd g b) → actives gd g b ≠ [] → (∀ x ∈ actives gd g b, x.passes = false) →
    exec i s = .next (s.allTrap g b (actives gd g b) cause aux)

/-- A word whose operands are refused (R237, R238): where the checks of every active thread end in an exception, each takes
its own; `mem` marks a memory operation. No thread is within a commit-class word (R206): such a thread stands at that word. -/
def RefusedWord (i : Instr) (fs : List Form) (mem : Bool) (kind : Nat) : Prop :=
  ∀ (s : State) (g : Group) (b : Block) (why : Thread → Nat × Nat), s.current = some (g, b) →
    Unhindered s b fs mem kind (actives (guardOf fs) g b) → actives (guardOf fs) g b ≠ [] →
    (∀ x ∈ actives (guardOf fs) g b, x.mid = false) →
    (∀ x ∈ actives (guardOf fs) g b, checkAll x fs = some (.trap (why x).1 (why x).2)) →
    exec i s = .next (s.trapThose g b ((actives (guardOf fs) g b).map fun x => (x.tid, why x)) (fs.any Form.leader))

/-- A commit-class word whose operands are refused before it commits anything (R206, R237, R238). -/
def RefusedCommit (i : Instr) (f : Form) : Prop :=
  ∀ (s : State) (g : Group) (b : Block) (why : Thread → Nat × Nat), s.current = some (g, b) → MayCommit s g b f.guard →
    (∀ x ∈ actives f.guard g b, checkAll x [f] = some (.trap (why x).1 (why x).2)) →
    let ts := (actives f.guard g b).map fun x => (x.tid, why x)
    let t := (s.dropAsks s.sched.cur).takeTraps g.gid (alignedTraps ts) g.pc
    exec i s = .next (if s.tmode b.ctx = true ∨ groupPinned (g.issuers b) = true ∨ t.group? g.gid = none then t
      else (t.stepPcs b ((g.issuers b).filter fun x => !(ts.any fun y => y.1 == x.tid)) []).regroup g.gid)

/-! ### What a word leaves alone -/

/-- A thread changes its registers alone: no effect is buffered or performed, nothing is requested. -/
def Eff.inner (e : Eff) : Prop := e.effects = [] ∧ e.req = none ∧ e.acts = []

/-- The effects of a word on one of its threads. -/
def effectOn (oks : List (Thread × Eff)) (x : Thread) : Thread :=
  (oks.filter fun o => o.1.tid == x.tid).foldl (fun x o => x.apply o.2) x

/-- What a word that changes registers alone leaves as it was: all of memory, of scratch and of every unit, but for the
trace of a debug unit, and every thread but for its own effect and for where it goes on (R83, R176, R452). -/
def OnlyRegisters (s t : State) (uid : Nat) (oks : List (Thread × Eff)) : Prop :=
  t = { s with sched := t.sched, caches := { s.caches with asks := t.caches.asks }, blocks := t.blocks, groups := t.groups,
               bins := t.bins, dbg := t.dbg }
  ∧ (t.blocks.map fun b => { b with threads := [] }) = (s.blocks.map fun b => { b with threads := [] })
  ∧ ∀ (u tid : Nat) (x : Thread), s.thread? u tid = some x → ∃ y, t.thread? u tid = some y
    ∧ let z := if u = uid then effectOn oks x else x
      y = { z with pc := y.pc, space := y.space, st := y.st, retired := y.retired }

/-- A capability grants nothing that another does not: it is tagged only where the other is, names its object, holds none but its
rights, and its bounds lie within the other's (R18). -/
def CapReg.within (r p : CapReg) : Prop :=
  r.tag = true → p.tag = true ∧ r.obj = p.obj ∧ (∀ k, r.rights.testBit k = true → p.rights.testBit k = true)
    ∧ ∀ o, r.base ≤ o → o < r.top → p.base ≤ o ∧ o < p.top

/-! ### Regions and returns -/

/-- The reads of descriptor k by the threads of a group, each of which finds a good one (R202): the state after the last, and
the descriptor of each. -/
def descsPass (k : Nat) (b : Block) : List Thread → State → Option (State × List (Thread × List Nat))
  | [], s => some (s, [])
  | x :: xs, s => match s.readDesc b k with
    | (s1, .ok d) => if badDesc b d = none then (descsPass k b xs s1).map fun r => (r.1, (x, d) :: r.2) else none
    | _ => none

/-! ### Commands of the host and rings -/

/-- The completion record of a command has its place in memory (R427). -/
def State.cplRoom (s : State) (idx : Nat) : Prop :=
  s.memHas (s.link.cplbase + 16 * (idx % s.link.cmdCount)) 16 = true
  ∧ s.poolDown (s.link.cplbase + 16 * (idx % s.link.cmdCount)) 16 = false

/-- The state after a command of the ring has completed: its record of status, operation, index and a dword, and MSI-X
vector 0 (R427). -/
def State.cmdDone (s : State) (idx op status d1 : Nat) : State :=
  let t := s.devWrite (s.link.cplbase + 16 * (idx % s.link.cmdCount))
    (natToBytes 8 (status + op * 2 ^ 8 + idx % 2 ^ 32 * 2 ^ 32) ++ natToBytes 8 d1)
  { t with link := { t.link with msix := t.link.msix ++ [0] } }

/-- Dwords stand at the place that TRPROD names in the trace ring, and TRPROD counts on by 64 bytes (R451). -/
def State.traced (s : State) (ws : List Nat) : State :=
  let t := s.devWrite (s.dbg.trbase + 64 * (s.dbg.trprod % s.dbg.ringSize)) (ws.flatMap fun w => natToBytes 8 w)
  { t with dbg := { t.dbg with trprod := (s.dbg.trprod + ws.length / 8) % 2 ^ 64 } }

/-- The trace ring has its place in memory for some dwords. -/
def State.traceRoom (s : State) (ws : List Nat) : Prop :=
  s.hbmHas (s.dbg.trbase + 64 * (s.dbg.trprod % s.dbg.ringSize)) (8 * ws.length) = true

end Sys2Proof.Machine
end

