-- ==== Sys2Proof/Certificates/Slice0/Obligations.lean ====
section
/-!
DEFINITION. The statements about this model, for the provers: what each instruction and event does when it completes,
what it leaves alone, how words are encoded, what a step runs, and what every step keeps.
-/

open Sys2Proof Sys2Proof.Machine

/-! ### Words that change registers alone -/

/-- R303: `mov` copies the value and the tag; each other word computes its exact result on the values of the elements and
narrows it modulo 2^W, or under SAT by clamping (R256). `mulhi` is the upper half of the exact product. -/
def Obligations.IntegerArithmetic : Prop :=
  (∀ w : Rounded, RegisterWord (.mov w) [w.form 0x00 [srcAny 0 w.a]] 1 fun _ _ _ x =>
    Eff.vec w.d (x.vreg w.a).tag (x.vreg w.a).val)
  ∧ (∀ w : Rounded, RegisterWord (.add w) [w.form 0x01 (w.rawSrcs 2)] 1 fun _ _ _ x =>
    Eff.vec w.d w.tag (elementwise w x fun p q _ => narrowed w (intVal w.tag p + intVal w.tag q)))
  ∧ (∀ w : Rounded, RegisterWord (.sub w) [w.form 0x02 (w.rawSrcs 2)] 1 fun _ _ _ x =>
    Eff.vec w.d w.tag (elementwise w x fun p q _ => narrowed w (intVal w.tag p - intVal w.tag q)))
  ∧ (∀ w : Rounded, RegisterWord (.mul w) [w.form 0x03 (w.rawSrcs 2)] 1 fun _ _ _ x =>
    Eff.vec w.d w.tag (elementwise w x fun p q _ => narrowed w (intVal w.tag p * intVal w.tag q)))
  ∧ (∀ w : Rounded, RegisterWord (.mulhi w) [w.form 0x04 (w.rawSrcs 2)] 1 fun _ _ _ x =>
    Eff.vec w.d w.tag (elementwise w x fun p q _ => narrowed w (intVal w.tag p * intVal w.tag q / 2 ^ w.tag.width)))
  ∧ (∀ w : Rounded, RegisterWord (.mad w) [w.form 0x05 (w.rawSrcs 3)] 1 fun _ _ _ x =>
    Eff.vec w.d w.tag (elementwise w x fun p q r => narrowed w (intVal w.tag p * intVal w.tag q + intVal w.tag r)))
  ∧ (∀ w : Rounded, RegisterWord (.min w) [w.form 0x06 (w.rawSrcs 2)] 1 fun _ _ _ x =>
    Eff.vec w.d w.tag (elementwise w x fun p q _ => narrowed w (min (intVal w.tag p) (intVal w.tag q))))
  ∧ (∀ w : Rounded, RegisterWord (.max w) [w.form 0x07 (w.rawSrcs 2)] 1 fun _ _ _ x =>
    Eff.vec w.d w.tag (elementwise w x fun p q _ => narrowed w (max (intVal w.tag p) (intVal w.tag q))))
  ∧ (∀ w : Rounded, RegisterWord (.abs w) [w.form 0x08 (w.rawSrcs 1)] 1 fun _ _ _ x =>
    Eff.vec w.d w.tag (elementwise w x fun p _ _ => narrowed w (intVal w.tag p).natAbs))
  ∧ (∀ w : Rounded, RegisterWord (.neg w) [w.form 0x09 (w.rawSrcs 1)] 1 fun _ _ _ x =>
    Eff.vec w.d w.tag (elementwise w x fun p _ _ => narrowed w (-(intVal w.tag p))))

/-- R304: `and`, `or`, `xor`, `not` and `andn` work on all 64 bits whatever the tag; a left shift keeps the low W bits of
x · 2^n and a right shift is x / 2^n, so a count of W or more gives 0; `sar` divides the signed value by 2^n, rounding
towards minus infinity; `rot` turns left by n mod W; `clz` counts leading zeros; `popc` counts ones; `brev` reverses the
element. -/
def Obligations.BitwiseAndShifts : Prop :=
  (∀ w : Rounded, RegisterWord (.and w) [w.form 0x0A (w.rawSrcs 2)] 1 fun _ _ _ x =>
    Eff.vec w.d w.tag ((x.vreg w.a).val &&& (x.vreg w.b).val))
  ∧ (∀ w : Rounded, RegisterWord (.or w) [w.form 0x0B (w.rawSrcs 2)] 1 fun _ _ _ x =>
    Eff.vec w.d w.tag ((x.vreg w.a).val ||| (x.vreg w.b).val))
  ∧ (∀ w : Rounded, RegisterWord (.xor w) [w.form 0x0C (w.rawSrcs 2)] 1 fun _ _ _ x =>
    Eff.vec w.d w.tag ((x.vreg w.a).val ^^^ (x.vreg w.b).val))
  ∧ (∀ w : Rounded, RegisterWord (.not w) [w.form 0x0D (w.rawSrcs 1)] 1 fun _ _ _ x =>
    Eff.vec w.d w.tag (~~~(x.vreg w.a).val))
  ∧ (∀ w : Rounded, RegisterWord (.andn w) [w.form 0x0E (w.rawSrcs 2)] 1 fun _ _ _ x =>
    Eff.vec w.d w.tag ((x.vreg w.a).val &&& ~~~(x.vreg w.b).val))
  ∧ (∀ w : Rounded, RegisterWord (.shl w) [w.form 0x0F (w.rawSrcs 2)] 1 fun _ _ _ x =>
    Eff.vec w.d w.tag (elementwise w x fun p n _ => p * 2 ^ n % 2 ^ w.tag.width))
  ∧ (∀ w : Rounded, RegisterWord (.shr w) [w.form 0x10 (w.rawSrcs 2)] 1 fun _ _ _ x =>
    Eff.vec w.d w.tag (elementwise w x fun p n _ => p / 2 ^ n))
  ∧ (∀ w : Rounded, RegisterWord (.sar w) [w.form 0x11 (w.rawSrcs 2)] 1 fun _ _ _ x =>
    Eff.vec w.d w.tag (elementwise w x fun p n _ => wrap w.tag.width (sext w.tag.width p / (2 ^ n : Nat))))
  ∧ (∀ w : Rounded, RegisterWord (.rot w) [w.form 0x12 (w.rawSrcs 2)] 1 fun _ _ _ x =>
    Eff.vec w.d w.tag (elementwise w x fun p n _ =>
      (p * 2 ^ (n % w.tag.width) + p / 2 ^ (w.tag.width - n % w.tag.width)) % 2 ^ w.tag.width))
  ∧ (∀ w : Rounded, RegisterWord (.clz w) [w.form 0x13 (w.rawSrcs 1)] 1 fun _ _ _ x =>
    Eff.vec w.d w.tag (elementwise w x fun p _ _ => if p = 0 then w.tag.width else w.tag.width - (p.log2 + 1)))
  ∧ (∀ w : Rounded, RegisterWord (.popc w) [w.form 0x14 (w.rawSrcs 1)] 1 fun _ _ _ x =>
    Eff.vec w.d w.tag (elementwise w x fun p _ _ => ((List.range w.tag.width).filter fun j => p.testBit j).length))
  ∧ (∀ w : Rounded, RegisterWord (.brev w) [w.form 0x15 (w.rawSrcs 1)] 1 fun _ _ _ x =>
    Eff.vec w.d w.tag (elementwise w x fun p _ _ =>
      packNat 1 ((List.range w.tag.width).map fun j => bits p (w.tag.width - 1 - j) 1)))

/-- R305 to R307, R310 to R312: bit fields by position and length, `sel` by predicate c, `cmp` on every element, integer
conversion, and the words that move halves of a register or its tag alone. -/
def Obligations.FieldsSelectCompare : Prop :=
  (∀ w : Rounded, RegisterWord (.bfx w) [w.form 0x16 (w.rawSrcs 2)] 1 fun _ _ _ x =>
    Eff.vec w.d w.tag (elementwise w x fun p q _ => bfxE w.tag p q))
  ∧ (∀ w : Rounded, RegisterWord (.bfi w) [w.form 0x17 (w.rawSrcs 3)] 1 fun _ _ _ x =>
    Eff.vec w.d w.tag (elementwise w x fun p q r => bfiE w.tag.width p q r))
  ∧ (∀ w : Rounded, RegisterWord (.sel w) [w.form 0x18 [srcExact 0 w.a w.tag, srcExact 1 w.b w.tag]] 1 fun _ _ _ x =>
    Eff.vec w.d w.tag (if x.pred w.c then (x.vreg w.a).val else (x.vreg w.b).val))
  ∧ (∀ w : Rounded, RegisterWord (.cmp w) [{ w.form 0x19 (w.rawSrcs 2) with dV := [], dP := [w.d] }] 1 fun _ _ _ x =>
    predResult w.d (decide (∀ i < w.tag.ne, condHolds w.sub (intVal w.tag (elem w.tag.width (x.vreg w.a).val i))
      (intVal w.tag (elem w.tag.width (x.vreg w.b).val i)) = true)))
  ∧ (∀ w : Rounded, RegisterWord (.cvtI w) [{ w.form 0x26 [sourceOf w (numTags ++ [.m8x8, .m4x16])] with late := cvtLate w.a w.tag w.sub }] 1 fun _ _ _ x =>
    Eff.vec w.d w.tag (packWord w.tag.width ((List.range w.tag.ne).map fun i =>
      let st := (x.vreg w.a).tag
      let j := if st.ne ≥ w.tag.ne then w.sub * w.tag.ne + i else i
      encodeInt w.tag w.sat (if j < st.ne then elemValue st (elem st.width (x.vreg w.a).val j) else 0))))
  ∧ (∀ w : Plain, RegisterWord (.pack w) [w.form 0x27 [srcRaw 0 w.a w.tag, srcRaw 1 w.b w.tag]] 1 fun _ _ _ x =>
    Eff.vec w.d w.tag (((x.vreg w.b).val.extractLsb' 0 32).append ((x.vreg w.a).val.extractLsb' 0 32)))
  ∧ (∀ w : Plain, RegisterWord (.unpack w) [w.form 0x28 [srcRaw 0 w.a w.tag]] 1 fun _ _ _ x =>
    Eff.vec w.d w.tag (((x.vreg w.a).val.extractLsb' (32 * (w.opx % 2)) 32).setWidth 64))
  ∧ (∀ w : Plain, RegisterWord (.retag w) [w.form 0x29 [srcAny 0 w.a]] 1 fun _ _ _ x =>
    Eff.vec w.d w.tag ((x.vreg w.a).val))

/-- R309: the predicate words. -/
def Obligations.Predicates : Prop :=
  (∀ w : Plain, RegisterWord (.pand w) [{ w.form 0x20 [] with dV := [], dP := [w.d] }] 1 fun _ _ _ x =>
    predResult w.d (x.pred w.a && x.pred w.b))
  ∧ (∀ w : Plain, RegisterWord (.por w) [{ w.form 0x21 [] with dV := [], dP := [w.d] }] 1 fun _ _ _ x =>
    predResult w.d (x.pred w.a || x.pred w.b))
  ∧ (∀ w : Plain, RegisterWord (.pxor w) [{ w.form 0x22 [] with dV := [], dP := [w.d] }] 1 fun _ _ _ x =>
    predResult w.d (x.pred w.a ^^ x.pred w.b))
  ∧ (∀ w : Plain, RegisterWord (.pnot w) [{ w.form 0x23 [] with dV := [], dP := [w.d] }] 1 fun _ _ _ x =>
    predResult w.d (!x.pred w.a))
  ∧ (∀ w : Plain, RegisterWord (.pmask w) [{ w.form 0x24 [srcRaw 0 w.a w.tag] with dV := [], dP := [w.d] }] 1 fun _ _ _ x =>
    predResult w.d ((x.vreg w.a).val.getLsbD w.opx))
  ∧ (∀ w : Plain, RegisterWord (.pset w) [{ w.form 0x25 [] with dV := [], dP := [w.d] }] 1 fun _ _ _ _ =>
    predResult w.d (w.opx.testBit 0))

/-- R19, R20, R313 to R315: the capability words; every result stands without poison. -/
def Obligations.CapabilityWords : Prop :=
  (∀ w : Plain, RegisterWord (.cmov w) [{ w.form 0x30 [] with dV := [], dC := [w.d], caps := [w.a] }] 1 fun _ _ _ x =>
    capResult w.d { x.creg w.a with psn := false })
  ∧ (∀ w : Plain, RegisterWord (.cincoff w) [{ w.form 0x31 [srcRaw 1 w.b w.tag] with dV := [], dC := [w.d], caps := [w.a] }] 1 fun _ _ _ x =>
    let z := ((x.creg w.a).cursor : Int) + (x.vreg w.b).val.toInt
    capResult w.d { bits := BitVec.ofNat 128 ((x.creg w.a).nat / 2 ^ 48 * 2 ^ 48 + wrap 48 z),
                    tag := (x.creg w.a).tag && decide (0 ≤ z ∧ z < 2 ^ 48) })
  ∧ (∀ w : Plain, RegisterWord (.csetoff w) [{ w.form 0x32 [srcRaw 1 w.b w.tag] with dV := [], dC := [w.d], caps := [w.a] }] 1 fun _ _ _ x =>
    capResult w.d { bits := BitVec.ofNat 128 ((x.creg w.a).nat / 2 ^ 48 * 2 ^ 48 + (x.vreg w.b).val.toNat % 2 ^ 48),
                    tag := (x.creg w.a).tag && decide ((x.vreg w.b).val.toNat < 2 ^ 48) })
  ∧ (∀ w : Plain, RegisterWord (.csetbnd w) [{ w.form 0x33 [srcRaw 1 w.b w.tag, srcRaw 2 w.c w.tag] with dV := [], dC := [w.d], caps := [w.a] }] 1 fun _ _ _ x =>
    capResult w.d { (x.creg w.a).setBounds (x.vreg w.b).val.toNat (x.vreg w.c).val.toNat with psn := false })
  ∧ (∀ w : Plain, RegisterWord (.candperm w) [{ w.form 0x34 [srcRaw 1 w.b w.tag] with dV := [], dC := [w.d], caps := [w.a] }] 1 fun _ _ _ x =>
    capResult w.d { bits := (x.creg w.a).bits &&& ~~~(((~~~(x.vreg w.b).val).extractLsb' 0 8).setWidth 128 <<< 88), tag := (x.creg w.a).tag })
  ∧ (∀ w : Plain, RegisterWord (.cget w) [{ w.form 0x35 [] with caps := [w.a] }] 1 fun _ _ _ x =>
    Eff.vec w.d .u64 (BitVec.ofNat 64 (match w.opx with
      | 0 => (x.creg w.a).obj
      | 1 => (x.creg w.a).rights
      | 2 => (x.creg w.a).expo
      | 3 => if (x.creg w.a).wf then (x.creg w.a).lo * 2 ^ (x.creg w.a).expo else 0
      | 4 => if (x.creg w.a).wf then (x.creg w.a).hi * 2 ^ (x.creg w.a).expo else 0
      | 5 => (x.creg w.a).cursor
      | _ => bit (x.creg w.a).tag)))
  ∧ (∀ w : Plain, RegisterWord (.ctest w) [{ w.form 0x36 (if w.opx = 1 ∨ w.opx = 2 then [srcRaw 1 w.b w.tag] else []) with dV := [], dP := [w.d], caps := [w.a] }] 1 fun _ _ _ x =>
    predResult w.d (match w.opx with
      | 0 => (x.creg w.a).tag
      | 1 => (x.creg w.a).tag && (List.range 8).all fun k => !((x.vreg w.b).val.getLsbD k) || (x.creg w.a).rights.testBit k
      | 2 => (x.creg w.a).tag && (x.creg w.a).wf && decide ((x.creg w.a).base ≤ (x.creg w.a).cursor)
              && decide ((x.creg w.a).cursor + (x.vreg w.b).val.toNat ≤ (x.creg w.a).top)
      | _ => (x.creg w.a).wf))

/-- R316 to R318: the words with an immediate operand, on all 64 bits. -/
def Obligations.Immediates : Prop :=
  (∀ w : Imm, w.fits = true → RegisterWord (.movi w) [w.form 0x00 []] 1 fun _ _ _ _ =>
    Eff.vec w.d .raw (BitVec.signExtend 64 (BitVec.ofNat 35 (w.a * 2 ^ 29 + w.imm))))
  ∧ (∀ w : Imm, RegisterWord (.movhi w) [w.form 0x01 [srcWord 0 w.a]] 1 fun _ _ _ x =>
    Eff.vec w.d .raw (BitVec.ofNat 64 w.imm <<< 35 ||| (x.vreg w.a).val &&& BitVec.ofNat 64 (2 ^ 35 - 1)))
  ∧ (∀ w : Imm, w.fits = true → RegisterWord (.addi w) [w.form 0x02 [srcWord 0 w.a]] 1 fun _ _ _ x =>
    Eff.vec w.d (x.vreg w.a).tag ((x.vreg w.a).val + BitVec.signExtend 64 (BitVec.ofNat 29 w.imm)))
  ∧ (∀ w : Imm, w.fits = true → RegisterWord (.andi w) [w.form 0x03 [srcSome 0 w.a intTags]] 1 fun _ _ _ x =>
    Eff.vec w.d (x.vreg w.a).tag ((x.vreg w.a).val &&& BitVec.signExtend 64 (BitVec.ofNat 29 w.imm)))
  ∧ (∀ w : Imm, RegisterWord (.ori w) [w.form 0x04 [srcSome 0 w.a intTags]] 1 fun _ _ _ x =>
    Eff.vec w.d (x.vreg w.a).tag ((x.vreg w.a).val ||| BitVec.ofNat 64 w.imm))
  ∧ (∀ w : Imm, RegisterWord (.cmpi w) [{ w.form 0x05 [srcWord 0 w.a] with dV := [], dP := [w.d] }] 1 fun _ _ _ x =>
    let k := BitVec.signExtend 64 (BitVec.ofNat 26 w.imm)
    predResult w.d (if (x.vreg w.a).tag = .u64 then condHolds (w.imm / 2 ^ 26) (x.vreg w.a).val.toNat k.toNat
                    else condHolds (w.imm / 2 ^ 26) (x.vreg w.a).val.toInt k.toInt))

/-- R320: the target of each transfer, the register that `call` and `loop` write, and what a trace names (R452). -/
def Obligations.ControlTransfer : Prop :=
  (∀ w : Imm, RegisterWord (.bra w) [{ w.form 0x10 [] with dV := [] }] 1 fun _ _ _ x =>
    { pc := some (x.pc + 8 * sext 29 w.imm), branch := some (0, x.pc + 8 * sext 29 w.imm) })
  ∧ (∀ w : Imm, RegisterWord (.call w) [w.form 0x11 []] 1 fun _ _ _ x =>
    { v := [(w.d, { val := BitVec.ofInt 64 (x.pc + 8), tag := .u64 })], pc := some (x.pc + 8 * sext 29 w.imm), branch := some (1, x.pc + 8 * sext 29 w.imm) })
  ∧ (∀ w : Imm, RegisterWord (.ret w) [{ w.form 0x12 [srcRaw 0 w.a .u64] with dV := [] }] 1 fun _ _ _ x =>
    { pc := some (x.vreg w.a).val.toNat, branch := some (2, (x.vreg w.a).val.toNat) })
  ∧ (∀ w : Imm, RegisterWord (.jmpr w) [{ w.form 0x13 [srcRaw 0 w.a .u64] with dV := [] }] 1 fun _ _ _ x =>
    let t : Int := (x.vreg w.a).val.toNat + 8 * sext 29 w.imm
    { pc := some t, branch := some (3, t) })
  ∧ (∀ w : Imm, RegisterWord (.loop w) [w.form 0x14 [srcWord 0 w.a]] 1 fun _ _ _ x =>
    let n := (x.vreg w.a).val - 1
    if n = 0 then Eff.vec w.d (x.vreg w.a).tag n
    else { v := [(w.d, { val := n, tag := (x.vreg w.a).tag })], pc := some (x.pc + 8 * sext 29 w.imm), branch := some (4, x.pc + 8 * sext 29 w.imm) })
  ∧ (∀ w : Imm, RegisterWord (.nop w) [{ w.form 0x1A [] with dV := [] }] 1 fun _ _ _ _ =>
    {})

/-- R325, R326, R329: each element is computed and rounded once in the mode of the word, with the flags of every element joined
(R266); `fabs` and `fneg` clear and invert the sign bit and set no flag. -/
def Obligations.FloatArithmetic : Prop :=
  (∀ w : Rounded, RegisterWord (.fadd w) [w.form 0x40 (exactSrcs w 2)] 1 fun _ _ _ x =>
    floatwise w x fun p q _ => fpAdd (fmtOf w.tag) w.rnd p q)
  ∧ (∀ w : Rounded, RegisterWord (.fsub w) [w.form 0x41 (exactSrcs w 2)] 1 fun _ _ _ x =>
    floatwise w x fun p q _ => fpSub (fmtOf w.tag) w.rnd p q)
  ∧ (∀ w : Rounded, RegisterWord (.fmul w) [w.form 0x42 (exactSrcs w 2)] 1 fun _ _ _ x =>
    floatwise w x fun p q _ => fpMul (fmtOf w.tag) w.rnd p q)
  ∧ (∀ w : Rounded, RegisterWord (.fma w) [w.form 0x43 (exactSrcs w 3)] 1 fun _ _ _ x =>
    floatwise w x fun p q r => fpFma (fmtOf w.tag) w.rnd false false p q r)
  ∧ (∀ w : Rounded, RegisterWord (.fms w) [w.form 0x44 (exactSrcs w 3)] 1 fun _ _ _ x =>
    floatwise w x fun p q r => fpFma (fmtOf w.tag) w.rnd false true p q r)
  ∧ (∀ w : Rounded, RegisterWord (.fnma w) [w.form 0x45 (exactSrcs w 3)] 1 fun _ _ _ x =>
    floatwise w x fun p q r => fpFma (fmtOf w.tag) w.rnd true false p q r)
  ∧ (∀ w : Rounded, RegisterWord (.fmin w) [w.form 0x46 (exactSrcs w 2)] 1 fun _ _ _ x =>
    floatwise w x fun p q _ => fpMinMax (fmtOf w.tag) false p q)
  ∧ (∀ w : Rounded, RegisterWord (.fmax w) [w.form 0x47 (exactSrcs w 2)] 1 fun _ _ _ x =>
    floatwise w x fun p q _ => fpMinMax (fmtOf w.tag) true p q)
  ∧ (∀ w : Rounded, w.tag.isFloat = true → RegisterWord (.fabs w) [w.form 0x48 (exactSrcs w 1)] 1 fun _ _ _ x =>
    floatwise w x fun p _ _ => (p % 2 ^ (w.tag.width - 1), 0))
  ∧ (∀ w : Rounded, w.tag.isFloat = true → RegisterWord (.fneg w) [w.form 0x49 (exactSrcs w 1)] 1 fun _ _ _ x =>
    floatwise w x fun p _ _ => ((p + 2 ^ (w.tag.width - 1)) % 2 ^ w.tag.width, 0))
  ∧ (∀ w : Rounded, RegisterWord (.fscale w) [w.form 0x4E [srcExact 0 w.a w.tag, srcRaw 1 w.b (signedOf w.tag.width)]] 1 fun _ _ _ x =>
    floatwise w x fun p q _ => fpScale (fmtOf w.tag) w.rnd p (sext w.tag.width q))
  ∧ (∀ w : Rounded, RegisterWord (.frint w) [w.form 0x4F (exactSrcs w 1)] 1 fun _ _ _ x =>
    floatwise w x fun p _ _ => fpRint (fmtOf w.tag) w.rnd (w.sub % 2 == 1) p)

/-- R327, R328, R330 to R333: compare, classify, the exact dot products rounded once to F32, and the conversions, with the elements
of the destination that a narrowing conversion leaves alone. -/
def Obligations.FloatOther : Prop :=
  (∀ w : Rounded, RegisterWord (.fcmp w) [{ w.form 0x4A (exactSrcs w 2) with dV := [], dP := [w.d] }] 1 fun _ _ _ x =>
    let rs := (List.range w.tag.ne).map fun i =>
      fpCmp (fmtOf w.tag) w.sub (elem w.tag.width (x.vreg w.a).val i) (elem w.tag.width (x.vreg w.b).val i)
    { predResult w.d (rs.all Prod.fst) with fl := rs.foldl (fun a r => a ||| r.2) 0 })
  ∧ (∀ w : Rounded, RegisterWord (.fclass w) [w.form 0x4B (exactSrcs w 1)] 1 fun _ _ _ x =>
    Eff.vec w.d (unsignedOf w.tag.width) (elementwise w x fun p _ _ => fpClass (fmtOf w.tag) p))
  ∧ (∀ w : Rounded, RegisterWord (.dot2 w) [w.form 0x4C ([srcExact 0 w.a w.tag, srcExact 1 w.b w.tag] ++ if w.sub % 2 == 1 then [srcExact 2 w.c .f32x2] else [])] 1 fun _ _ _ x =>
    dotResult 2 w x)
  ∧ (∀ w : Rounded, RegisterWord (.dot4 w) [w.form 0x4D ([srcExact 0 w.a w.tag, srcExact 1 w.b w.tag] ++ if w.sub % 2 == 1 then [srcExact 2 w.c .f32x2] else [])] 1 fun _ _ _ x =>
    dotResult 4 w x)
  ∧ (∀ w : Rounded, RegisterWord (.cvtF w) [convForm 0x60 w floatTags (fun _ => [])] 1 fun _ _ _ x =>
    Eff.floats w.d w.tag (convElems w x fun st j => fpConvert (fmtOf st) (fmtOf w.tag) w.rnd (elem st.width (x.vreg w.a).val j)))
  ∧ (∀ w : Rounded, RegisterWord (.cvtFi w) [convForm 0x61 w floatTags (fun _ => [])] 1 fun _ _ _ x =>
    Eff.floats w.d w.tag (convElems w x fun st j => let r := fpToInt (fmtOf st) w.rnd (intRange w.tag).1 (intRange w.tag).2 (elem st.width (x.vreg w.a).val j)
      (wrap w.tag.width r.1, r.2)))
  ∧ (∀ w : Rounded, RegisterWord (.cvtIf w) [convForm 0x62 w numTags (fun _ => [])] 1 fun _ _ _ x =>
    Eff.floats w.d w.tag (convElems w x fun st j => fpFromInt (fmtOf w.tag) w.rnd (intVal st (elem st.width (x.vreg w.a).val j))))
  ∧ (∀ w : Rounded, RegisterWord (.cvtQ w) [convForm 0x63 w floatTags (fun x => [srcExact 1 w.b (x.vreg w.a).tag])] 1 fun _ _ _ x =>
    Eff.floats w.d w.tag (convElems w x fun st j => ppConvert (fmtOf st) (elem st.width (x.vreg w.a).val j) (elem st.width (x.vreg w.b).val j)))
  ∧ (∀ w : Rounded, RegisterWord (.cvtM w) [convForm 0x64 w floatTags (fun _ => [])] 1 fun _ _ _ x =>
    Eff.floats w.d w.tag (convElems w x fun st j => let r := fpToInt (fmtOf st) w.rnd (-(2 ^ (w.tag.width - 1) - 1)) (2 ^ (w.tag.width - 1) - 1) (elem st.width (x.vreg w.a).val j)
      (mCode w.tag.width r.1, r.2)))

/-- R334, R335: the special functions, each element rounded in the mode of the word; KIND of %syndrome is 2 for them (R402). -/
def Obligations.SpecialFunctions : Prop :=
  (∀ w : Rounded, RegisterWord (.rcp w) [w.form 0x70 (exactSrcs w 1)] 2 fun _ _ _ x =>
    floatwise w x fun p _ _ => fpRcp (fmtOf w.tag) w.rnd p)
  ∧ (∀ w : Rounded, RegisterWord (.rsqrt w) [w.form 0x71 (exactSrcs w 1)] 2 fun _ _ _ x =>
    floatwise w x fun p _ _ => fpRsqrt (fmtOf w.tag) w.rnd p)
  ∧ (∀ w : Rounded, RegisterWord (.sqrt w) [w.form 0x72 (exactSrcs w 1)] 2 fun _ _ _ x =>
    floatwise w x fun p _ _ => fpSqrt (fmtOf w.tag) w.rnd p)
  ∧ (∀ w : Rounded, RegisterWord (.div w) [w.form 0x73 (exactSrcs w 2)] 2 fun _ _ _ x =>
    floatwise w x fun p q _ => fpDiv (fmtOf w.tag) w.rnd p q)
  ∧ (∀ w : Rounded, RegisterWord (.exp2 w) [w.form 0x74 (exactSrcs w 1)] 2 fun _ _ _ x =>
    floatwise w x fun p _ _ => fpExp2 (fmtOf w.tag) w.rnd p)
  ∧ (∀ w : Rounded, RegisterWord (.log2 w) [w.form 0x75 (exactSrcs w 1)] 2 fun _ _ _ x =>
    floatwise w x fun p _ _ => fpLog2 (fmtOf w.tag) w.rnd p)
  ∧ (∀ w : Rounded, RegisterWord (.sin w) [w.form 0x76 (exactSrcs w 1)] 2 fun _ _ _ x =>
    floatwise w x fun p _ _ => fpSinCos (fmtOf w.tag) w.rnd false p)
  ∧ (∀ w : Rounded, RegisterWord (.cos w) [w.form 0x77 (exactSrcs w 1)] 2 fun _ _ _ x =>
    floatwise w x fun p _ _ => fpSinCos (fmtOf w.tag) w.rnd true p)
  ∧ (∀ w : Rounded, RegisterWord (.tanh w) [w.form 0x78 (exactSrcs w 1)] 2 fun _ _ _ x =>
    floatwise w x fun p _ _ => fpTanh (fmtOf w.tag) w.rnd p)

/-- R336 to R343: the cross-lane words over their participants, the active threads: an element by address, the mask of a ballot
or match, a vote, and the spans of `scan`, `reduce`, `sort` and `rank`. -/
def Obligations.LaneWords : Prop :=
  (∀ w : Plain, RegisterWord (.shfl w) [w.form 0x80 [srcExact 0 w.a w.tag, srcRaw 1 w.b (unsignedOf w.tag.width)]] 1 fun _ _ act x =>
    Eff.vec w.d w.tag (packWord w.tag.width ((List.range w.tag.ne).map fun i =>
      ((shflAddr w.opx w.tag.ne (laneOf x.tid * w.tag.ne + i) (elem w.tag.width (x.vreg w.b).val i)).bind
        (elemAcross act w.tag w.a)).getD (elem w.tag.width (x.vreg w.a).val i))))
  ∧ (∀ w : Plain, RegisterWord (.bcast w) [w.form 0x81 [srcExact 0 w.a w.tag]] 1 fun _ _ act x =>
    Eff.vec w.d w.tag (packWord w.tag.width ((List.range w.tag.ne).map fun i =>
      (elemAcross act w.tag w.a w.b).getD (elem w.tag.width (x.vreg w.a).val i))))
  ∧ (∀ w : Plain, RegisterWord (.ballot w) [w.form 0x82 []] 1 fun _ _ act _ =>
    Eff.vec w.d .u64 (BitVec.ofNat 64 (laneMask ((act.filter fun y => y.pred w.a).map Thread.tid))))
  ∧ (∀ w : Plain, RegisterWord (.vote w) [{ w.form 0x83 [] with dV := [], dP := [w.d] }] 1 fun _ _ act _ =>
    predResult w.d (match w.opx with
      | 0 => act.all fun y => y.pred w.a
      | 1 => act.any fun y => y.pred w.a
      | _ => (act.all fun y => y.pred w.a) || act.all fun y => !y.pred w.a))
  ∧ (∀ w : Plain, RegisterWord (.matchLanes w) [w.form 0x84 [srcAny 0 w.a]] 1 fun _ _ act x =>
    Eff.vec w.d .u64 (BitVec.ofNat 64 (laneMask ((act.filter fun y => (y.vreg w.a).val == (x.vreg w.a).val).map Thread.tid))))
  ∧ (∀ w : Plain, RegisterWord (.scan w) [w.form 0x85 [spanSrc w]] 1 fun _ _ act x =>
    spanResult w w.tag (fun es =>
      let r := scanFrom (w.opx % 8) w.tag none es
      (if bitAt w.opx 3 then r.2.1 else r.1, r.2.2)) act x)
  ∧ (∀ w : Plain, RegisterWord (.reduce w) [w.form 0x86 [spanSrc w]] 1 fun _ _ act x =>
    spanResult w w.tag (fun es =>
      let r := scanFrom (w.opx % 8) w.tag none es
      (List.replicate es.length (r.1.getLastD 0), r.2.2)) act x)
  ∧ (∀ w : Plain, RegisterWord (.sort w) [w.form 0x87 [spanSrc w]] 1 fun _ _ act x =>
    spanResult w w.tag (fun es =>
      ((sortSpan w.tag (bitAt w.opx 0) es).map Prod.snd, 0)) act x)
  ∧ (∀ w : Plain, RegisterWord (.rank w) [w.form 0x88 [spanSrc w]] 1 fun _ _ act x =>
    spanResult w (unsignedOf w.tag.width) (fun es =>
      let order := (sortSpan w.tag (bitAt w.opx 0) es).map Prod.fst
      ((List.range es.length).map fun i => (findIdxFrom (fun j => j == i) order 0).getD 0, 0)) act x)

/-- R364 to R371: the lane-matrix words on runs of registers: element (i, j) of the sum, the product, the fused product and the
transpose, the matrix-vector product, the factorisations with their predicate and %mstat, and the solver. -/
def Obligations.Matrices : Prop :=
  (∀ w : MatrixW, RegisterWord (.mset w) [matForm 0xA0 w [srcExact 0 w.a w.tag] (runNums w.d (mRun w)) []] 3 fun _ _ _ x =>
    matrixResult w fun i j => (if i = j then elem w.tag.width (x.vreg w.a).val 0 else 0, 0))
  ∧ (∀ w : MatrixW, RegisterWord (.madd w) [matForm 0xA1 w (srcsAB w) (runNums w.d (mRun w)) []] 3 fun _ _ _ x =>
    matrixResult w fun i j => fpAdd (fmtOf w.tag) .rn (at2 w.n (matA w x) i j) (at2 w.n (matB w x) i j))
  ∧ (∀ w : MatrixW, RegisterWord (.mmul w) [matForm 0xA2 w (srcsAB w) (runNums w.d (mRun w)) []] 3 fun _ _ _ x =>
    matrixResult w fun i j => dotChain (fmtOf w.tag) ((List.range w.n).map fun k => (at2 w.n (matA w x) i k, at2 w.n (matB w x) k j)))
  ∧ (∀ w : MatrixW, RegisterWord (.mmad w) [matForm 0xA3 w (srcsABC w) (runNums w.d (mRun w)) []] 3 fun _ _ _ x =>
    matrixResult w fun i j => fmaChain (fmtOf w.tag) false (at2 w.n (matC w x) i j, 0)
      ((List.range w.n).map fun k => (at2 w.n (matA w x) i k, at2 w.n (matB w x) k j)))
  ∧ (∀ w : MatrixW, RegisterWord (.mtrans w) [matForm 0xA4 w (srcsA w) (runNums w.d (mRun w)) []] 3 fun _ _ _ x =>
    matrixResult w fun i j => (at2 w.n (matA w x) j i, 0))
  ∧ (∀ w : MatrixW, RegisterWord (.mvmul w) [matForm 0xA5 w (srcsA w ++ runSrcs w.tag 1 w.b (vRun w)) (runNums w.d (vRun w)) []] 3 fun _ _ _ x =>
    let rs := (List.range w.n).map fun i =>
      dotChain (fmtOf w.tag) ((List.range w.n).map fun k => (at2 w.n (matA w x) i k, (vecB w x).getD k 0))
    { v := runWrites w.tag w.d (rs.map Prod.fst), fl := rs.foldl (fun a r => a ||| r.2) 0 })
  ∧ (∀ w : MatrixW, RegisterWord (.mchol w) [matForm 0xA6 w (srcsA w) (runNums w.d (mRun w)) [w.b]] 3 fun _ _ _ x =>
    let c := cholesky (fmtOf w.tag) w.n (matA w x)
    { v := runWrites w.tag w.d c.m, p := [(w.b, c.fail.isNone)], fl := c.fl,
      ms := some (mstatAfter x.mstat ((c.fail.map fun k => k + 1).getD 0) 1) })
  ∧ (∀ w : MatrixW, RegisterWord (.mlu w) [matForm 0xA7 w (srcsA w) (runNums w.d (mRun w) ++ [w.b]) [w.c]] 3 fun _ _ _ x =>
    let r := luFactor (fmtOf w.tag) w.n (matA w x)
    { v := runWrites w.tag w.d r.1.m ++ [(w.b, { val := packWord 3 r.2, tag := .u64 })], p := [(w.c, r.1.fail.isNone)],
      fl := r.1.fl, ms := some (mstatAfter x.mstat ((r.1.fail.map fun k => k + 1).getD 0) 2) })
  ∧ (∀ w : MatrixW, RegisterWord (.msolve w) [matForm 0xA8 w (srcsA w ++ runSrcs w.tag 1 w.b (vRun w) ++ if w.mode = 1 then [srcRaw 2 w.c .u64] else []) (runNums w.d (vRun w)) []] 3 fun _ _ _ x =>
    let r := solve (fmtOf w.tag) w.n w.mode (matA w x) (vecB w x) (x.vreg w.c).val.toNat
    { v := runWrites w.tag w.d r.1, fl := r.2 })

/-- R286: a paired word reads the operands of both halves before either writes, and joins the flags of both. The checks of both must
pass: the order in which they are made, with the registers of both halves first, is the model's choice (log entry 14). One clause
for each operation of the first half. -/
def Obligations.PairedWords : Prop :=
  PairedWord .mov .movPaired
  ∧ PairedWord .add .addPaired
  ∧ PairedWord .sub .subPaired
  ∧ PairedWord .mul .mulPaired
  ∧ PairedWord .min .minPaired
  ∧ PairedWord .max .maxPaired
  ∧ PairedWord .abs .absPaired
  ∧ PairedWord .neg .negPaired
  ∧ PairedWord .and .andPaired
  ∧ PairedWord .or .orPaired
  ∧ PairedWord .xor .xorPaired
  ∧ PairedWord .not .notPaired
  ∧ PairedWord .andn .andnPaired
  ∧ PairedWord .shl .shlPaired
  ∧ PairedWord .shr .shrPaired
  ∧ PairedWord .sar .sarPaired
  ∧ PairedWord .fadd .faddPaired
  ∧ PairedWord .fsub .fsubPaired
  ∧ PairedWord .fmul .fmulPaired
  ∧ PairedWord .fmin .fminPaired
  ∧ PairedWord .fmax .fmaxPaired
  ∧ PairedWord .fabs .fabsPaired
  ∧ PairedWord .fneg .fnegPaired

/-! ### Words that reach memory and scratch -/

/-- R346, R349, R350: a load asks for the bytes at its effective offset and an `ldacq` is an acquire unless a frame's order
is 2; a store buffers the low bytes of its data register. A scratch word does the same at its scratch address, and a lane
out of range is switched off. -/
def Obligations.LoadsAndStores : Prop :=
  (∀ w : MemW, MemoryWord (.ld w) (w.form 0x00 (w.width != 0) true [] [w.data]) true (fun _ => opLoad)
    (throughCap w (sizeBytes w.size)) fun _ _ ps =>
      { req := some (.load w.data w.type (sizeBytes w.size) false, w.scope, ps) })
  ∧ (∀ w : MemW, MemoryWord (.ldacq w) (w.form 0x01 (w.width != 0) true [] [w.data]) true (fun _ => opLoad)
    (throughCap w (sizeBytes w.size)) fun _ _ ps =>
      { req := some (.load w.data w.type (sizeBytes w.size) (ps.all fun p => p.ord != 2), w.scope, ps) })
  ∧ (∀ w : MemW, MemoryWord (.st w) (w.form 0x02 (w.width != 0) true [srcAny 3 w.data] []) true (fun _ => opStore)
    (throughCap w (sizeBytes w.size)) fun x _ ps => { effects := [.store ps (lowBytes x w.data (sizeBytes w.size))] })
  ∧ (∀ w : MemW, ScratchWord (.lds w) (w.form 0x04 (w.width != 0) false [] [w.data]) (throughScratch w (sizeBytes w.size))
    fun _ p => { req := some (.load w.data w.type (sizeBytes w.size) false, w.scope, [p]) })
  ∧ (∀ w : MemW, ScratchWord (.sts w) (w.form 0x05 (w.width != 0) false [srcAny 3 w.data] [])
    (throughScratch w (sizeBytes w.size)) fun x p => { effects := [.store [p] (lowBytes x w.data (sizeBytes w.size))] })

/-- R356, R357: `mld` and `mst` move a matrix through a run of registers, one access for each register of the run (R115), without
the padding; `ldcap` keeps the tag where its capability has load-cap, and `stcap` of a tagged value needs store-cap too. -/
def Obligations.MatrixAndCapabilityTransfers : Prop :=
  (∀ w : MemW, MemoryWord (.mld w) (w.form 0x32 true true [] (span w.data (laneRun w))) true (fun _ => opLoad)
    (fun x => (x.creg w.cap, laneOffset w x, laneBytes w, 8)) fun _ _ ps =>
      { req := some (.lane w.data w.type (laneRun w), w.scope,
          ((List.range (laneRun w)).map fun k => slice ps (8 * k) (laneChunk w k)).flatten) })
  ∧ (∀ w : MemW, MemoryWord (.mst w) (w.form 0x33 true true ((span w.data (laneRun w)).map fun r => srcAny 3 r) []) true
    (fun _ => opStore) (fun x => (x.creg w.cap, laneOffset w x, laneBytes w, 8)) fun x _ ps =>
      { effects := (List.range (laneRun w)).map fun k =>
          .store (slice ps (8 * k) (laneChunk w k)) (lowBytes x (w.data + k) (laneChunk w k)) })
  ∧ (∀ w : MemW, MemoryWord (.ldcap w) { w.form 0x34 (w.width != 0) true [] [] with dC := [w.data] } true (fun _ => opLoad)
    (throughCap w 16) fun x _ ps => { req := some (.cap w.data (bitAt (x.creg w.cap).rights 3), w.scope, ps) })
  ∧ (∀ w : MemW, MemoryWord (.stcap w) { w.form 0x35 (w.width != 0) true [] [] with caps := [w.cap, w.data] } true
    (fun x => opStcap (x.creg w.data).tag) (throughCap w 16) fun x _ ps =>
      { effects := (ps.take 1).map fun p => .cap p (x.creg w.data).nat (x.creg w.data).tag })

/-- R352, R354, R355: a `red` buffers its operand as a reduction, `wsum` an addend of its cell, or only the flag where the
addend is rejected, and `wrd` asks for a cell. -/
def Obligations.ReductionsAndWideSums : Prop :=
  (∀ (w : MemW) (k : Nat) (i : Instr), (k, i) ∈ [(0, .redAdd w), (1, .redMin w), (2, .redMax w), (3, .redAnd w), (4, .redOr w), (5, .redXor w)] →
    MemoryWord i (w.form (0x18 + k) (w.width != 0) true (atomSrcs k w) []) true (fun _ => opAtomic)
      (throughCap w (sizeBytes w.size)) fun x _ ps =>
        { effects := (ps.take 1).map fun p => .red p k w.type (lowBytes x w.data (sizeBytes w.size)) })
  ∧ (∀ w : MemW, w.size = 0 → MemoryWord (.wsum w) (w.form 0x30 (w.width != 0) true [srcExact 3 w.data w.type] []) true
    (fun _ => opAtomic) (throughCap w 16) fun x _ ps => wsumEff w x ps)
  ∧ (∀ w : MemW, w.size ≠ 0 → ScratchWord (.wsum w) (w.form 0x30 (w.width != 0) false [srcExact 3 w.data w.type] [])
    (throughScratch w 16) fun x p => wsumEff w x [p])
  ∧ (∀ w : MemW, w.size = 0 → MemoryWord (.wrd w) (w.form 0x31 (w.width != 0) true [] [w.data]) true
    (fun _ => opLoad) (throughCap w 16) fun _ _ ps => { req := some (.wide w.data w.type, w.scope, ps) })
  ∧ (∀ w : MemW, w.size ≠ 0 → ScratchWord (.wrd w) (w.form 0x31 (w.width != 0) false [] [w.data])
    (throughScratch w 16) fun _ p => { req := some (.wide w.data w.type, w.scope, [p]) })

/-- R349, R352, R353: `strel` and the returning atomics are commit-class: they commit, then the release or the request goes
out (a `strel` to UN memory is a plain store, R117); an `atoms` word with NR is a buffered reduction. -/
def Obligations.AtomicsAndReleases : Prop :=
  (∀ w : MemW, CommitMemoryWord (.strel w) (w.form 0x03 (w.width != 0) true [srcAny 3 w.data] []) (fun _ => opStore)
    (throughCap w (sizeBytes w.size)) fun x _ ps =>
      { effects := [if ps.all fun p => p.ord == 2 then .store ps (lowBytes x w.data (sizeBytes w.size))
                    else .release ps (lowBytes x w.data (sizeBytes w.size)) w.scope] })
  ∧ (∀ (w : MemW) (k : Nat) (i : Instr),
    (k, i) ∈ [(0, .atomAdd w), (1, .atomMin w), (2, .atomMax w), (3, .atomAnd w), (4, .atomOr w), (5, .atomXor w), (6, .atomXchg w), (7, .atomCas w)] →
    CommitMemoryWord i (w.form (0x10 + k) (w.width != 0) true (atomSrcs k w) []) (fun _ => opAtomic)
      (throughCap w (sizeBytes w.size)) fun x _ ps =>
        { req := some (.atom w.data k w.type (sizeBytes w.size) (lowBytes x w.data (sizeBytes w.size))
            (if k = 7 then lowBytes x (w.data + 1) (sizeBytes w.size) else 0), w.scope, ps) })
  ∧ (∀ (w : MemW) (k : Nat) (i : Instr),
    (k, i) ∈ [(0, .atomsAdd w), (1, .atomsMin w), (2, .atomsMax w), (3, .atomsAnd w), (4, .atomsOr w), (5, .atomsXor w), (6, .atomsXchg w), (7, .atomsCas w)] →
    (w.cap % 2 = 0 → CommitScratchWord i (w.form (0x28 + k) (w.width != 0) false (atomSrcs k w) [])
      (throughScratch w (sizeBytes w.size)) fun x p =>
        { req := some (.atom w.data k w.type (sizeBytes w.size) (lowBytes x w.data (sizeBytes w.size))
            (if k = 7 then lowBytes x (w.data + 1) (sizeBytes w.size) else 0), w.scope, [p]) })
    ∧ (w.cap % 2 = 1 → ScratchWord i (w.form (0x28 + k) (w.width != 0) false (atomSrcs k w) [])
      (throughScratch w (sizeBytes w.size)) fun x p =>
        { effects := [.red p k w.type (lowBytes x w.data (sizeBytes w.size))] }))

/-- R156, R358 to R362: a `prefetch` fills cacheable lines, of this device or of a peer, where its access passes, and does nothing where
it fails; a `cachectl` acts on
every present copy of its lines once its thread's committed stores to them are performed; `mon` arms a watch, and one whose
scratch address is out of range disarms it; `fence` waits for its thread's committed stores, reductions and wide sums (without `all`
not for stores to UN memory), and drops its core's L1 lines of RC frames, and under `all` of UN frames, where its
scope reaches beyond the block, and at pool scope every line that a later load could hit, the remote-data cache's too (R100);
`mwait` sleeps on an armed watch that has not triggered. -/
def Obligations.CachesAndWatches : Prop :=
  (∀ w : MemW, MemoryWord (.prefetch w) (w.form 0x39 (w.width != 0) true [] []) false (fun _ => opLoad) (throughCap w 1)
    fun _ _ ps => { acts := (ps.filter Piece.cached).map fun p => .fill w.scope p.line })
  ∧ (∀ (w : MemW) (s : State) (g : Group) (b : Block), s.current = some (g, b) →
    Unhindered s b [w.form 0x39 (w.width != 0) true [] []] false 1 (actives w.guard g b) →
    Passes [w.form 0x39 (w.width != 0) true [] []] (actives w.guard g b) →
    (∀ x ∈ actives w.guard g b, let r := (s.access b (x.creg w.cap) (MemW.offset w x true) 1 1 opLoad).2
      (∀ ps, r ≠ .ok ps) ∧ r ≠ .wait) →
    exec (.prefetch w) s = .next (s.wordDone g b (each (actives w.guard g b) fun _ => {})))
  ∧ (∀ (w : MemW) (k : Nat) (i : Instr), (k, i) ∈ [(0, .cachectlWb w), (1, .cachectlEvict w), (2, .cachectlL1drop w)] →
    ∀ (s s' : State) (g : Group) (b : Block) (qs : List (Thread × State × List Piece)), s.current = some (g, b) →
    Unhindered s b [w.form 0x3A (w.width != 0) true [] []] true 1 (actives w.guard g b) →
    Passes [w.form 0x3A (w.width != 0) true [] []] (actives w.guard g b) →
    accessesPass (fun _ => opCachectl) (throughCap w 1) b (actives w.guard g b) s = some (s', qs) →
    (∀ q ∈ qs, q.2.1.storesTo b.uid q.1.tid (q.2.2.flatMap fun p => q.2.1.copies p) = false) →
    let oks := withPieces qs fun _ t ps =>
      { acts := if (ps.flatMap fun p => t.copies p).isEmpty then [] else [.cache k (ps.flatMap fun p => t.copies p)] }
    RoomFor s' g b oks → exec i s = .next (s'.wordDone g b oks))
  ∧ (∀ w : Plain, w.opx = 0 → MemoryWord (.mon w)
    { guard := w.guard, regs := (w.view 0xE4).regs, srcs := [srcWord 1 w.b], caps := [w.a] } true (fun _ => opLoad)
    (fun x => (x.creg w.a, ((x.creg w.a).cursor : Int) + (x.vreg w.b).val.toInt, 1, 1)) fun _ _ ps =>
      { acts := (ps.take 1).map fun p => .watch none (watchPlace p) })
  ∧ (∀ w : Plain, w.opx ≠ 0 → ∀ (s : State) (g : Group) (b : Block) (q : Thread → Option Piece), s.current = some (g, b) →
    let f : Form := { guard := w.guard, regs := (w.view 0xE4).regs, srcs := [srcWord 1 w.b] }
    Unhindered s b [f] true 1 (actives w.guard g b) → Passes [f] (actives w.guard g b) →
    (∀ x ∈ actives w.guard g b, s.scratchAccess b ((x.vreg w.b).val.toNat : Nat) 4 4 = .ok (q x)) →
    let oks := each (actives w.guard g b) fun x => match q x with
      | some p => { acts := [.watch p.scratch p.addr] }
      | none => { off := true, acts := [.unwatch] }
    RoomFor s g b oks → exec (.mon w) s = .next (s.wordDone g b oks))
  ∧ (∀ w : MemW, CommitWord (.fence w) (fun _ => w.form 0x38 false false [] []) (drainFence (w.size != 0)) fun s _ b _ =>
    if w.scope = .block then s
    else if w.scope = .pool then
      let t := s.dropL1 b.core [1, 2] none
      { t with caches := { t.caches with rdc := t.caches.rdc.filter fun r => r.die != dieOf b.core } }
    else s.dropL1 b.core (if w.size = 0 then [1] else [1, 2]) none)
  ∧ (∀ w : Plain, CommitWord (.mwait w) (fun _ => { guard := w.guard, regs := (w.view 0xE5).regs }) drainNone fun s g b oks =>
    oks.foldl (fun t xe => t.mwaitThread b.uid xe.1.tid (s.rgnAt b g.space (g.pc + 8))) s)

/-! ### Commands, counters and reservations -/

/-- R142, R375 to R380: the leader of a group, its lowest-numbered active thread, checks a command and issues it into the queues that
the word names; `rack` with parameters out of range is issued as a failed command. What its landing barrier and its notify word are
checked for then, and that a notify word out of range is not written, is the model's choice (log entry 105): R379 says nothing of
it. -/
def Obligations.EngineCommands : Prop :=
  (∀ w : Plain, CommandWord (.cpy w) (copyForm 0xC3 w [w.c] (lenViols w))
    (fun b x => copyChecks w b x (some (regNat x w.c)) (some (regNat x w.c)) [] [])
    fun b x => { copyCmd .cpy w b x with len := regNat x w.c, keepTags := keepsTags w x })
  ∧ (∀ w : Plain, CommandWord (.cpyg w) (copyForm 0xC4 w [w.c, w.c + 1] (gatherViols w))
    (fun b x => copyChecks w b x none (some (gatherCount w x * gatherSize w x))
      [(bits (regNat x (w.c + 1)) 0 21, 4 * gatherCount w x)] [(bits (regNat x (w.c + 1)) 0 21, 4)])
    fun b x => { copyCmd .cpyg w b x with
      rows := gatherCount w x, len := gatherSize w x, stride := gatherStride w x, idx := bits (regNat x (w.c + 1)) 0 21 })
  ∧ (∀ w : Plain, CommandWord (.cpym w) (copyForm 0xC5 w [w.c, w.c + 1] fun x => lenViols w x ++ tooWide x (w.c + 1) 21 4)
    (fun b x => copyChecks w b x (some (regNat x w.c)) (some (regNat x w.c))
      [(bits (regNat x (w.c + 1)) 0 21, 64)] [(bits (regNat x (w.c + 1)) 0 21, 64)])
    fun b x => { copyCmd .cpym w b x with len := regNat x w.c, pdesc := bits (regNat x (w.c + 1)) 0 21 })
  ∧ (∀ w : Plain, CommandWord (.rack w) (copyForm 0xC6 w [w.c] fun _ => [])
    (fun b x => if rackValid w x then
        copyChecks w b x (some (8 * rackN w x)) (some (4 * (rackE w x + 1 + rackN w x))) []
          [((copySrc w b x).place, 8), ((copyDst w b x).place, 4)]
      else rangeChecks b [] [] (((copyLbar w x).toList.map fun a => (a, 16)) ++ (copyNotify w b x).toList.map fun p => (p.place, 4)))
    fun b x => { copyCmd .rack w b x with
      notify := (copyNotify w b x).filter fun p => rackValid w x || p.notifiable
      len := rackN w x, experts := rackE w x, cbase := rackBase w x, failed := !(rackValid w x), invalid := !(rackValid w x) })
  ∧ (∀ w : Plain, CommandWord (.ppass w)
    { guard := w.guard, regs := (w.view 0xC2).regs, srcs := [srcWord 0 w.a], values := fun x => tooWide x w.a 21 2 }
    (fun b x => rangeChecks b [] [(regNat x w.a, 64)] [(regNat x w.a, 64)])
    fun _ x => { kind := .ppass, queue := 16, pdesc := regNat x w.a })
  ∧ (∀ w : Plain, CommandWord (.qfence w) { guard := w.guard, regs := (w.view 0xC7).regs } (fun _ _ => [])
    fun _ _ => { kind := .qfence, queue := w.opx })

/-- R381 to R384, R187: `lbarm` arms a landing barrier in scratch, `ecnt.add` buffers a count and `ecnt.rd` reads one,
`exlook` reads an entry of the residency table with a predicate that says whether its state is 1 to 3, and `cancel` names a
counter. -/
def Obligations.CountersAndLookups : Prop :=
  (∀ w : Plain, ScratchWord (.lbarm w)
    { guard := w.guard, regs := (w.view 0xC8).regs, srcs := [srcWord 0 w.a, srcWord 1 w.b],
      values := fun x => tooWide x w.a 21 2 ++ tooWide x w.b 32 3 }
    (fun x => ((regNat x w.a : Nat), 16, 16)) fun x p => { effects := [.arm p (regNat x w.b)] })
  ∧ (∀ w : Plain, PlainWord (.ecntAdd w)
    (fun _ => { guard := w.guard, regs := (w.view 0xC9).regs, srcs := [srcWord 0 w.a, srcWord 1 w.b], values := fun x => tooWide x w.a 16 2 })
    true fun _ _ x => { effects := [.count (regNat x w.a) (regNat x w.b)] })
  ∧ (∀ w : Plain, PlainWord (.ecntRd w)
    (fun _ => { w.form 0xC9 [srcWord 0 w.a] with values := fun x => tooWide x w.a 16 2 }) true fun s _ x =>
      Eff.vec w.d .u64 (BitVec.ofNat 64 (lookupD 0 (regNat x w.a) s.tables.act)))
  ∧ (∀ w : Plain, PlainWord (.exlook w)
    (fun _ => { w.form 0xCA [srcWord 0 w.a] with dV := [w.d, w.d + 1], dP := [w.b], values := fun x => tooWide x w.a 16 2 })
    true fun s _ x =>
      let e := lookupD (0, 0) (regNat x w.a) s.tables.exres
      { v := [(w.d, { val := BitVec.ofNat 64 e.1, tag := .u64 }), (w.d + 1, { val := BitVec.ofNat 64 e.2, tag := .u64 })],
        p := [(w.b, 1 ≤ bits e.1 0 3 && bits e.1 0 3 ≤ 3)] })
  ∧ (∀ w : Plain, PlainWord (.cancel w)
    (fun s => { guard := w.guard, regs := (w.view 0xEC).regs, srcs := [srcWord 0 w.a], values := handleViols s w }) false
    fun _ _ x => { acts := [.cancel (w.opx % 4) (regNat x w.a)] })

/-- R398 to R400, R465: `getsr` gives the value of the register zero-extended, tagged U64; %cycle of a core goes on at the rate of its
die, k sixteenths of the clocks that pass, from a value at reset that is free (log entry 4). R66, R265, R366: `setsr` writes the
flags of %fpflags and the fields of %mstat where no bit above them is set, clears SF of %scratchfault with 0, and leaves the register
as it is with any other value. -/
def Obligations.StatusRegisters : Prop :=
  (∀ w : Plain, PlainWord (.getsr w) (fun _ => w.form 0xE6 []) false fun s b x =>
    Eff.vec w.d .u64 (if w.opx = 0x10 then s.cycle b.core else BitVec.ofNat 64 (s.statusReg b x w.opx)))
  ∧ (∀ (s : State) (core : Nat), s.cycle core = Config.freeStart core + BitVec.ofNat 64 (s.power.beats.getD (dieOf core) 0 / 16))
  ∧ (∀ (s : State) (n d : Nat), d < s.power.beats.length →
    (s.pass n).power.beats.getD d 0 = s.power.beats.getD d 0 + n * (8 + clockStep s.power.clkstep d))
  ∧ (∀ w : Plain, PlainWord (.setsr w) (fun _ => { w.form 0xE7 [srcWord 0 w.a] with dV := [] }) false fun _ _ x =>
    { set := some (w.opx, (x.vreg w.a).val) })
  ∧ (∀ (x : Thread) (v : Word), let y := x.apply { set := some (0x14, v) }
    y = { x with fpflags := if v.toNat < 2 ^ 7 then v.setWidth 32 else x.fpflags })
  ∧ (∀ (x : Thread) (v : Word), let y := x.apply { set := some (0x13, v) }
    y = { x with mstat := if v.toNat < 2 ^ 7 then v.setWidth 32 else x.mstat })
  ∧ (∀ (x : Thread) (v : Word), let y := x.apply { set := some (0x12, v) }
    y = { x with sf := if v = 0 then false else x.sf })

/-- R376, R229, R395, R233, R234, R390: `pacq` gives every thread one answer, `prel` marks the reservation of the block or gang,
`rbacq` and `rbrel` move register blocks, `waitc` records the conditions that are not met and asks for a save, `yield` asks
for a save, and `exit` ends its threads. -/
def Obligations.ReservationsWaitsAndEnds : Prop :=
  (∀ w : Plain, CommitWord (.pacq w) (fun _ => { guard := w.guard, regs := (w.view 0xC0).regs }) drainNone fun s _ b oks =>
    oks.foldl (fun t xe => t.updThread b.uid xe.1.tid fun x => x.setP w.d (s.takeResv b).2) (s.takeResv b).1)
  ∧ (∀ w : Plain, CommitWord (.prel w) (fun _ => { guard := w.guard, regs := (w.view 0xC1).regs }) drainNone fun s _ b _ =>
    { s with engines := { s.engines with resv := s.engines.resv.map fun q =>
        if q.owner = b.uid - b.gangRank then { q with marked := some (q.marked.getD s.sched.nextId) } else q } })
  ∧ (∀ w : Plain, CommitWord (.rbacq w) (fun _ => { guard := w.guard }) drainNone fun s g b oks =>
    s.rbacq g b (oks.map Prod.fst) w.d w.opx)
  ∧ (∀ w : Plain, CommitWord (.rbrel w)
    (fun s => { guard := w.guard, values := fun _ => match s.current with
        | some (g, b) => if (actives w.guard g b).any fun y => decide (w.opx ≥ y.h) then [rangeViol 10] else []
        | none => [] }) drainNone fun s _ b oks =>
      oks.foldl (fun s o => s.updThread b.uid o.1.tid fun y => y.shrink w.opx) s)
  ∧ (∀ w : Plain, CommitWord (.waitc w)
    (fun s => { guard := w.guard, regs := (w.view 0xE9).regs, srcs := [srcWord 0 w.a, srcWord 1 w.b],
                values := fun x => inHandler x ++ handleViols s w x ++ if numOf x w.b ≥ 2 ^ 32 then [rangeViol 3] else [] }) drainNone
    fun s _ b oks =>
      let cond (x : Thread) : WaitCond := { level := w.opx % 4, handle := numOf x w.a, target := numOf x w.b }
      let unmet := (oks.map Prod.fst).filter fun x => !(s.met (cond x))
      if unmet.isEmpty then s
      else (unmet.foldl (fun s x => s.updThread b.uid x.tid fun y => { y with waitOn := some (cond x) }) s).askYield b .waitc)
  ∧ (∀ w : Plain, CommitWord (.yield w) (fun _ => { guard := w.guard, values := inHandler }) drainNone fun s _ b _ =>
    s.askYield b .yield)
  ∧ (∀ w : Imm, CommitWord (.exit w) (fun _ => { guard := w.guard }) drainNone fun s g b oks =>
    (oks.foldl (fun s o => s.exitThread g b o.1) s).barriersAt b.uid)

/-- R396, R397: every thread of a group arrives at a barrier, once what it has committed is performed, and sleeps there until the
phase is complete; the last arrival completes it. -/
def Obligations.Barriers : Prop :=
  ∀ (w : Plain) (gang : Bool) (s : State) (g : Group) (b b2 : Block), s.current = some (g, b) → MayCommit s g b .always →
    (∀ x ∈ actives .always g b, x.handler = none) → (gang = true → b.gangSize > 1) →
    let oks := each (actives .always g b) fun _ => {}
    Drained drainAll (s.onCommit g b oks) b oks → (s.onCommit g b oks).block? b.uid = some b2 →
    let t := s.onCommit g b oks
    let arrived := (standing b2 oks).foldl (fun u o =>
      u.arriveAt b2.uid o.1.tid (if gang then .atGbar else .atBar) (t.rgnAt b2 g.space (g.pc + 8))) t
    exec (if gang then .gbar w else .bar w) s
      = .next (((arrived.barrier b2.uid gang fun k x => t.rgnAt k x.space (x.pc + 8)).drawAll g.core g.part).settleSave b2.uid)

/-- R142, R404, R232: the record of the leader, the lowest-numbered active thread, is read through its capability, and once the stores of the threads are performed the ring of
the slot takes it, where it has room; every active thread's predicate says whether it did. -/
def Obligations.LaunchWord : Prop :=
  ∀ (w : Plain) (s s' : State) (g : Group) (b b2 : Block) (x : Thread) (pre rest : List Thread) (ps : List Piece),
    s.current = some (g, b) → MayCommit s g b w.guard → actives w.guard g b = pre ++ x :: rest →
    (∀ y ∈ pre ++ rest, x.tid < y.tid) →
    checkAll x [{ guard := w.guard, regs := (w.view 0xE8).regs, srcs := [srcWord 1 w.b], caps := [w.a], leader := true,
                  values := fun x => if numOf x w.b ≥ 64 then [rangeViol 3] else [] }] = none →
    s.access b (x.creg w.a) ((x.creg w.a).cursor : Nat) 256 16 opLoad = (s', .ok ps) → (∀ p ∈ ps, p.peer = none) →
    let e := s'.readRecord b x (x.creg w.a) ps
    s'.refusal { id := 0, ctx := b.ctx, slot := numOf x w.b, prio := 0, record := e.dwords, tags := e.tags } = none →
    s'.badRing b.ctx (numOf x w.b) = none → e.dwords.length = 32 →
    let oks := each pre (fun _ => {}) ++ (x, { kept := { nums := numOf x w.b :: e.dwords ++ e.tags.map bit } }) :: each rest fun _ => {}
    let t := s'.onCommit g b oks
    Drained drainAll t b oks → t.block? b.uid = some b2 →
    let r := t.queueLaunch b2.ctx (numOf x w.b) { dwords := e.dwords, tags := e.tags }
    exec (.launch w) s = .next (((standing b2 oks).foldl (fun u o => u.updThread b2.uid o.1.tid fun y => y.setP w.d r.2) r.1).afterCommits
      g b2 (g.issuers b) (standing b2 oks))

/-- R406, R192: each lane's capability is checked before the commit, then the lanes are served in ascending order, each header judged
at its home before HEAD moves; a record's bytes go to the run of registers, and a scope that reaches beyond the device acquires
first: its core's later loads miss RC lines, and at pool scope every line (R100). What an `fpop` that is no acquire makes them miss,
as a returning atomic does, is read from R139 (log entry 108). -/
def Obligations.FeedPop : Prop :=
  ∀ (w : Plain) (s s' t : State) (g : Group) (b b2 : Block) (qs : List (Thread × State × List Piece)) (ks : List (Nat × Kept)),
    s.current = some (g, b) → MayCommit s g b w.guard →
    Passes [{ guard := w.guard, regs := (w.view 0xEB).regs, caps := [w.a] }] (actives w.guard g b) →
    accessesPass (fun _ => opFeed) (fun x => (x.creg w.a, ((x.creg w.a).cursor : Nat), 256, 128)) b (actives w.guard g b) s
      = some (s', qs) →
    let oks := withPieces qs fun _ _ ps => { kept := { pieces := ps } }
    Drained drainAll (s'.onCommit g b oks) b oks → (s'.onCommit g b oks).block? b.uid = some b2 →
    State.serveFeed w b2 (standing b2 oks) (s'.onCommit g b oks) = (t, ks, [], none) →
    let l := t.dropL1 b2.core [1, 2] none
    let u := if w.opx % 8 = 3 then t.dropL1 b2.core [1] none
      else if w.opx % 8 = 4 then { l with caches := { l.caches with rdc := l.caches.rdc.filter fun r => r.die != dieOf b2.core } }
      else t.missOlder b2.core
    exec (.fpop w) s = .next ((ks.foldl (fun u k => u.updThread b2.uid k.1 fun y => y.takeRecord w k.2.nums) u).afterCommits g b2
      (g.issuers b) (standing b2 oks))

/-- R206, R176: a commit-class word of which no thread is active commits nothing: the threads go on at the next word. -/
def Obligations.GuardedOffCommits : Prop :=
  (∀ (w : MemW) (i : Instr), i ∈ [.strel w, .fence w, .atomAdd w, .atomMin w, .atomMax w, .atomAnd w, .atomOr w, .atomXor w, .atomXchg w, .atomCas w] →
    IdleCommit i w.guard)
  ∧ (∀ (w : MemW) (i : Instr), w.cap % 2 = 0 →
    i ∈ [.atomsAdd w, .atomsMin w, .atomsMax w, .atomsAnd w, .atomsOr w, .atomsXor w, .atomsXchg w, .atomsCas w] → IdleCommit i w.guard)
  ∧ (∀ (w : Plain) (i : Instr), i ∈ [.pacq w, .prel w, .rbacq w, .rbrel w, .launch w, .waitc w, .yield w, .fpop w, .mwait w] →
    IdleCommit i w.guard)
  ∧ (∀ w : Imm, IdleCommit (.exit w) w.guard)

/-! ### Exceptions, regions and the handlers of frozen groups -/

/-- R391, R392, R246: `trap` takes USER with its immediate, and `brk` takes BREAK where no debug unit is attached to the context;
where PASS lets every active thread by, either acts as `nop` and PASS is used up. With a debug unit attached, `brk` completes, PASS
plays no part, and its block halts. -/
def Obligations.TrapAndBreak : Prop :=
  (∀ w : Imm, TrappingWord (.trap w) w.guard (fun _ _ => True) cUser w.imm)
  ∧ (∀ w : Plain, TrappingWord (.brk w) w.guard (fun s b => s.attached b.ctx = false) cBreak 0)
  ∧ (∀ (w : Imm) (s : State) (g : Group) (b : Block), s.current = some (g, b) →
    Unhindered s b [{ guard := w.guard }] false 1 (actives w.guard g b) → Passes [{ guard := w.guard }] (actives w.guard g b) →
    (∀ x ∈ actives w.guard g b, x.passes = true) →
    exec (.trap w) s = .next (s.wordDone g b (each (actives w.guard g b) fun _ => { passed := true })))
  ∧ (∀ (w : Plain) (s : State) (g : Group) (b : Block), s.current = some (g, b) →
    (s.attached b.ctx = false ∨ actives w.guard g b = []) →
    Unhindered s b [{ guard := w.guard }] false 1 (actives w.guard g b) → Passes [{ guard := w.guard }] (actives w.guard g b) →
    (∀ x ∈ actives w.guard g b, x.passes = true) →
    exec (.brk w) s = .next (s.wordDone g b (each (actives w.guard g b) fun _ => { passed := true })))
  ∧ (∀ (w : Plain) (s : State) (g : Group) (b : Block), s.current = some (g, b) → s.attached b.ctx = true →
    Unhindered s b [{ guard := w.guard }] false 1 (actives w.guard g b) → Passes [{ guard := w.guard }] (actives w.guard g b) →
    actives w.guard g b ≠ [] →
    exec (.brk w) s = .next ((s.wordDone g b (each (actives w.guard g b) fun _ => {})).haltBlock b.uid 2
      (lowestLane ((actives w.guard g b).map Thread.tid)) (0, 0)))

/-- R393: an `assert` whose predicate is true in every active thread acts as `nop`; one that fails in some thread stops the
context with ASSERT, the immediate, and the failing thread of least number. -/
def Obligations.Assertions : Prop :=
  (∀ (w : Imm) (s : State) (g : Group) (b : Block), s.current = some (g, b) →
    Unhindered s b [{ guard := w.guard }] false 1 (actives w.guard g b) → Passes [{ guard := w.guard }] (actives w.guard g b) →
    (∀ x ∈ actives w.guard g b, x.pred w.d = true) →
    exec (.assert w) s = .next (s.wordDone g b (each (actives w.guard g b) fun _ => {})))
  ∧ (∀ (w : Imm) (s : State) (g : Group) (b : Block) (y : Thread), s.current = some (g, b) →
    Unhindered s b [{ guard := w.guard }] false 1 (actives w.guard g b) → y ∈ actives w.guard g b → y.pred w.d = false → (∀ z ∈ actives w.guard g b, z.pred w.d = false → y.tid ≤ z.tid) →
    ∃ h, (∃ z ∈ actives w.guard g b, z.pred w.d = false ∧ h = z.handler.isSome) ∧
      exec (.assert w) s = .next (s.stopContext b.ctx
        { cause := cAssert, nested := h, core := b.core, tid := y.tid, pc := pc48 g.pc, blk := b.blk, msg := w.imm }))

/-- R394, R245, R126: every active thread of an `rte` is in a handler, with nothing outstanding or committed to perform, and where the
group is frozen no thread of it has: each returns from its frame, one trace record tells of all (R452), and the rest of the group
goes on. -/
def Obligations.ReturnFromTrap : Prop :=
  ∀ (w : Imm) (s t : State) (g : Group) (b : Block), s.current = some (g, b) →
    let act := actives w.guard g b
    (∀ x ∈ act, x.mid = false ∧ x.handler ≠ none ∧ s.outstanding b.uid x.tid = false ∧ s.pendingOf b.uid x.tid = false) →
    (g.runner ≠ none → ∀ u ∈ g.tids, s.pendingOf b.uid u = false) → s.glitchOf b act 1 = none →
    let tids := act.map Thread.tid
    State.returnAll (((s.dropAsks s.sched.cur).stepPcs b ((g.issuers b).filter fun x => !(tids.contains x.tid)) []).retire b tids)
      g.gid b.uid tids = some t →
    exec (.rte w) s = .next ((((t.returnTrace b g.pc tids).regroup g.gid).drawAll g.core g.part).settleSave b.uid)

/-- R202, R206, R388: `rgn k` commits the current instance of every thread of the group, and each enters a new instance of region k
with the descriptor that it read, or ends there in a block that `cancel` ends (R187); a block that was to migrate stays where one of
them is NOMIGRATE (R204). R389: `reform` moves every thread past the word and files it under its new PC; the group ends,
but the thread that runs the handler of a frozen group goes on. -/
def Obligations.RegionsAndReform : Prop :=
  (∀ (w : Imm) (s s' : State) (g : Group) (b : Block) (ds : List (Thread × List Nat)), s.current = some (g, b) →
    (∀ x ∈ g.issuers b, x.mid = false ∧ x.handler = none ∧ s.outstanding b.uid x.tid = false) →
    s.glitchOf b (g.issuers b) 1 = none →
    descsPass w.imm b (g.issuers b) s = some (s', ds) →
    let tids := (g.issuers b).map Thread.tid
    let t := ((((s'.dropAsks s'.sched.cur).retire b tids).commitAll b tids).commitTrace b tids 0 g.pc)
    let u := ds.foldl (fun t d => t.updThread b.uid d.1.tid fun x => x.enterRegion w.imm d.2) t
    let v := if b.save = some .cancel then tids.foldl (fun s t => s.cutShort b.uid t) u else u
    let z := if ds.any fun d => noMigrate d.2 then v.stay b.uid else v
    exec (.rgn w) s = .next (((z.regroup g.gid).drawAll g.core g.part).settleSave b.uid))
  ∧ (∀ (w : Imm) (s : State) (g : Group) (b b2 : Block), s.current = some (g, b) → s.glitchOf b (g.issuers b) 1 = none →
    let t := s.stepPcs b (g.issuers b) ((g.issuers b).map fun x => (x, {}))
    (t.dropGroup g.gid).block? b.uid = some b2 →
    exec (.reform w) s = .next (if g.runner.isSome then t.regroup g.gid
      else ((t.dropGroup g.gid).fileAll b.uid (b2.members g.tids)).drawAll g.core g.part))

/-- R408: in the handler of a group-mode trap, once no load is due in a register that the word names, `xget` reads a register of
another thread of the frozen group with its tag and poison, and `xput` writes one, or moves the place at which the thread
resumes. -/
def Obligations.OtherLanes : Prop :=
  (∀ (w : Plain) (s : State) (g : Group) (b : Block), s.current = some (g, b) →
    let f : Form := { guard := w.guard, regs := (w.view 0xEE).regs, srcs := [srcWord 1 w.b], values := reachViols s w }
    Unhindered s b [f] false 1 (actives w.guard g b) → Passes [f] (actives w.guard g b) →
    (∀ x ∈ actives w.guard g b, ∀ y, s.frozenOn (x.vreg w.b).val.toNat = some y → s.dueOther b.uid w x y w.d = false) →
    exec (.xget w) s = .next (s.wordDone g b (each (actives w.guard g b) fun x => match s.frozenOn (x.vreg w.b).val.toNat with
      | some y => match w.opx with
        | 0 => { v := [(w.d, y.vreg w.a)] }
        | 1 => Eff.vec w.d .u64 (BitVec.ofNat 64 (bit (y.pred w.a)))
        | 2 => { c := [(w.d, y.creg w.a)] }
        | _ => Eff.vec w.d .u64 (BitVec.ofNat 64 (match w.a with
          | 0 => y.cause
          | 1 => y.trappc
          | 2 => pc48 y.rgnpc
          | _ => y.aux))
      | none => {})))
  ∧ (∀ (w : Plain) (s : State) (g : Group) (b : Block), s.current = some (g, b) →
    let f : Form := { guard := w.guard, regs := (w.view 0xEF).regs, srcs := [srcWord 1 w.b], values := reachViols s w,
                      moved := if w.opx = 1 ∨ w.opx = 3 then [srcWord 2 w.c] else [] }
    Unhindered s b [f] false 1 (actives w.guard g b) → Passes [f] (actives w.guard g b) →
    (∀ x ∈ actives w.guard g b, ∀ y, s.frozenOn (x.vreg w.b).val.toNat = some y → s.dueOther b.uid w x y w.c = false) →
    let oks := each (actives w.guard g b) fun x => match s.frozenOn (x.vreg w.b).val.toNat with
      | some y => { acts := [putOther w x y g.pmask] }
      | none => {}
    RoomFor s g b oks → exec (.xput w) s = .next (s.wordDone g b oks))

/-! ### What the device does between words

When these moves are made, and with which arguments, is the agenda's and the outside world's choice (log entry 3): a statement
says what the move does, once it can be made. Where a clause follows a choice of the model, the log names it: peers and
translations 15, 65 and 67, pool ports 16 and 63, pages 40, 41 and 58, placement 54 and 55, saves 48 to 52 and 56, commands
59 to 61, queues and firmware 71 to 76 and 93, debug units 77 to 80, replay 35 and 36, power and boot 81 to 83, the aperture
84 to 86. -/

/-- R46, R79, R82, R115, R121, R125, R348: an access of a load that may be performed is, on its own, and the last one returns the
load; a returning atomic is performed with every lane of its word on its location, in ascending home lane and with nothing
between, unless record or replay orders them (R457); the next committed entry of a core is performed with those that go with it, or
another one that nothing orders behind an earlier entry; and a committed command enters its queues. -/
def Obligations.RequestsAndEntries : Prop :=
  (∀ (s : State) (r : Req), (s.reqs.find? fun r => r.id == s.sched.args.id) = some r → r.isAtom = false →
    s.pieceReady r s.sched.args.sub = true → exec .memoryResponse s = .next (s.respondPiece r s.sched.args.sub))
  ∧ (∀ (s : State) (r : Req), (s.reqs.find? fun r => r.id == s.sched.args.id) = some r → r.isAtom = true →
    s.atomReady r = true → (∀ q ∈ s.sameWord r, s.reqKey q = none) → s.reqKey r = none →
    exec .memoryResponse s = .next ((s.sameWord r).foldl (fun t q => t.respondAtom q) (s.lockReqs (s.sameWord r))))
  ∧ (∀ (s : State) (i : Item),
    (if s.sched.args.alt then s.outOfTurn s.sched.args.id s.sched.args.sub else s.nextItem s.sched.args.id) = some i →
    (∀ j ∈ s.itemsWith i, s.itemKey j = none) →
    let t := (s.itemsWith i).foldl State.performItem (s.lockItems (s.itemsWith i))
    exec .storeBufferPerform s = .next (if (s.itemsWith i).any Item.psn then t
      else t.mend i.core ((s.itemsWith i).flatMap fun j => j.eff.stores)))
  ∧ (∀ (s : State) (i : Item) (c : Cmd), s.nextCommand s.sched.args.id = some i → i.eff = .command c →
    exec .commandEnqueue s = .next ({ s with items := s.items.filter fun j => j.id != i.id }.enqueue c))

/-- R157, R158, R179, R247, R51: a triggered watch or the limit wakes a sleeper, an aged bin is drawn, a waiting trap finds a slot, and
a fault record goes into its ring, with an event of the context. -/
def Obligations.SleepersBinsAndRecords : Prop :=
  (∀ (s : State) (x : Thread), s.thread? s.sched.args.id s.sched.args.tid = some x → x.st = .asleep →
    (x.watch.any Watch.triggered = true ∨ s.sched.args.alt = true ∧ x.watch.any Watch.hasEntry = true) →
    exec .watchTrigger s = .next (s.wakeThread s.sched.args.id s.sched.args.tid))
  ∧ (∀ (s : State) (x : Thread), s.thread? s.sched.args.id s.sched.args.tid = some x → x.st = .asleep →
    s.sched.now ≥ x.sleptAt + (if x.watch.any Watch.hasEntry then 2 ^ 20 else 1024) →
    exec .mwaitTimeout s = .next (s.wakeThread s.sched.args.id s.sched.args.tid))
  ∧ (∀ (s : State) (b : Bin),
    (s.bins.find? fun b => b.core == s.sched.args.id && b.part == s.sched.args.tid && b.idx == s.sched.args.sub) = some b →
    s.sched.now ≥ b.first + s.binAge b.blk → s.heldBin b = false → exec .binAgedDraw s = .next (s.draw b))
  ∧ (∀ (s : State) (x : Thread) (t : PendTrap), s.thread? s.sched.args.id s.sched.args.tid = some x → x.st = .trapWait →
    x.pend = some t → let s1 := s.enterHandler s.sched.args.id s.sched.args.tid t
    (∀ y, s1.thread? s.sched.args.id s.sched.args.tid = some y → y.st ≠ .trapWait) → exec .trapDelivery s = .next s1)
  ∧ (∀ (s : State) (c : Ctx) (r : FaultRec), s.ctx? s.sched.args.id = some c →
    (s.faults.find? fun r => r.ctx == s.sched.args.id && !r.written) = some r →
    let d := s.link.ctxtb + 256 * s.sched.args.id
    let prod := s.mem.read (d + 64) 8
    let size := 2 ^ (c.frlog2 + 4)
    s.hbmHas d 256 = true → (prod + 2 ^ 64 - s.mem.read (d + 72) 8) % 2 ^ 64 < size →
    s.hbmHas (c.frbase + 32 * (prod % size)) 32 = true →
    let t := (s.devWrite (c.frbase + 32 * (prod % size)) r.bytes).devStore (d + 64) 8 ((prod + 1) % 2 ^ 64)
    exec .faultRecordWrite s = .next ({ t with faults := t.faults.map fun (q : FaultRec) =>
      if q.ctx = s.sched.args.id ∧ q.seq = r.seq then { q with written := true } else q }.postEvent 2 s.sched.args.id ((prod + 1) % 2 ^ 64)))

/-- R107, R144 to R155: a Copy Engine serves one unit of the head after the one it served last, whose bytes are credited at once, or
once a peer has acknowledged them; a command whose units are all served completes, with its notify word, which tells a failure in
bit 31. What a copy between ranges that overlap writes is a free value (`State.copied`; log entry 5). -/
def Obligations.CopyUnits : Prop :=
  (∀ (s t : State) (k : Nat) (c : Cmd) (b : Block) (rs : List Ready),
    (((List.range 16).map fun i => (lookupD 15 s.sched.args.id s.engines.rr + 1 + i) % 16).findSome? fun k =>
      (s.headOf s.sched.args.id k).map fun c => (k, c)) = some (k, c) →
    let u := { s with engines := { s.engines with rr := setAt s.sched.args.id k s.engines.rr } }.about c.id
    u.cmdBlock c = some b → c.kind ≠ .rack → c.units ≠ 0 →
    prepare (dieOf c.core) c b (c.rowOf (u.unitList c b)) (u.unitList c b) u = (t, .ready rs) →
    let n := min 128 (c.nominal - 128 * c.unit)
    let v := t.tick.landAll (t.copied b c rs)
    (v.sentSince t = [] → n ≠ 0 → exec .copyUnit s = .next (((v.creditCmd c n).updCmd c.id fun d =>
      { d with unit := d.unit + 1, failed := d.failed || rs.any Ready.failed, acks := [], owed := 0,
               credited := decide (d.unit + 1 ≥ d.units) }).servedCmd c))
    ∧ (∀ id ids, v.sentSince t = id :: ids → exec .copyUnit s = .next ((v.updCmd c.id fun d =>
      { d with unit := d.unit + 1, failed := d.failed || rs.any Ready.failed, acks := id :: ids, owed := n }).servedCmd c)))
  ∧ (∀ (s : State) (k : Nat) (c : Cmd) (b : Block),
    (((List.range 16).map fun i => (lookupD 15 s.sched.args.id s.engines.rr + 1 + i) % 16).findSome? fun k =>
      (s.headOf s.sched.args.id k).map fun c => (k, c)) = some (k, c) →
    let u := { s with engines := { s.engines with rr := setAt s.sched.args.id k s.engines.rr } }.about c.id
    u.cmdBlock c = some b → c.kind ≠ .rack → c.units = 0 →
    exec .copyUnit s = .next ((u.creditCmd c 0).updCmd c.id fun c => { c with credited := true }))
  ∧ (∀ (s : State) (k : Nat) (c : Cmd) (b : Block),
    (((List.range 16).map fun i => (lookupD 15 s.sched.args.id s.engines.rr + 1 + i) % 16).findSome? fun k =>
      (s.headOf s.sched.args.id k).map fun c => (k, c)) = some (k, c) →
    let u := { s with engines := { s.engines with rr := setAt s.sched.args.id k s.engines.rr } }.about c.id
    u.cmdBlock c = some b → c.kind = .rack → c.unit ≥ c.units →
    exec .copyUnit s = .next ((((if c.invalid then u else u.rackCount c).creditCmd c c.nominal).updCmd c.id fun c =>
      { c with credited := true })))
  ∧ (∀ (s : State) (c : Cmd), s.cmd? s.sched.args.id = some c → s.mayStart c = true → c.waits = [] → c.acks = [] → c.kind ≠ .ppass →
    (c.kind = .qfence ∨ c.credited = true ∧ (c.kind = .cpym → c.posted = true)) → s.cmdBlock c = none →
    exec .commandComplete s = .next (s.endCmd c false))
  ∧ (∀ (s t : State) (c : Cmd) (b : Block) (ps : List Piece), s.cmd? s.sched.args.id = some c → s.mayStart c = true →
    c.waits = [] → c.acks = [] → c.kind ≠ .ppass →
    (c.kind = .qfence ∨ c.credited = true ∧ (c.kind = .cpym → c.posted = true)) →
    s.cmdBlock c = some b → s.notifyCmd c b = (t, .ok ps) →
    let v := t.writePieces none ps (natToBytes 4 (if c.failed then c.value ||| 0x80000000 else c.value))
    (v.sentSince t = [] → exec .commandComplete s = .next ((v.endCmd c c.failed).servedCmd c))
    ∧ (∀ id ids, v.sentSince t = id :: ids → exec .commandComplete s = .next ((v.updCmd c.id fun c =>
      { c with acks := id :: ids, notified := true }).servedCmd c)))

/-- R160 to R169: a pass at the head of its queue, or of a `cpym` whose copy is done, joins the list of its block's reservation; the
Press of a quad grants one, which completes; and a marked reservation with no pass left is freed. -/
def Obligations.PressPasses : Prop :=
  (∀ (s t : State) (c : Cmd), (s.engines.cmds.find? fun c => c.core == s.sched.args.id && c.kind == .ppass && !c.posted) = some c →
    s.mayStart c = true → s.postPass c = some t →
    exec .passJoin s = .next (t.updCmd c.id fun c => { c with posted := true }))
  ∧ (∀ (s t : State) (c : Cmd), s.cmd? s.sched.args.id = some c → c.kind = .cpym → c.credited = true → c.posted = false →
    s.postPass c = some t → exec .cpymPassPost s = .next (t.updCmd c.id fun c => { c with posted := true }))
  ∧ (∀ (s : State) (r : Resv) (p : Pass) (ps : List Pass), bitAt s.rel.fencedPress s.sched.args.id = false →
    s.granting s.sched.args.id = some r → r.passes = p :: ps →
    let t := s.updResv r fun q => { q with passes := match ps with
      | q :: qs => { q with headAt := s.sched.now } :: qs
      | [] => [] }
    exec .pressGrant s = .next { t with engines := { t.engines with granted := t.engines.granted ++ [s.readPass p] } })
  ∧ (∀ (s : State) (p : Pass) (b : Block), (s.engines.granted.find? fun p => quadOf p.core == s.sched.args.id) = some p →
    s.diePowered (dieOf (4 * s.sched.args.id)) = true → s.block? p.blk = some b → s.sched.args.alt = false →
    exec .passComplete s = .next (s.endPass p b))
  ∧ (∀ (s : State) (p : Pass), (s.engines.granted.find? fun p => quadOf p.core == s.sched.args.id) = some p →
    s.diePowered (dieOf (4 * s.sched.args.id)) = true → s.block? p.blk = none → exec .passComplete s = .next (s.dropPass p))
  ∧ (∀ (s : State) (r : Resv) (m : Nat), (s.engines.resv.find? fun r => r.quad == s.sched.args.id && r.idx == s.sched.args.tid) = some r →
    r.marked = some m → r.passes = [] → s.posting r.owner m = false →
    (∀ p ∈ s.engines.granted, p.nores = false → ∀ b, s.block? p.blk = some b → b.holder ≠ r.owner) →
    exec .reservationFree s = .next { s with engines := { s.engines with
      resv := s.engines.resv.filter fun q => !(q.quad == s.sched.args.id && q.idx == s.sched.args.tid) } })

/-- R182 to R184, R187, R222 to R227: a slot takes the launch at its head or tells of its refusal; a launch whose dependences are met is
released; the first candidate that fits is placed; a candidate that waits beyond the limit has a place held for it or, where every
quad that could hold it is gated, firmware is told; and a cleared block starts, from its record where it was saved. The first block
of a launch on a core, and one that resumes there, meet no earlier L1 line of the context (R70). -/
def Obligations.LaunchingAndPlacement : Prop :=
  (∀ (s : State), let i := s.sched.args.id
    let q := s.queues.slots.getD i {}
    let a := q.ring + 256 * (q.head % 2 ^ q.log2n)
    q.bound = true → q.launch = none → q.head ≠ q.tail → s.hbmHas a 256 = true →
    let e := s.readRing a
    let l : Launch := { id := s.sched.nextId, ctx := q.ctx, slot := i, prio := q.prio, record := e.dwords, tags := e.tags }
    (s.refusal l = none → exec .slotHeadCheck s = .next (({ s.bump with launches := s.launches ++ [l] } : State).updSlot i fun q =>
      { q with launch := some s.sched.nextId }))
    ∧ (∀ reason v right, s.refusal l = some (reason, v, right) →
      exec .slotHeadCheck s = .next ((s.postEvent 10 q.ctx (q.queue + q.head * 2 ^ 16 + reason * 2 ^ 48 + v * 2 ^ 56)).slotMoves i)))
  ∧ (∀ (s : State) (l : Launch), s.launch? s.sched.args.id = some l → l.st = .waiting → (∀ c ∈ l.deps, s.met c = true) →
    exec .launchRelease s = .next (s.release l.id))
  ∧ (∀ (s : State) (b : Block) (l : Launch) (places : List (Nat × Nat × Nat)), s.nextPlaced = some (b, places) → s.launchOf b = some l →
    exec .blockPlace s = .next (places.foldl (fun s p => (s.firstOn l p.2.1).updBlock p.1 fun k => k.placed l p.2.1 p.2.2) s))
  ∧ (∀ (s : State) (b : Block) (c : Ctx) (n : Nat), s.block? s.sched.args.id = some b → s.ctx? b.ctx = some c → s.candidate b = true →
    s.sched.now - b.pendSince > 2 ^ c.placewait → s.placeFor b = none → b.holds = none → s.leaving b = false →
    ((s.couldHold b).isEmpty = true ∨ (s.couldHold b).all s.gatedQuad = false) →
    let free (n : Nat) : List Nat := (coresAt (decide (b.gangSize > 1)) n).filter fun k => s.usable b k
    let places := (List.range (if b.gangSize > 1 then 256 else 1024)).filter fun n => (s.gangOf b).length ≤ (free n).length
    (places.findSome? fun n => (s.moving b (coresAt (decide (b.gangSize > 1)) n)).map fun r => (n, r)) = none →
    leastBy (fun n => 2 ^ 40 - (free n).foldl (fun m k => m + s.freeRatio b.ctx k) 0)
      (places.filter fun n => (coresAt (decide (b.gangSize > 1)) n).all fun k => !(s.heldFrom b k)) = some n →
    exec .placementOverdue s = .next (s.hold b n))
  ∧ (∀ (s : State) (b : Block) (c : Ctx), s.block? s.sched.args.id = some b → s.ctx? b.ctx = some c → s.candidate b = true →
    s.sched.now - b.pendSince > 2 ^ c.placewait → s.placeFor b = none → b.holds = none → s.leaving b = false →
    (s.couldHold b).isEmpty = false → (s.couldHold b).all s.gatedQuad = true → b.overdue = false →
    exec .placementOverdue s = .next ((s.updBlock b.uid fun k => { k with overdue := true }).postEvent 9 b.ctx ((s.couldHold b).headD 0)))
  ∧ (∀ (s t : State) (b : Block) (l : Launch) (c : Ctx) (bs : List Byte), s.block? s.sched.args.id = some b → s.launchOf b = some l →
    s.ctx? b.ctx = some c → b.st = .clearing → b.landed = true → b.save = none → s.retake b = some t →
    t.readSlots c c.room b.slots = some bs →
    let ready (k : Block) : Block := { k.updThreads (fun x => { x with halted := k.halt.isSome && x.st != .exited }) with
      halt := k.halt.map fun h => (h.1, false), bphase := 0, gphase := 0, slots := [] }
    let u := (b.slots.foldl (fun (s : State) slot => s.pushSlot c slot) (t.tick.updBlock b.uid fun k =>
      ready (if b.slots.isEmpty then k else k.restored bs l.slots t.sched.fresh))).carry b
    let v := if b.slots.isEmpty then u else u.dropL1 b.core [1, 2] (some b.ctx)
    v.saveAtStart b = none → exec .blockClearingDone s = .next (v.startBlock b.uid))

/-- R138, R149, R184, R215 to R217, R233, R250, R390, R405: a block that has ended gives up what it holds of its core, and once its
commands are all complete finishes, with its exit record where it has one, unless a fault of it was answered with FAIL; a saved
gang whose conditions are all met is pending again; a save whose threads are all held is written; a pinned thread that holds a
save up beyond the limit stops the context (NESTED 0 in its record is the model's choice, log entry 120); and a PREEMPT completes with
the number of blocks saved. -/
def Obligations.EndsAndSaves : Prop :=
  (∀ (s : State) (b : Block) (l : Launch), s.block? s.sched.args.id = some b → s.launchOf b = some l → s.mayFinish b = true →
    b.exitWait = [] → s.commandsEnded b = true → b.recSent = [] → l.exitrec.tag = false →
    exec .blockFinish s = .next (s.finishBlock b))
  ∧ (∀ (s : State) (b : Block) (l : Launch), s.block? s.sched.args.id = some b → s.launchOf b = some l → s.mayFinish b = true →
    b.exitWait = [] → s.commandsEnded b = false → b.vacated = false → b.st = .resident →
    let t := { s with bins := s.bins.filter fun k => k.blk != b.uid, groups := s.groups.filter fun g => g.blk != b.uid }.dropClaims b.uid
    exec .blockFinish s = .next ((t.updBlock b.uid fun k => { k with scr := [], scrPoison := [], vacated := true }).drawCore b.core))
  ∧ (∀ (s : State) (b : Block) (l : Launch), s.block? s.sched.args.id = some b → s.launchOf b = some l → s.mayFinish b = true →
    b.exitWait = [] → s.commandsEnded b = true → b.recSent = [] → l.exitrec.tag = true → b.lost ≠ [] →
    exec .blockFinish s = .next ((s.postEvent 11 b.ctx
      (b.blk % 2 ^ 32 + cFatal * 2 ^ 32 + 3 * 2 ^ 40 + bits (l.dword 2) 0 12 * 2 ^ 48)).finishBlock b))
  ∧ (∀ (s t : State) (b : Block) (l : Launch) (ps : List Piece), s.block? s.sched.args.id = some b → s.launchOf b = some l →
    s.mayFinish b = true → b.exitWait = [] → s.commandsEnded b = true → b.recSent = [] → b.lost = [] → l.exitrec.tag = true →
    s.access b l.exitrec (l.exitrec.cursor + 256 * b.blk : Nat) 256 1 opStore = (t, .ok ps) →
    let u := t.writePieces none ps (b.exitRecord l.paged (!b.threads.isEmpty))
    (u.sentSince t = [] → exec .blockFinish s = .next (u.finishBlock b))
    ∧ (∀ id ids, u.sentSince t = id :: ids → exec .blockFinish s = .next
      ((if b.st = .resident then u.vacate b else u).updBlock b.uid fun b => { b with recSent := id :: ids })))
  ∧ (∀ (s : State) (b : Block) (l : Launch), s.block? s.sched.args.id = some b → s.launchOf b = some l → s.mayFinish b = true →
    b.exitWait = [] → s.commandsEnded b = true → b.recSent ≠ [] → b.recSent.any s.awaited = false →
    exec .blockFinish s = .next (s.finishBlock b))
  ∧ (∀ (s : State) (b : Block), s.block? s.sched.args.id = some b → b.st = .saved →
    let bs := (s.gangOf b).filter fun k => k.st == .saved
    (∀ k ∈ bs, k.save = none) → (∃ k ∈ bs, k.waits ≠ []) → (∀ k ∈ bs, ∀ c ∈ k.waits, s.met c = true) →
    exec .waitConditionMet s = .next (bs.foldl (fun s k => (s.updBlock k.uid fun k => { k with waits := [] }).toPending k.uid) s))
  ∧ (∀ (s t u v : State) (b : Block) (c : Ctx) (why : SaveFor) (sets : SaveSets) (slots : List Nat),
    s.block? s.sched.args.id = some b → b.save = some why → s.ctx? b.ctx = some c → why.keeps = true → b.st = .resident →
    b.held = true → b.ended = false → b.exitWait = [] → (∀ k ∈ s.gangOf b, s.quiet k = true) → s.savedSets b b.threads = (t, sets) →
    sets.noMem = none → sets.faults = [] → sets.waiting = false → sets.running = [] →
    let record := (t.blockRecord b why sets.sets).1
    t.popSlots c ((record.length + c.room - 1) / c.room) = some (u, slots) → u.writeSlots c c.room slots record = some v →
    exec .blockSave s = .next ((((v.dropClaims b.uid).updBlock b.uid fun b => b.afterSave why slots (s.rrMode b.ctx != 0)).updCtx b.ctx fun c =>
      { c with saved := c.saved + 1 }).gangSaved b.uid))
  ∧ (∀ (s : State) (b : Block) (c : Ctx) (p q : Block × Thread), s.block? s.sched.args.id = some b → s.ctx? b.ctx = some c →
    p ∈ s.waitedOut c → p.1.uid = b.uid → q ∈ s.waitedOut c → (∀ r ∈ s.waitedOut c, r = q ∨ stopsBefore q r = true) →
    exec .pinnedWaitLimit s = .next (s.stopContext b.ctx
      { cause := 0x10, core := q.1.core, tid := q.2.tid, pc := pc48 q.2.pc, blk := q.1.blk }))
  ∧ (∀ (s : State) (c : Ctx) (i : Nat) (is : List Nat), s.ctx? s.sched.args.id = some c → c.preempts = i :: is →
    (∀ b ∈ s.blocks, b.ctx = c.n → b.st ≠ .clearing ∧ (b.st = .resident → b.ended = true ∧ s.quiet b = true)) →
    let t := s.updCtx c.n fun c => { c with preempts := is, saved := 0 }
    t.cplRoom i → exec .preemptComplete s = .next (t.cmdDone i 5 0 c.saved))

/-- R36, R85 to R96, R224: a list entry is read once; a page is sensed while a page buffer of its channel is free, transferred, corrected, buffered and delivered to the scratch of each block that waits for it; a
failed correction is tried at the next level up to eight times; a program fails on a page that is not erased, and an erasure clears
every page of its block. -/
def Obligations.CellarPages : Prop :=
  (∀ (s t : State) (l : Launch) (bs : List Byte) (psn : List Bool), s.launch? s.sched.args.id = some l → l.st = .released → l.paged = true →
    l.cancelled = false → s.slotsUsed < 4096 → s.sched.args.ok = false → l.nextEntry < l.nblk → s.slotGoes l = true →
    s.agentRead (s.sched.args.sub % 8) l.ctx l.list.obj (l.list.cursor + 4 * l.nextEntry) 4 opLoad = (t, .ok bs psn) →
    (l.cellar.check ((bytesToNat bs * 16384 : Nat) : Int) 16384 [30]).isSome = true →
    exec .pageReadStart s = .next ((t.notePage l.id l.nextEntry (bytesToNat bs)).invalidEntry l.id l.nextEntry (bytesToNat bs)))
  ∧ (∀ (s t u : State) (l : Launch) (b : Block) (bs : List Byte) (psn : List Bool) (e : List Nat) (m : Nat),
    s.launch? s.sched.args.id = some l → l.st = .released → l.paged = true → l.cancelled = false → s.slotsUsed < 4096 → s.sched.args.ok = false → s.sched.args.alt = false →
    l.nextEntry < l.nblk → s.slotGoes l = true →
    s.agentRead (s.sched.args.sub % 8) l.ctx l.list.obj (l.list.cursor + 4 * l.nextEntry) 4 opLoad = (t, .ok bs psn) →
    let p := bytesToNat bs
    l.cellar.check ((p * 16384 : Nat) : Int) 16384 [30] = none →
    walk (t.notePage l.id l.nextEntry p) none (s.sched.args.sub % 8) l.ctx l.cellar.obj (p * 16384) 16384 opCopySrc = (u, .cellar e m) →
    bitAt m 0 = true → u.badMapEntry m = false → u.entryBlock l.id l.nextEntry = some b →
    exec .pageReadStart s = .next ((u.updLaunch l.id fun k => k.taken l.nextEntry).startRead (bits m 8 30) (bits m 38 3) fun r =>
      { r with users := [b.uid] }).1)
  ∧ (∀ (s : State) (l : Launch) (b : Block), let i := s.sched.args.tid
    s.launch? s.sched.args.id = some l → l.st = .released → l.paged = true → l.cancelled = false → s.slotsUsed < 4096 →
    s.slotGoes l = true → s.sched.args.ok = true → (l.held.filter fun h => h.1 == i) = [(i, 0)] → l.read.contains i = true →
    s.entryBlock l.id i = some b →
    exec .pageReadStart s = s.mapEntry l i b.pgno (s.sched.args.sub % 8) s.sched.args.alt)
  ∧ (∀ (s : State) (r : PageRead), s.read? s.sched.args.id = some r →
    let free := r.stage = .queued ∧ s.dieReady r = true ∧ (s.inStage (pageChannel r.page) fun t => t == .buffered).length < 8
    (s.sched.args.alt = true → free → exec .senseDone s = .next (s.updRead r.id fun r => { r with stage := .sensing }))
    ∧ (s.sched.args.alt = false → r.stage = .sensing ∨ free →
      exec .senseDone s = .next (s.updRead r.id fun r => { r with stage := .sensed, stamp := s.sched.now })))
  ∧ (∀ (s : State) (r : PageRead), s.read? s.sched.args.id = some r → r.stage = .sensed →
    (∀ q ∈ s.inStage (pageChannel r.page) fun t => t == .sensed, r.stamp ≤ q.stamp ∧ (q.stamp = r.stamp → pageDie r.page ≤ pageDie q.page)) →
    (s.inStage (pageChannel r.page) fun t => t == .transferred || t == .corrected).length < 4 →
    exec .transferDone s = .next (s.updRead r.id fun r => { r with stage := .transferred }))
  ∧ (∀ (s : State) (r : PageRead) (c : CellarPage), s.read? s.sched.args.id = some r → r.stage = .transferred →
    s.cellarPage r.page = some c → ¬(s.sched.args.ok = true ∧ c.readable = true) → r.tried < 8 →
    exec .correctionDone s = .next (s.updRead r.id fun r => { r with level := (r.level + 1) % 8, tried := r.tried + 1, stage := .queued }))
  ∧ (∀ (s : State) (r : PageRead) (c : CellarPage), s.read? s.sched.args.id = some r → r.stage = .transferred →
    s.cellarPage r.page = some c → s.sched.args.ok = true → c.readable = true → r.pgread = none →
    let code := if r.tried = 1 then 0 else 1
    let t := s.pageOutcome r code c.data
    let room := (s.inStage (pageChannel r.page) fun t => t == .buffered).length < 8
    exec .correctionDone s = .next (if r.users.isEmpty then t.dropRead r.id
      else t.updRead r.id fun r => { r with stage := if room then .buffered else .corrected, code := code, data := c.data, cmds := [], pgread := none }))
  ∧ (∀ (s : State) (r : PageRead), s.read? s.sched.args.id = some r → r.stage = .corrected →
    (s.inStage (pageChannel r.page) fun t => t == .buffered).length < 8 →
    exec .pageBufferEnter s = .next (s.updRead r.id fun r => { r with stage := .buffered }))
  ∧ (∀ (s : State) (r : PageRead) (b : Block), s.read? s.sched.args.id = some r → s.block? s.sched.args.tid = some b → r.stage = .buffered →
    r.users.contains b.uid = true → b.st = .clearing → b.landed = false →
    let t := s.updBlock b.uid fun b => { b with scr := setCells 0 (pageBytes r.data) b.scr, landed := true }
    exec .pageDelivery s = .next (if (r.users.filter fun u => u != b.uid).isEmpty then t.dropRead r.id
      else t.updRead r.id fun q => { q with users := r.users.filter fun u => u != b.uid }))
  ∧ (∀ (s : State) (f : FlashOp), (s.cellar.ops.find? fun f => f.id == s.sched.args.id) = some f → s.opReady f = true →
    let t := { s with cellar := { s.cellar with ops := s.cellar.ops.filter fun g => g.id != f.id } }
    (f.program = true → s.hbmHas f.source 16384 = true →
      let failed := s.sched.args.alt || (s.cellarPage f.target).isSome
      let data := if failed then [] else setCells 0 (s.mem.bytes f.source 16384) []
      let u := t.setPage f.target (some { page := f.target, readable := !failed, data := data })
      u.cplRoom f.cmd → exec .pgmEraseComplete s = .next (u.cmdDone f.cmd 0x09 (if failed then 3 else 0) 0))
    ∧ (f.program = false → s.sched.args.alt = false →
      let u := { t with cellar := { t.cellar with pages := t.cellar.pages.filter fun p => eraseBlock p.page != f.target } }
      u.cplRoom f.cmd → exec .pgmEraseComplete s = .next (u.cmdDone f.cmd 0x0A 0 0)))

/-- R427 to R431, R435, R18, R51, R53, R95, R96, R250: each command of the ring, with its words within their limits, has its effect
and completes with status 0, or is under way; CTXLOAD completes BUSY while a block of the context is resident or saved. -/
def Obligations.HostCommands : Prop :=
  (∀ (s : State) (cmd : Command), commandWithin cmd 1 1 1 1 = true →
    (∀ b ∈ s.blocks, b.ctx = cmd.ctx → b.st ≠ .resident ∧ b.st ≠ .saved ∧ b.slots = []) → s.hbmHas (s.link.ctxtb + 256 * cmd.ctx) 256 = true →
    let d := (List.range 32).map fun i => s.mem.read (s.link.ctxtb + 256 * cmd.ctx + 8 * i) 8
    badContext d = false →
    let c := loadContext cmd.ctx d (s.mem.tagAt (s.link.ctxtb + 256 * cmd.ctx + 32)) (s.ctx? cmd.ctx)
    let t := { s with ctxs := (s.ctxs.filter fun (k : Ctx) => k.n != cmd.ctx) ++ [c] }
    t.cplRoom s.cmdIdx → exec (.ctxload cmd) s = .next (t.cmdDone s.cmdIdx 0x01 0 0))
  ∧ (∀ (s : State) (cmd : Command) (b : Block), commandWithin cmd 1 1 1 1 = true → b ∈ s.blocks → b.ctx = cmd.ctx →
    (b.st = .resident ∨ b.st = .saved) → s.cplRoom s.cmdIdx → exec (.ctxload cmd) s = .next (s.cmdDone s.cmdIdx 0x01 4 0))
  ∧ (∀ (s : State) (cmd : Command) (c : Ctx), s.ctx? cmd.ctx = some c → commandWithin cmd (2 ^ 32) (2 ^ 52) 1 1 = true → cmd.w1 ≠ 0 →
    cmd.w2 % 16 = 0 → s.hbmHas cmd.w2 16 = true → cmd.w1 < c.otn → s.hbmHas (c.otb + 32 * cmd.w1) 32 = true →
    let e := Sys2Proof.Machine.readEntry s.mem (c.otb + 32 * cmd.w1)
    entryInvalid e = false →
    let root := rootCap cmd.w1 (entryRights e) (entryLen e)
    let t := s.writePiece none (devPiece cmd.w2 16) (natToBytes 16 root.nat) root.tag
    t.cplRoom s.cmdIdx → exec (.objcreate cmd) s = .next (t.cmdDone s.cmdIdx 0x02 0 0))
  ∧ (∀ (s : State) (cmd : Command) (c : Ctx), s.ctx? cmd.ctx = some c → commandWithin cmd (2 ^ 32) (2 ^ 32) (2 ^ 32) 2 = true →
    exec (.objinv cmd) s = .next (s.invalidate { id := s.sched.nextId, cmd := s.cmdIdx, ctx := cmd.ctx, obj := cmd.w1, first := cmd.w2,
                                                 count := cmd.w3, flush := cmd.w4 == 1 }))
  ∧ (∀ (s : State) (v : ObjInv), (s.invs.find? fun v => v.id == s.sched.args.id) = some v → s.invalidated v = true →
    let lines := if v.flush then distinct (v.lines ++ s.linesNamed v) else []
    let u := ({ s with invs := s.invs.filter fun w => w.id != v.id }.flushLines lines).dropNamed v
    let t := (if v.flush then u.dropWalked v else u).regained v
    (v.ats = true → exec .objinvComplete s = .next { t with link := { t.link with atsDone := t.link.atsDone ++ [v.cmd] } })
    ∧ (v.ats = false → t.cplRoom v.cmd → exec .objinvComplete s = .next (t.cmdDone v.cmd 0x03 0 0)))
  ∧ (∀ (s : State) (cmd : Command) (r : FaultRec), commandWithin cmd (2 ^ 32) 2 1 1 = true →
    (s.faults.find? fun r => r.ctx == cmd.ctx && r.seq == cmd.w1 && r.written) = some r →
    let fail := cmd.w2 == 1
    let t := s.answerGroups r.ctx r.seq r.obj fail
    let u := r.remote.foldl (fun s q =>
      s.send { peer := q.1, obj := q.2.1, off := q.2.2.1, len := q.2.2.2, op := if fail then 12 else 11, data := 0 })
      (({ t with
        faults := t.faults.filter fun q => !(q.ctx == r.ctx && q.seq == r.seq)
        engines := { t.engines with cmds := t.engines.cmds.map fun (c : Cmd) => c.answered r fail }
        blocks := t.blocks.map fun (b : Block) => b.answered r fail } : State).answerEntries r fail)
    u.cplRoom s.cmdIdx → exec (.faultans cmd) s = .next (u.cmdDone s.cmdIdx 0x04 0 0))
  ∧ (∀ (s : State) (cmd : Command) (c : Ctx), commandWithin cmd 1 1 1 1 = true → s.ctx? cmd.ctx = some c →
    let t := s.updCtx cmd.ctx fun c =>
      { c with preempted := true, preempts := c.preempts ++ [s.cmdIdx], saved := if c.preempts.isEmpty then 0 else c.saved }
    exec (.preempt cmd) s = .next ((t.blocks.filter fun b => b.ctx == cmd.ctx && b.st == .resident).foldl (fun s b => s.beginSave b.uid .preempt) t))
  ∧ (∀ (s : State) (cmd : Command) (c : Ctx), commandWithin cmd 1 1 1 1 = true → s.ctx? cmd.ctx = some c →
    let t := s.updCtx cmd.ctx fun c => { c with preempted := false }
    let bs := t.blocks.filter fun b => b.ctx == cmd.ctx && b.st == .saved && b.save == some .preempt
      && (t.gangOf b).all fun k => k.st == .saved || k.ended
    let u := bs.foldl (fun s b => s.toPending b.uid) { t with blocks := t.blocks.map fun (b : Block) =>
      if b.ctx = cmd.ctx ∧ b.st = BState.pending then { b with pendSince := s.sched.now } else b }
    u.cplRoom s.cmdIdx → exec (.resume cmd) s = .next (u.cmdDone s.cmdIdx 0x06 0 bs.length))
  ∧ (∀ (s : State) (cmd : Command), s.fw.running = true → commandWithin cmd 64 4096 8 1 = true →
    (s.queues.slots.getD cmd.w1 {}).bound = false →
    s.hbmHas (s.qcbAt cmd.w2) 64 = true → (s.boundSlot cmd.w2 cmd.w3).log2n ≥ 4 →
    let t := (s.updSlot cmd.w1 fun _ => s.boundSlot cmd.w2 cmd.w3).setMap cmd.w2 cmd.w1
    t.cplRoom s.cmdIdx → exec (.slotbind cmd) s = .next (t.cmdDone s.cmdIdx 0x07 0 0))
  ∧ (∀ (s : State) (cmd : Command), commandWithin cmd 64 1 1 1 = true →
    let q := s.queues.slots.getD cmd.w1 {}
    let t := if q.bound then s.unbindSlot cmd.w1 else s
    t.cplRoom s.cmdIdx → exec (.slotunbind cmd) s = .next (t.cmdDone s.cmdIdx 0x08 0 q.head))
  ∧ (∀ (s : State) (cmd : Command), commandWithin cmd (2 ^ 30) (2 ^ 52) 1 1 = true → cmd.w2 % 65536 = 0 → s.hbmHas cmd.w2 16384 = true →
    bitAt s.presence.channels (cmd.w1 % 64) = true → exec (.pgm cmd) s = .next (s.startFlash true cmd.w1 cmd.w2))
  ∧ (∀ (s : State) (cmd : Command), commandWithin cmd 64 (2 ^ 16) 1 1 = true → bitAt s.presence.channels cmd.w1 = true →
    exec (.erase cmd) s = .next (s.startFlash false (cmd.w1 + 64 * cmd.w2) 0))
  ∧ (∀ (s : State) (cmd : Command), commandWithin cmd (2 ^ 30) (2 ^ 52) 1 1 = true → cmd.w2 % 16384 = 0 → s.hbmHas cmd.w2 16384 = true →
    bitAt s.presence.channels (cmd.w1 % 64) = true →
    exec (.pgread cmd) s = .next (s.startRead cmd.w1 0 fun r => { r with pgread := some (s.cmdIdx, cmd.w2) }).1)
  ∧ (∀ (s : State) (cmd : Command) (c : Ctx), commandWithin cmd 4096 (2 ^ 32) (2 ^ 48) 1 = true → cmd.w3 % 128 = 0 → s.ctx? cmd.ctx = some c →
    let stage := ((s.link.feeds.find? fun f => f.page == cmd.w1).map Feed.stage).getD []
    let f : Feed := { page := cmd.w1, ctx := cmd.ctx, obj := cmd.w2, off := cmd.w3, stage := stage }
    let t := { s with link := { s.link with feeds := (s.link.feeds.filter fun (f : Feed) => f.page != cmd.w1) ++ [f] } }
    t.cplRoom s.cmdIdx → exec (.feedmap cmd) s = .next (t.cmdDone s.cmdIdx 0x0B 0 0))

/-- R427, R428: a command whose words exceed their limits, or have a reserved bit set, completes with status 1 and does nothing
else; SLOTBIND does so once the firmware core runs (R471). -/
def Obligations.MalformedCommands : Prop :=
  ∀ (s : State) (cmd : Command) (op : Nat) (i : Instr) (b1 b2 b3 b4 : Nat),
    (op, i, b1, b2, b3, b4) ∈ [(0x01, .ctxload cmd, 1, 1, 1, 1), (0x03, .objinv cmd, 2 ^ 32, 2 ^ 32, 2 ^ 32, 2), (0x04, .faultans cmd, 2 ^ 32, 2, 1, 1),
      (0x05, .preempt cmd, 1, 1, 1, 1), (0x06, .resume cmd, 1, 1, 1, 1), (0x07, .slotbind cmd, 64, 4096, 8, 1), (0x08, .slotunbind cmd, 64, 1, 1, 1),
      (0x09, .pgm cmd, 2 ^ 30, 2 ^ 52, 1, 1), (0x0A, .erase cmd, 64, 2 ^ 16, 1, 1), (0x0B, .feedmap cmd, 4096, 2 ^ 32, 2 ^ 48, 1), (0x0C, .pgread cmd, 2 ^ 30, 2 ^ 52, 1, 1)] →
    commandWithin cmd b1 b2 b3 b4 = false → (op = 0x07 → s.fw.running = true) → s.cplRoom s.cmdIdx →
    exec i s = .next (s.cmdDone s.cmdIdx op 1 0)

/-- R49, R50, R53, R75, R77, R99, R101 to R107: translations and their invalidation, snoops of the host and back-invalidations
of a pool, the states of a pool port, a SWIRIL link that goes down, and the requests, answers and acknowledgements of peers. STORE 9
and PADDR 0 in the record of a replica are the model's choice (log entry 123), as is the form of a peer's messages (log entry 65). -/
def Obligations.LinksAndPeers : Prop :=
  (∀ (s : State), bitAt (s.replica s.sched.args.id s.sched.args.tid) 0 = true →
    let k := s.sched.args.id
    let row := (s.caches.replicas.getD k []).set s.sched.args.tid (clearBit (s.replica k s.sched.args.tid) 0)
    let t := { s with caches := { s.caches with replicas := s.caches.replicas.set k row } }
    exec .replicaLockTimeout s = .next ((t.errorRecord 7 9 s.sched.args.tid 0 0 0 0).postEvent 5 0 (k % 64 + s.sched.args.tid % 8 * 2 ^ 8)))
  ∧ (∀ (s : State) (q : Ask), let a := s.sched.args
    (s.caches.asks.find? fun q => q.id == a.id && q.peer.isNone && q.state == 0) = some q →
    let desc := a.data % 2 ^ 64 / 4096 * 4096 + a.value % 4
    let op := AccOp.ofCode q.op
    (a.sub = 0 → hostGrants op desc = true → exec .atsCompletion s = .next
      (({ s with caches := { s.caches with asks := s.caches.asks.filter fun k => k.id != a.id } } : State).enterExtent q.units q.ctx q.obj
        q.off q.entry desc))
    ∧ ((a.sub ≠ 0 ∨ hostGrants op desc = false) → exec .atsCompletion s = .next
      { s with caches := { s.caches with asks := s.caches.asks.map fun (k : Ask) =>
        if k.id = a.id then { k with state := if a.sub > 1 then 3
          else if a.sub = 0 ∧ desc % 4 ≠ 0 ∧ (op.write = true → bitAt desc 1 = true) then 6 else 2 } else k } }))
  ∧ (∀ (s : State), let a := s.sched.args
    exec .atsInvalidate s = .next (s.invalidate { id := s.sched.nextId, cmd := a.value, ctx := 0, obj := 0, first := 0, count := 0,
                                                  flush := false, ats := true, pages := s.hostPages a.id (a.data % 2 ^ 64) a.len }))
  ∧ (∀ (s : State), 128 * s.sched.args.data ≥ hostKey 0 → exec .hostSnoop s = .next (s.snoop s.sched.args.data s.sched.args.ok))
  ∧ (∀ (s : State) (p : Nat), poolPort (128 * s.sched.args.data / 65536) = some p → (s.ports.getD p {}).up = true →
    exec .bisnp s = .next (s.snoop s.sched.args.data s.sched.args.ok))
  ∧ (∀ (s : State) (p : Port), s.port? s.sched.args.id = some p → p.lost = false →
    (p.salvbase = 0 ∨ s.hbmHas p.salvbase p.salvlen = true) → s.ports.getD s.sched.args.id {} = p →
    (p.left = true → p.leftAt + p.recLimit < s.sched.now → exec .poolRecoveryTimeout s = .next (s.losePort s.sched.args.id))
    ∧ (p.up = true → exec .poolViralSignal s = .next (s.losePort s.sched.args.id))
    ∧ ((∃ r ∈ s.reqs, r.pieces.any (Gone.port s.sched.args.id).holds = true ∧ r.gateSince + p.cplLimit < s.sched.now) →
      exec .poolCompletionTimeout s = .next (s.losePort s.sched.args.id))
    ∧ ((∃ i ∈ s.items, i.committed ≠ none ∧ i.eff.pieces.any (Gone.port s.sched.args.id).holds = true ∧ i.gateSince + p.cplLimit < s.sched.now) →
      exec .poolCompletionTimeout s = .next (s.losePort s.sched.args.id)))
  ∧ (∀ (s : State) (p : Port), s.port? s.sched.args.id = some p →
    (p.up = false → bitAt s.presence.ports s.sched.args.id = true →
      let limit (n old : Nat) : Nat := if n = 0 ∨ 64 < n then old else 1050000 * n
      exec .poolLinkUp s = .next (s.updPort s.sched.args.id fun p =>
        { p with up := true, left := false, recLimit := limit s.sched.args.len p.recLimit, cplLimit := limit s.sched.args.sub p.cplLimit }))
    ∧ (p.up = true → exec .poolLinkExitL0 s = .next (s.updPort s.sched.args.id fun p =>
      { p with up := false, left := true, leftAt := s.sched.now }))
    ∧ exec .portstatWrite s = .next (s.updPort s.sched.args.id fun p =>
      { p with lost := p.lost && !(bitAt s.sched.args.value 1 && p.up), salvfull := p.salvfull && !(bitAt s.sched.args.value 2),
               lostlines := if bits s.sched.args.value 16 32 = 0 then 0 else p.lostlines }))
  ∧ (∀ (s : State), bitAt s.linksUp s.sched.args.id = true →
    exec .swirilLinkDown s = .next ({ s with linksUp := clearBit s.linksUp s.sched.args.id }.afterLinks s))
  ∧ (∀ (s t : State) (ps : List Piece), let a := s.sched.args
    peerForm a.sub a.value a.len = true → a.sub ≠ 4 →
    translate s none 0 (a.id % 65536) a.tid a.value a.len (peerOp a.sub a.data) = (t, .ok ps) →
    (a.sub = 0 ∨ ∀ p ∈ ps, t.lockedOut 0 p = false ∧ t.cutOff p = false) →
    let r := (if a.sub = 1 ∧ a.alt = true then t.lend (a.id / 65536) a.tid ps else t).serve a.sub a.data a.len ps
    exec .peerRequest s = .next ((r.1.dropAsks (r.1.asker none)).send
      { peer := a.id / 65536, obj := a.tid, off := a.value, len := a.len, op := if r.2.2 then 5 else 4, data := r.2.1 }))
  ∧ (∀ (s : State), let a := s.sched.args
    let place := peerPlace a.tid a.value
    peerForm a.sub a.value a.len = true → a.sub = 4 →
    exec .peerRequest s = .next ((s.dropPeerLines (a.id / 65536) place a.len).trigger none (watchAt (some (a.id / 65536)) place) a.len))
  ∧ (∀ (s t : State) (aux : Nat), let a := s.sched.args
    peerForm a.sub a.value a.len = true → a.sub ≠ 4 →
    translate s none 0 (a.id % 65536) a.tid a.value a.len (peerOp a.sub a.data) = (t, .trap cPermission aux) →
    exec .peerRequest s = .next ((t.dropAsks (t.asker none)).send
      { peer := a.id / 65536, obj := a.tid, off := a.value, len := a.len, op := 6, data := aux % 2 ^ 16 }))
  ∧ (∀ (s : State) (q : Ask), s.sched.args.ok = true → q ∈ s.caches.asks → q.id = s.sched.args.id → q.peer.isSome = true → q.state = 0 →
    1 ≤ s.sched.args.sub → s.sched.args.sub ≤ 4 → let a := s.sched.args
    exec .peerResponse s = .next { s with caches := { s.caches with asks := s.caches.asks.map fun q =>
      if q.id = a.id then { q with state := if a.sub = 3 then 5 else a.sub, sub := a.value % 2 ^ 16, data := a.data, psn := a.alt } else q } })
  ∧ (∀ (s : State) (r : Req) (p : Piece) (peer : Nat), s.sched.args.ok = false → (s.reqs.find? fun r => r.id == s.sched.args.id) = some r →
    r.isAtom = false → r.due s.sched.args.sub = some p → p.peer = some peer → s.respondable r = true →
    exec .peerResponse s = .next (s.peerRead r s.sched.args.sub p peer s.sched.args.data s.sched.args.alt))
  ∧ (∀ (s : State) (r : Req), s.sched.args.ok = false → (s.reqs.find? fun r => r.id == s.sched.args.id) = some r → r.isAtom = true →
    s.wordReady r = true → (∀ p ∈ r.pieces, p.peer.isSome = true) → s.reqKey r = none →
    exec .peerResponse s = .next (State.runWord (s.peerLanes r s.sched.args.data s.sched.args.alt) (s.lockReqs (s.sameWord r))))
  ∧ (∀ (s : State) (m : PeerMsg), let a := s.sched.args
    a.ok = false → a.id ≠ 0 → (∀ r ∈ s.reqs, r.id ≠ a.id) →
    (s.caches.peerOut.find? fun m => m.id == a.id && m.op != 0 && m.op != 9) = some m →
    (m.fill = none → exec .peerResponse s = .next (s.acknowledged m))
    ∧ (∀ die, m.fill = some die → exec .peerResponse s =
      .next (let t := s.fillPeer die m.peer { addr := peerPlace m.obj m.off, len := m.len, peer := some m.peer, cached := true } a.data a.alt
        { t with caches := { t.caches with peerOut := t.caches.peerOut.map fun (q : PeerMsg) => if q.id = m.id then { q with id := 0 } else q } })))

/-- R185 to R192, R383, R426, R431 to R438: kicks and the catcher, PENDING, the residency table, feeds, ageing, events and the watchdog of
the firmware core, and the counters of errors. -/
def Obligations.QueuesAndFirmware : Prop :=
  (∀ (s : State), s.sched.args.id < 4096 → s.link.gated = false → s.hbmHas (s.qcbAt s.sched.args.id + 12) 4 = true →
    exec .notifyKick s = .next ((s.devStore (s.qcbAt s.sched.args.id + 12) 4 (s.sched.args.value % 2 ^ 32)).noticeKick s.sched.args.id))
  ∧ (∀ (s : State), s.sched.args.id < 4096 →
    exec .catcherKick s = .next { s with link := { s.link.catchKick s.sched.args.id (s.sched.args.value % 2 ^ 64) with gated := true } })
  ∧ (∀ (s t : State), s.link.gated = true → kickAll s.link.catcher { s with link := { s.link with gated := false, catcher := [] } } = .next t →
    exec .catcherReplay s = .next (if s.link.ovf then (List.range 4096).foldl State.noticeKick t else t))
  ∧ (∀ (s : State), s.sched.args.id < 64 → exec .pendingWrite s = .next { s with queues := { s.queues with
      pending := s.queues.pending.filter fun q => !(q / 64 == s.sched.args.id && bitAt s.sched.args.value (q % 64)) } })
  ∧ (∀ (s : State), exec .catchstatWrite s = .next { s with link := { s.link with ovf := s.link.ovf && !(bitAt s.sched.args.value 0) } })
  ∧ (∀ (s : State), s.fw.running = true →
    let v := (List.range 64).foldl (fun s j => if s.idleSlot j then s.evictSlot j else s) s
    let w := (v.queues.pending.filter fun q => decide (v.mapped q ≥ 64) && v.hbmHas (v.qcbAt q) 64).foldl (fun s q =>
      s.setEff q (if s.qcbEff q < 7 then s.qcbEff q + 1 else 7)) v
    exec .ageingInterval s = .next ((List.range 64).foldl (fun s _ => s.swapSlot) ((List.range 64).foldl State.fillSlot w)).ageSlots)
  ∧ (∀ (s : State) (kind ctx arg : Nat) (rest : List (Nat × Nat × Nat)), s.link.events = (kind, ctx, arg) :: rest → s.fw.running = true →
    s.link.evbase ≠ 0 → (s.link.evprod + 2 ^ 64 - s.link.evcons) % 2 ^ 64 < 2 ^ (s.link.evlog2 + 4) →
    let a := s.link.evbase + 16 * (s.link.evprod % 2 ^ (s.link.evlog2 + 4))
    s.memHas a 16 = true → s.poolDown a 16 = false →
    let t := s.devWrite a (natToBytes 8 (kind + ctx * 2 ^ 16 + s.link.evseq * 2 ^ 32) ++ natToBytes 8 arg)
    exec .eventRecordWrite s = .next { t with link := { t.link with
      events := rest, evprod := (s.link.evprod + 1) % 2 ^ 64, evseq := (s.link.evseq + 1) % 2 ^ 32, msix := t.link.msix ++ [1] } })
  ∧ (∀ (s : State), s.sched.args.id < 65536 → exec .exresWrite s = .next
      (if s.sched.args.data % 8 < 5 ∧ bits (s.sched.args.data / 2 ^ 64) 32 21 ≤ 2 ^ 20 then { s with tables := { s.tables with
        exres := setAt s.sched.args.id (s.sched.args.data % 2 ^ 64, s.sched.args.data / 2 ^ 64 % 2 ^ 53) s.tables.exres } } else s))
  ∧ (∀ (s : State), exec .exwridx s = .next (s.writeExres (s.sched.args.value % 65536) s.tables.exstg0 s.tables.exstg1))
  ∧ (∀ (s : State), s.sched.args.id < 4096 → s.appendWaits s.sched.args.id s.sched.args.value = false →
    exec .feedAppend s = .next (s.append s.sched.args.id (s.sched.args.value % 2 ^ 64)))
  ∧ (∀ (s : State), let e := s.sched.now - s.fw.wdlast
    let t := { s with fw := { s.fw with wdkick := s.sched.args.value % 2 ^ 64, wdlast := s.sched.now } }
    exec .wdkick s = .next (if s.fw.running = true ∧ s.fw.wdmax ≠ 0 ∧ (e < clkPerUs * s.fw.wdmin ∨ e > clkPerUs * s.fw.wdmax) then t.resetFirmware else t))
  ∧ (∀ (s : State), s.fw.running = true → s.fw.wdmax ≠ 0 → s.sched.now - s.fw.wdlast > clkPerUs * s.fw.wdmax →
    let n := (s.fw.wdresets + 1) % 2 ^ 64
    exec .watchdogTimeout s = .next ({ s with fw := { s.fw with running := false, inReset := true, wdresets := n } }.postEvent 8 0 n))
  ∧ (∀ (s : State), let id := s.sched.args.id
    exec .sdcWindowBoundary s = .next { s with rel := { s.rel with
      mismatches := s.rel.mismatches.filter fun m => m.1 != id || m.2.2 == s.sdcWindow id } })
  ∧ (∀ (s : State), exec .errlostWrite s = .next
      (if s.sched.args.value = 0 then { s with rel := { s.rel with errlost := 0 } } else s))
  ∧ (∀ (s : State), s.sched.args.id < 16 → exec .cecountWrite s = .next
      (if s.sched.args.value = 0 then { s with rel := { s.rel with cecount := s.rel.cecount.filter fun c => c.1 != s.sched.args.id } } else s))

/-- R448 to R459: writes of the debug registers, the record of a stop, the drain of a quad's trace, the log of record and replay, and
its gate. -/
def Obligations.DebugAndReplay : Prop :=
  (∀ (s : State), exec .dbgctlWrite s = .next (s.writeDbgctl s.sched.args.value))
  ∧ (∀ (s : State), let blk := s.sched.args.id % 2 ^ 32
    exec .dbgcmdStop s = .next ((s.commanded s.sched.args.ok blk).foldl (fun s b => s.haltBlock b.uid 1 0 (0, 0))
      { s with dbg := { s.dbg with dbgblk := blk } }))
  ∧ (∀ (s : State), let blk := s.sched.args.id % 2 ^ 32
    exec .dbgcmdResume s = .next (((s.commanded s.sched.args.ok blk).filter fun b => b.halt.isSome).foldl State.resumeBlock
      { s with dbg := { s.dbg with dbgblk := blk } }))
  ∧ (∀ (s : State), exec .dbgdataWrite s = .next (s.writeDbgdata s.sched.args.value))
  ∧ (∀ (s : State) (b : Block) (reason : Nat), s.block? s.sched.args.id = some b → b.halt = some (reason, false) → b.st = .resident →
    s.finishing b = false →
    let x := (b.thread? b.haltTid).getD { tid := 0 }
    let own := reason == 3 || reason == 4
    let at1 (st : TState) : List Nat := (b.threads.filter fun t => t.st == st).map Thread.tid
    let words := s.recordHead b (if reason = 1 then 0 else b.haltTid) 0x01 reason
      ++ [b.haltLog.1, b.haltLog.2, if own then x.retired else 0, if own then x.shash else 0] ++ mask1024 (at1 .atBar) ++ mask1024 (at1 .atGbar)
    let t := s.updBlock b.uid fun k => { k with halt := some (reason, true) }
    exec .haltComplete s = .next { t with dbg := { t.dbg with buffer := t.dbg.buffer ++ [{ quad := quadOf b.core, words := words, stop := true }] } })
  ∧ (∀ (s : State), let quad := s.sched.args.id
    let lost := lookupD 0 quad s.dbg.lost
    let gap := s.numbered [0x30, 0, 0, 0, lost + quad * 2 ^ 32, 0, 0, 0]
    let g : State := { gap.1 with dbg := { gap.1.dbg with lost := s.dbg.lost.filter fun l => l.1 != quad } }
    lost ≠ 0 → s.dbg.ringFree ≠ 0 → (bitAt s.power.qgate quad = false ∨ ∃ t ∈ s.dbg.buffer, t.quad = quad) →
    g.traceRoom gap.2 → exec .traceDrain s = .next (g.traced gap.2))
  ∧ (∀ (s : State) (t : TraceRec) (rest : List TraceRec), takeRecord s.sched.args.id s.dbg.buffer = some (t, rest) →
    let quad := s.sched.args.id
    let lost := lookupD 0 quad s.dbg.lost
    let n := s.numbered t.words
    let u : State := { n.1 with dbg := { n.1.dbg with buffer := rest } }
    (s.dbg.ringFree = 0 → t.stop = false → exec .traceDrain s = .next { s with dbg := { s.dbg with
      buffer := rest, lost := setAt quad (if lost < 2 ^ 32 - 1 then lost + 1 else lost) s.dbg.lost } })
    ∧ (s.dbg.ringFree ≠ 0 → lost = 0 → t.stop = false → u.traceRoom n.2 → exec .traceDrain s = .next (u.traced n.2))
    ∧ (s.dbg.ringFree ≥ 5 → lost = 0 → t.stop = true → s.dbg.ringSize - s.dbg.trprod % s.dbg.ringSize ≥ 5 → u.traceRoom n.2 →
      exec .traceDrain s = .next (u.traced n.2)))
  ∧ (∀ (s : State) (c : Chunk) (rest : List Chunk), takeChunk s.dbg.chunks = some (c, rest) → s.dbg.full = false →
    let a := s.dbg.rrbase + 256 * (s.dbg.rrprod % 2 ^ (s.dbg.rrlog2 + 4))
    s.memHas a 256 = true → s.poolDown a 256 = false →
    let t := s.devWrite a (c.bytes s.dbg.cseq)
    exec .rrChunkWrite s = .next { t with dbg := { t.dbg with
      chunks := rest, rrprod := (s.dbg.rrprod + 1) % 2 ^ 64, cseq := (s.dbg.cseq + 1) % 2 ^ 32 } })
  ∧ (∀ (s done : State) (k : LogKey) (since : Nat), s.waitingAtom s.sched.args.id = some (k, since, done) → s.gateHead k = true →
    ∀ lo bl t at1 ret hash, s.logHead k.ctx k.obj = some (lo, bl, t, at1, ret, hash) →
    (at1 = 0 → ¬(k.ret = ret ∧ k.hash = hash) → exec .replayGateRelease s = .next (s.replayStop k 3 (ret, hash)))
    ∧ (at1 ≠ 0 ∨ k.ret = ret ∧ k.hash = hash → exec .replayGateRelease s = .next done))
  ∧ (∀ (s done : State) (k : LogKey) (since : Nat), s.waitingAtom s.sched.args.id = some (k, since, done) → s.rrMode k.ctx = 2 →
    s.gateHolds k = true → s.sched.now > since + 2 ^ s.dbg.rrwait →
    exec .replayGateTimeout s = .next (s.replayStop k 4 (0, 0)))

/-- R439, R462 to R474: throttling, the thermal trip, a sag of the supply, the rise of a clock step, the power window, the end of an
ungating, the boot, and attestation. What a reset of the device keeps is the model's choice (log entry 125). -/
def Obligations.PowerAndBoot : Prop :=
  (∀ (s : State), s.diePowered s.sched.args.id = true → bitAt s.power.throttled s.sched.args.id = false →
    exec .thermalThrottle s = .next ({ s with power := { s.power with throttled := setBit s.power.throttled s.sched.args.id } }.setStep s.sched.args.id 0))
  ∧ (∀ (s : State), bitAt s.power.throttled s.sched.args.id = true →
    exec .throttleRelease s = .next { s with power := { s.power with throttled := clearBit s.power.throttled s.sched.args.id } })
  ∧ (∀ (s : State), s.power.tripped = false →
    let t := s.ctxs.foldl (fun s c => s.stopContext c.n { cause := 0x11 }) s
    exec .thermalTrip s = .next { t with power := { t.power with tripped := true } })
  ∧ (∀ (s : State), s.diePowered s.sched.args.id = true →
    exec .supplySag s = .next (s.setStep s.sched.args.id (clockStep s.power.clkstep s.sched.args.id - 4)))
  ∧ (∀ (s : State), let d := s.sched.args.id
    s.diePowered d = true → bitAt s.power.throttled d = false → clockStep s.power.clkstep d < clockStep s.power.kmax d →
    exec .clockStepRise s = .next (s.setStep d (clockStep s.power.clkstep d + 1)))
  ∧ (∀ (s : State), s.fw.running = true → exec .powerWindow s = .next (s.writeKmax s.sched.args.value))
  ∧ (∀ (s : State), s.power.ungating.contains s.sched.args.id = true →
    exec .quadUngateComplete s = .next { s with power := { s.power with ungating := eraseNat s.sched.args.id s.power.ungating } })
  ∧ (∀ (s s1 : State), s1 = (if s.sched.args.alt then s.deviceReset else s) → s1.fw.inReset = true → exec .resetBoot s = .next
    (if s.sched.args.ok = true ∧ s1.fw.minVersion ≤ s.sched.args.value then s1.startFirmware (s.sched.args.value % 2 ^ 32) (s.sched.args.data % 2 ^ 384)
      else { s1 with fw := { s1.fw with verified := false, failed := true, rollback := s.sched.args.ok } }))
  ∧ (∀ (s : State), exec .attctlGo s = .next (s.writeAttctl s.sched.args.value))
  ∧ (∀ (s : State), s.fw.attbusy = true → s.hbmHas s.fw.attbuf 224 = true →
    let sign := (List.range 12).flatMap fun i => natToBytes 8 (Config.freeSignature s.sched.fresh i).toNat
    let t := s.tick.devWrite s.fw.attbuf (s.report ++ sign)
    exec .attestDone s = .next { t with fw := { t.fw with attbusy := false, attdone := true }, link := { t.link with msix := t.link.msix ++ [1] } })

/-- R425, R426, R434, R436: a write of the aperture reaches its register, the residency table, the notify page of a queue or a feed page,
and an access of CXL.mem reads or writes bytes of one line of HBM. -/
def Obligations.ApertureAccesses : Prop :=
  (∀ (s : State), let a := s.sched.args
    (a.id = 0 → a.len = 16 → a.sub % 16 = 0 → 0x1000000 ≤ a.sub → a.sub < 0x1100000 →
      exec .registerWrite s = .next (s.writeExres ((a.sub - 0x1000000) / 16) (a.data % 2 ^ 64) (a.data / 2 ^ 64 % 2 ^ 64)))
    ∧ (a.id = 0 → a.len = 8 → a.sub % 8 = 0 → exec .registerWrite s = .next (s.writeControl a.sub (a.data % 2 ^ 64)))
    ∧ (a.id = 2 → a.len = 8 → a.sub % 4096 = 0 → a.sub / 4096 < 4096 → s.link.gated = true →
      exec .registerWrite s = .next { s with link := s.link.catchKick (a.sub / 4096) (a.data % 2 ^ 64) })
    ∧ (a.id = 4 → a.sub / 4096 < 4096 → a.sub % 4096 = 0x800 → a.len = 8 →
      s.appendWaits (a.sub / 4096) a.data = false →
      exec .registerWrite s = .next (s.append (a.sub / 4096) (a.data % 2 ^ 64))))
  ∧ (∀ (s : State), let a := s.sched.args
    a.len ≠ 0 → a.value % 64 + a.len ≤ 64 → s.hbmHas a.value a.len = true →
    (a.ok = true → s.lockedOut 0 (devPiece a.value a.len) = false) →
    exec .hostCxlMemAccess s = .next (if a.ok then s.devStore a.value a.len a.data
      else s.touchHome (devPiece a.value a.len) a.value a.len false))

/-! ### Encodings -/

/-- R276 to R290, R427: decoding the word of a well-formed instruction gives the instruction back, and so for the commands of
the ring. -/
def Obligations.DecodeEncode : Prop :=
  (∀ i : Instr, i.wf = true → i.view ≠ none → encode i < 2 ^ 64 ∧ decode (encode i) = .ok i)
  ∧ (∀ i : Instr, i.wf = true → i.command ≠ none → encode i < 2 ^ 512 ∧ decodeCommand (encode i) = some i)

/-- R276 to R290, R427: what decodes is well formed, and its encoding is the word: no two words decode to one instruction, and no bit
of a word is dropped. -/
def Obligations.EncodeDecode : Prop :=
  (∀ (w : Nat) (i : Instr), w < 2 ^ 64 → decode w = .ok i → i.wf = true ∧ encode i = w)
  ∧ (∀ (w : Nat) (i : Instr), w < 2 ^ 512 → decodeCommand w = some i → i.wf = true ∧ encode i = w)

/-- R308, R363, R372, R385: the words that the manual writes out, each of the assembly line beside it. -/
def Obligations.WrittenWords : Prop :=
  decode 0x00400100A0600108 = .ok (.add { guard := .always, d := 4, a := 5, b := 6, c := 0, tag := .s32x2, rnd := .rn, sat := true, sub := 0 })
  ∧ decode 0x066101C100900082 = .ok (.cmp { guard := .ifTrue 2, d := 7, a := 8, b := 9, c := 0, tag := .s64, rnd := .rn, sat := false, sub := 2 })
  ∧ decode 0x0CC0014040A05840 = .ok (.csetbnd { guard := .always, d := 5, a := 2, b := 10, c := 11, tag := .u64, opx := 0 })
  ∧ decode 0xCB80030809308002 = .ok (.atomCas { guard := .always, data := 6, cap := 2, index := 4, width := 2, sgn := false, scale := 3, type := .u64, size := 0, off := 0, scope := .device })
  ∧ decode 0xCC00060413262002 = .ok (.redAdd { guard := .always, data := 12, cap := 1, index := 9, width := 2, sgn := false, scale := 2, type := .f32x2, size := 1, off := 0, scope := .device })
  ∧ decode 0xD40002840721A000 = .ok (.atomsAdd { guard := .always, data := 5, cap := 1, index := 3, width := 2, sgn := false, scale := 2, type := .u32x2, size := 1, off := 0, scope := .block })
  ∧ decode 0xD8000A0C00058102 = .ok (.wsum { guard := .always, data := 20, cap := 3, index := 0, width := 0, sgn := false, scale := 0, type := .f64, size := 0, off := 32, scope := .device })
  ∧ decode 0xD900140411B58000 = .ok (.mld { guard := .always, data := 40, cap := 1, index := 8, width := 3, sgn := false, scale := 3, type := .f64, size := 0, off := 0, scope := .block })
  ∧ decode 0xDC00000000002002 = .ok (.fence { guard := .always, data := 0, cap := 0, index := 0, width := 0, sgn := false, scale := 0, type := .raw, size := 1, off := 0, scope := .device })
  ∧ decode 0x3900000040A00000 = .ok (.mon { guard := .always, d := 0, a := 2, b := 10, c := 0, tag := .raw, opx := 0 })
  ∧ decode 0x3900000000A00001 = .ok (.mon { guard := .always, d := 0, a := 0, b := 10, c := 0, tag := .raw, opx := 1 })
  ∧ decode 0x3940000000000000 = .ok (.mwait { guard := .always, d := 0, a := 0, b := 0, c := 0, tag := .raw, opx := 0 })
  ∧ decode 0x29800A00805002C6 = .ok (.mchol { guard := .always, d := 40, a := 4, b := 5, c := 0, tag := .f64, mode := 0, n := 6 })
  ∧ decode 0x2A001405078002C6 = .ok (.msolve { guard := .always, d := 80, a := 40, b := 120, c := 0, tag := .f64, mode := 0, n := 6 })
  ∧ decode 0x29C0050083C01303 = .ok (.mlu { guard := .always, d := 20, a := 4, b := 60, c := 2, tag := .f32x2, mode := 0, n := 3 })
  ∧ decode 0x3000004000000000 = .ok (.pacq { guard := .always, d := 1, a := 0, b := 0, c := 0, tag := .raw, opx := 0 })
  ∧ decode 0x3080000120000000 = .ok (.ppass { guard := .always, d := 0, a := 9, b := 0, c := 0, tag := .raw, opx := 0 })
  ∧ decode 0x314005008170A809 = .ok (.cpym { guard := .always, d := 20, a := 4, b := 23, c := 21, tag := .raw, opx := 9 })
  ∧ decode 0x31C0000000000012 = .ok (.qfence { guard := .always, d := 0, a := 0, b := 0, c := 0, tag := .raw, opx := 0x12 })
  ∧ decode 0x3280028080300000 = .ok (.exlook { guard := .always, d := 10, a := 4, b := 3, c := 0, tag := .raw, opx := 0 })

/-! ### Steps -/

/-- R21, R178, R207, R231, R427: a step takes the next turn. Where a partition issues, the selector chooses a group, the word at its PC is
fetched, and the instruction that it decodes to is performed; an event is performed with its arguments; a command is read
from the head of the ring, which goes on by one. Groups that were STALLED may then try again. The clocks of a word count as issues
of its group, and a word other than `rgn` shows that its threads are past a boundary (R207). -/
def Obligations.StepRunsDecoded : Prop :=
  (∀ (s s0 s1 t : State) (core part w : Nat) (g : Group) (sel : Part) (b : Block) (i : Instr),
    s.nextTurn = (.issue core part, s0) → s0.select core part = some (g, sel) → s0.block? g.blk = some b →
    let was := s0.selector core part
    let s2 := { s0.setSelector sel with sched := { s0.sched with cur := g.gid, before := some (was.cur, was.run, was.ovd) } }
    s2.fetchWord b g.space g.pc = (s1, .ok w) → decode w = .ok i →
    let u := match i with
      | .rgn _ => s1
      | _ => s1.unbindAt b (g.issuers b)
    exec i (u.occupy g b i) = .next t →
    step s = .next (endTurn (.issue core part) t))
  ∧ (∀ (s s0 t : State) (e : Instr) (a : EventArgs), s.nextTurn = (.event e a, s0) →
    exec e { s0 with sched := { s0.sched with args := a } } = .next t → step s = .next (endTurn (.event e a) t))
  ∧ (∀ (s s0 t : State) (i : Instr), s.nextTurn = (.command, s0) → s0.link.cmdhead ≠ s0.link.cmdtail → s0.cellar.ops = [] →
    (∀ r ∈ s0.cellar.reads, r.pgread = none) →
    let at1 := s0.link.cmdbase + 64 * (s0.link.cmdhead % s0.link.cmdCount)
    s0.memHas at1 64 = true → s0.poolDown at1 64 = false → decodeCommand (s0.mem.read at1 64) = some i →
    exec i { s0 with link := { s0.link with cmdhead := (s0.link.cmdhead + 1) % 2 ^ 64 },
                     sched := { s0.sched with args := { id := s0.link.cmdhead } } } = .next t →
    step s = .next (endTurn .command t))

/-- R290, R291: a word that is no instruction is ILLEGAL in every active thread, before any effect; where the guard is malformed, in
every thread of the group. %trapaux names its first broken rule, a register beyond the thread's allocation among them. -/
def Obligations.IllegalWords : Prop :=
  ∀ (s s0 s1 : State) (core part w : Nat) (g : Group) (sel : Part) (b : Block) (v : View) (aux : Thread → Nat),
    s.nextTurn = (.issue core part, s0) → s0.select core part = some (g, sel) → s0.block? g.blk = some b →
    let was := s0.selector core part
    let s2 := { s0.setSelector sel with sched := { s0.sched with cur := g.gid, before := some (was.cur, was.run, was.ovd) } }
    s2.fetchWord b g.space g.pc = (s1, .ok w) → decode w = .error v →
    let u := (s1.unbindAt b (g.issuers b)).occupyFor g b 1
    let c := (u.block? b.uid).getD b
    let hit := (g.issuers c).filter fun x => match Guard.ofCode v.guardBits with
      | some gd => x.active gd
      | none => true
    hit ≠ [] → u.glitchOf c hit 1 = none → (∀ x ∈ hit, (leastViol (v.viols ++ allocViols v.regs x.nregs)).map Viol.aux = some (aux x)) →
    step s = .next (endTurn (.issue core part) (u.trapThose g c (hit.map fun x => (x.tid, cIllegal, aux x))))

/-- R206, R237, R238, R301: operands that a check refuses, by their tag, their register, their value or their region, make every
active thread take its exception at the word, with no effect of it: the integer, predicate, capability, immediate, control, float,
lane, matrix and paired words that name a register, every word that loads, stores, reduces, watches or prefetches, and the
commit-class words with an operand in memory or in a feed. Left out are the words that a leader checks for its group, and those of
the engines, of tables and of the system. -/
def Obligations.RefusedOperands : Prop :=
  (∀ (w : Rounded) (i : Instr) (op n : Nat), (i, op, n) ∈ [(.add w, 0x01, 2), (.sub w, 0x02, 2), (.mul w, 0x03, 2), (.mulhi w, 0x04, 2),
      (.mad w, 0x05, 3), (.min w, 0x06, 2), (.max w, 0x07, 2), (.abs w, 0x08, 1), (.neg w, 0x09, 1), (.and w, 0x0A, 2), (.or w, 0x0B, 2),
      (.xor w, 0x0C, 2), (.not w, 0x0D, 1), (.andn w, 0x0E, 2), (.shl w, 0x0F, 2), (.shr w, 0x10, 2), (.sar w, 0x11, 2), (.rot w, 0x12, 2),
      (.clz w, 0x13, 1), (.popc w, 0x14, 1), (.brev w, 0x15, 1), (.bfx w, 0x16, 2), (.bfi w, 0x17, 3)] →
    RefusedWord i [w.form op (w.rawSrcs n)] false 1)
  ∧ (∀ (w : Rounded) (i : Instr) (op n : Nat), (i, op, n) ∈ [(.fadd w, 0x40, 2), (.fsub w, 0x41, 2), (.fmul w, 0x42, 2), (.fma w, 0x43, 3),
      (.fms w, 0x44, 3), (.fnma w, 0x45, 3), (.fmin w, 0x46, 2), (.fmax w, 0x47, 2), (.fabs w, 0x48, 1), (.fneg w, 0x49, 1),
      (.fclass w, 0x4B, 1), (.frint w, 0x4F, 1)] →
    RefusedWord i [w.form op (exactSrcs w n)] false 1)
  ∧ (∀ (w : Rounded) (i : Instr) (op n : Nat), (i, op, n) ∈ [(.rcp w, 0x70, 1), (.rsqrt w, 0x71, 1), (.sqrt w, 0x72, 1), (.div w, 0x73, 2),
      (.exp2 w, 0x74, 1), (.log2 w, 0x75, 1), (.sin w, 0x76, 1), (.cos w, 0x77, 1), (.tanh w, 0x78, 1)] →
    RefusedWord i [w.form op (exactSrcs w n)] false 2)
  ∧ (∀ (w : Rounded) (i : Instr) (f : Form), (i, f) ∈ [(.mov w, w.form 0x00 [srcAny 0 w.a]),
      (.sel w, w.form 0x18 [srcExact 0 w.a w.tag, srcExact 1 w.b w.tag]), (.cmp w, { w.form 0x19 (w.rawSrcs 2) with dV := [], dP := [w.d] }),
      (.cvtI w, { w.form 0x26 [sourceOf w (numTags ++ [.m8x8, .m4x16])] with late := cvtLate w.a w.tag w.sub }),
      (.fcmp w, { w.form 0x4A (exactSrcs w 2) with dV := [], dP := [w.d] }),
      (.dot2 w, w.form 0x4C ([srcExact 0 w.a w.tag, srcExact 1 w.b w.tag] ++ if w.sub % 2 == 1 then [srcExact 2 w.c .f32x2] else [])),
      (.dot4 w, w.form 0x4D ([srcExact 0 w.a w.tag, srcExact 1 w.b w.tag] ++ if w.sub % 2 == 1 then [srcExact 2 w.c .f32x2] else [])),
      (.fscale w, w.form 0x4E [srcExact 0 w.a w.tag, srcRaw 1 w.b (signedOf w.tag.width)]), (.cvtF w, convForm 0x60 w floatTags fun _ => []),
      (.cvtFi w, convForm 0x61 w floatTags fun _ => []), (.cvtIf w, convForm 0x62 w numTags fun _ => []),
      (.cvtQ w, convForm 0x63 w floatTags fun x => [srcExact 1 w.b (x.vreg w.a).tag]), (.cvtM w, convForm 0x64 w floatTags fun _ => [])] →
    RefusedWord i [f] false 1)
  ∧ (∀ (w : Plain) (i : Instr) (f : Form), (i, f) ∈ [(.pack w, w.form 0x27 [srcRaw 0 w.a w.tag, srcRaw 1 w.b w.tag]),
      (.unpack w, w.form 0x28 [srcRaw 0 w.a w.tag]), (.retag w, w.form 0x29 [srcAny 0 w.a]),
      (.pand w, { w.form 0x20 [] with dV := [], dP := [w.d] }), (.por w, { w.form 0x21 [] with dV := [], dP := [w.d] }),
      (.pxor w, { w.form 0x22 [] with dV := [], dP := [w.d] }), (.pnot w, { w.form 0x23 [] with dV := [], dP := [w.d] }),
      (.pmask w, { w.form 0x24 [srcRaw 0 w.a w.tag] with dV := [], dP := [w.d] }), (.pset w, { w.form 0x25 [] with dV := [], dP := [w.d] }),
      (.cmov w, { w.form 0x30 [] with dV := [], dC := [w.d], caps := [w.a] }),
      (.cincoff w, { w.form 0x31 [srcRaw 1 w.b w.tag] with dV := [], dC := [w.d], caps := [w.a] }),
      (.csetoff w, { w.form 0x32 [srcRaw 1 w.b w.tag] with dV := [], dC := [w.d], caps := [w.a] }),
      (.csetbnd w, { w.form 0x33 [srcRaw 1 w.b w.tag, srcRaw 2 w.c w.tag] with dV := [], dC := [w.d], caps := [w.a] }),
      (.candperm w, { w.form 0x34 [srcRaw 1 w.b w.tag] with dV := [], dC := [w.d], caps := [w.a] }), (.cget w, { w.form 0x35 [] with caps := [w.a] }),
      (.ctest w, { w.form 0x36 (if w.opx = 1 ∨ w.opx = 2 then [srcRaw 1 w.b w.tag] else []) with dV := [], dP := [w.d], caps := [w.a] }),
      (.shfl w, w.form 0x80 [srcExact 0 w.a w.tag, srcRaw 1 w.b (unsignedOf w.tag.width)]), (.bcast w, w.form 0x81 [srcExact 0 w.a w.tag]),
      (.ballot w, w.form 0x82 []), (.vote w, { w.form 0x83 [] with dV := [], dP := [w.d] }), (.matchLanes w, w.form 0x84 [srcAny 0 w.a]),
      (.scan w, w.form 0x85 [spanSrc w]), (.reduce w, w.form 0x86 [spanSrc w]), (.sort w, w.form 0x87 [spanSrc w]),
      (.rank w, w.form 0x88 [spanSrc w])] →
    RefusedWord i [f] false 1)
  ∧ (∀ (w : Imm) (i : Instr) (f : Form), (i, f) ∈ [(.movi w, w.form 0x00 []), (.movhi w, w.form 0x01 [srcWord 0 w.a]),
      (.addi w, w.form 0x02 [srcWord 0 w.a]), (.andi w, w.form 0x03 [srcSome 0 w.a intTags]), (.ori w, w.form 0x04 [srcSome 0 w.a intTags]),
      (.cmpi w, { w.form 0x05 [srcWord 0 w.a] with dV := [], dP := [w.d] }),
      (.call w, w.form 0x11 []), (.ret w, { w.form 0x12 [srcRaw 0 w.a .u64] with dV := [] }),
      (.jmpr w, { w.form 0x13 [srcRaw 0 w.a .u64] with dV := [] }), (.loop w, w.form 0x14 [srcWord 0 w.a])] →
    RefusedWord i [f] false 1)
  ∧ (∀ (w : MatrixW) (i : Instr) (f : Form), (i, f) ∈ [(.mset w, matForm 0xA0 w [srcExact 0 w.a w.tag] (runNums w.d (mRun w)) []),
      (.madd w, matForm 0xA1 w (srcsAB w) (runNums w.d (mRun w)) []), (.mmul w, matForm 0xA2 w (srcsAB w) (runNums w.d (mRun w)) []),
      (.mmad w, matForm 0xA3 w (srcsABC w) (runNums w.d (mRun w)) []), (.mtrans w, matForm 0xA4 w (srcsA w) (runNums w.d (mRun w)) []),
      (.mvmul w, matForm 0xA5 w (srcsA w ++ runSrcs w.tag 1 w.b (vRun w)) (runNums w.d (vRun w)) []),
      (.mchol w, matForm 0xA6 w (srcsA w) (runNums w.d (mRun w)) [w.b]),
      (.mlu w, matForm 0xA7 w (srcsA w) (runNums w.d (mRun w) ++ [w.b]) [w.c]),
      (.msolve w, matForm 0xA8 w (srcsA w ++ runSrcs w.tag 1 w.b (vRun w) ++ if w.mode = 1 then [srcRaw 2 w.c .u64] else []) (runNums w.d (vRun w)) [])] →
    RefusedWord i [f] false 3)
  ∧ (∀ (h0 h1 : Half) (op1 : PairOp) (op0 : PairOp) (mk : Half → PairOp → Half → Instr), (op0, mk) ∈ [(.mov, .movPaired), (.add, .addPaired),
      (.sub, .subPaired), (.mul, .mulPaired), (.min, .minPaired), (.max, .maxPaired), (.abs, .absPaired), (.neg, .negPaired),
      (.and, .andPaired), (.or, .orPaired), (.xor, .xorPaired), (.not, .notPaired), (.andn, .andnPaired), (.shl, .shlPaired),
      (.shr, .shrPaired), (.sar, .sarPaired), (.fadd, .faddPaired), (.fsub, .fsubPaired), (.fmul, .fmulPaired), (.fmin, .fminPaired),
      (.fmax, .fmaxPaired), (.fabs, .fabsPaired), (.fneg, .fnegPaired)] →
    RefusedWord (mk h0 op1 h1) [pairForm op0 [(8, h0.d), (8, h0.a), (9, h1.d), (9, h1.a)] h0, pairForm op1 [] h1] false 1)
  ∧ (∀ (w : MemW) (i : Instr) (f : Form), (i, f) ∈ [(.ld w, w.form 0x00 (w.width != 0) true [] [w.data]),
      (.ldacq w, w.form 0x01 (w.width != 0) true [] [w.data]), (.st w, w.form 0x02 (w.width != 0) true [srcAny 3 w.data] []),
      (.lds w, w.form 0x04 (w.width != 0) false [] [w.data]), (.sts w, w.form 0x05 (w.width != 0) false [srcAny 3 w.data] []),
      (.wsum w, w.form 0x30 (w.width != 0) (w.size == 0) [srcExact 3 w.data w.type] []),
      (.wrd w, w.form 0x31 (w.width != 0) (w.size == 0) [] [w.data]), (.mld w, w.form 0x32 true true [] (span w.data (laneRun w))),
      (.mst w, w.form 0x33 true true ((span w.data (laneRun w)).map fun r => srcAny 3 r) []),
      (.ldcap w, { w.form 0x34 (w.width != 0) true [] [] with dC := [w.data] }),
      (.stcap w, { w.form 0x35 (w.width != 0) true [] [] with caps := [w.cap, w.data] }),
      (.cachectlWb w, w.form 0x3A (w.width != 0) true [] []), (.cachectlEvict w, w.form 0x3A (w.width != 0) true [] []),
      (.cachectlL1drop w, w.form 0x3A (w.width != 0) true [] [])] →
    RefusedWord i [f] true 1)
  ∧ (∀ (w : MemW) (i : Instr) (k : Nat), (i, k) ∈ [(.redAdd w, 0), (.redMin w, 1), (.redMax w, 2), (.redAnd w, 3), (.redOr w, 4), (.redXor w, 5)] →
    RefusedWord i [w.form (0x18 + k) (w.width != 0) true (atomSrcs k w) []] true 1)
  ∧ (∀ w : MemW, RefusedWord (.prefetch w) [w.form 0x39 (w.width != 0) true [] []] false 1)
  ∧ (∀ w : Plain, RefusedWord (.mon w)
    [{ guard := w.guard, regs := (w.view 0xE4).regs, srcs := [srcWord 1 w.b], caps := if w.opx = 0 then [w.a] else [] }] true 1)
  ∧ (∀ w : MemW, RefusedCommit (.strel w) (w.form 0x03 (w.width != 0) true [srcAny 3 w.data] []))
  ∧ (∀ (w : MemW) (i : Instr) (k : Nat), (i, k) ∈ [(.atomAdd w, 0), (.atomMin w, 1), (.atomMax w, 2), (.atomAnd w, 3), (.atomOr w, 4),
      (.atomXor w, 5), (.atomXchg w, 6), (.atomCas w, 7)] →
    RefusedCommit i (w.form (0x10 + k) (w.width != 0) true (atomSrcs k w) []))
  ∧ (∀ (w : MemW) (i : Instr) (k : Nat), (i, k) ∈ [(.atomsAdd w, 0), (.atomsMin w, 1), (.atomsMax w, 2), (.atomsAnd w, 3), (.atomsOr w, 4),
      (.atomsXor w, 5), (.atomsXchg w, 6), (.atomsCas w, 7)] →
    (w.cap % 2 = 0 → RefusedCommit i (w.form (0x28 + k) (w.width != 0) false (atomSrcs k w) []))
    ∧ (w.cap % 2 = 1 → RefusedWord i [w.form (0x28 + k) (w.width != 0) false (atomSrcs k w) []] true 1))
  ∧ (∀ w : Plain, RefusedCommit (.fpop w) { guard := w.guard, regs := (w.view 0xEB).regs, caps := [w.a] })

/-! ### What stays as it was -/

/-- R199, R255, R266, R275: an effect changes the registers it names and no other; flags are joined to those that stand; and
nothing else of the thread but DIRTY, %mstat, %scratchfault and PASS can change. -/
def Obligations.EffectFrame : Prop :=
  ∀ (x : Thread) (e : Eff), let y := x.apply e
    (∀ r, (∀ w ∈ e.v, w.1 ≠ r) → y.vreg r = x.vreg r)
    ∧ (∀ r, (∀ w ∈ e.p, w.1 ≠ r) → y.pred r = x.pred r)
    ∧ (∀ r, (∀ w ∈ e.c, w.1 ≠ r) → y.creg r = x.creg r)
    ∧ (∀ d v, e.v = [(d, v)] → d < x.v.length → y.vreg d = v)
    ∧ (∀ d v, e.p = [(d, v)] → d < x.p.length → y.pred d = v)
    ∧ (∀ d v, e.c = [(d, v)] → d < x.c.length → y.creg d = v)
    ∧ (e.set = none → y.fpflags = x.fpflags ||| BitVec.ofNat 32 e.fl)
    ∧ (e.set = none → e.ms = none → y.mstat = x.mstat)
    ∧ (e.set = none → e.off = false → y.sf = x.sf)
    ∧ (e.passed = false → y.pass = x.pass)
    ∧ y = { x with v := y.v, p := y.p, c := y.c, dirtyV := y.dirtyV, dirtyP := y.dirtyP, dirtyC := y.dirtyC, fpflags := y.fpflags,
                   mstat := y.mstat, sf := y.sf, pass := y.pass }

/-- R83, R176, R275: a word that changes registers alone leaves every byte of memory and of scratch, every unit and every other
thread as they were, and its own threads but for their effects and for where they go on. The words of the statements
IntegerArithmetic to PairedWords are such words. -/
def Obligations.RegisterFrame : Prop :=
  (∀ (s : State) (g : Group) (b : Block) (oks : List (Thread × Eff)), s.current = some (g, b) → (∀ o ∈ oks, o.2.inner) →
    OnlyRegisters s (s.wordDone g b oks) b.uid oks)
  ∧ (∀ (i : Instr) (fs : List Form) (kind : Nat) (e : State → Block → List Thread → Thread → Eff), RegisterWord i fs kind e →
    (∀ s b act x, (e s b act x).inner) → ∀ (s t : State) (g : Group) (b : Block), s.current = some (g, b) →
    Unhindered s b fs false kind (actives (guardOf fs) g b) → Passes fs (actives (guardOf fs) g b) → exec i s = .next t →
    OnlyRegisters s t b.uid ((actives (guardOf fs) g b).map fun x => (x, e s b (actives (guardOf fs) g b) x)))

/-- R23, R70, R74, R79, R80, R157: when a store is performed, with the stores of its group and instance that share its entry of the
store buffer, only the bytes of their places change, at each present copy of a replicated frame; a store of one place that goes
alone leaves its data there; and no register of any thread changes, nor any scratch. -/
def Obligations.StoreFrame : Prop :=
  ∀ (s t : State) (i : Item), s.mem.wf = true →
    (if s.sched.args.alt then s.outOfTurn s.sched.args.id s.sched.args.sub else s.nextItem s.sched.args.id) = some i →
    (∀ j ∈ s.itemsWith i, j.psn = false ∧ (∃ ps data, j.eff = .store ps data) ∧
      ∀ p ∈ j.eff.pieces, p.scratch = none ∧ p.peer = none) →
    exec .storeBufferPerform s = .next t →
    (∀ a, (∀ j ∈ s.itemsWith i, ∀ p ∈ j.eff.pieces, ∀ q ∈ s.writeAddrs p, a < q ∨ q + p.len ≤ a) → t.mem.byte a = s.mem.byte a)
    ∧ (∀ p q data, s.itemsWith i = [i] → i.eff = .store [p] data → s.writeAddrs p = [q] → t.mem.bytes q p.len = natToBytes p.len data)
    ∧ (t.blocks.map fun b => { b with threads := [] }) = (s.blocks.map fun b => { b with threads := [] })
    ∧ (∀ (u tid : Nat) (x : Thread), s.thread? u tid = some x → ∃ y, t.thread? u tid = some y ∧ y = { x with watch := y.watch })

/-! ### Taking an exception -/

/-- R237, R241, R242: a thread that takes an exception by itself and finds a save slot is in handler mode at the handler's entry, with
its trap registers written, c31 on its slot and every other register as it was; %fpflags and %mstat go back to the start of the region
unless it ran pinned, or its group waits on a translation fault, where they are back already. -/
def Obligations.TrapEntry : Prop :=
  ∀ (s : State) (uid tid cause aux : Nat) (pc : Int) (b : Block) (c : Ctx) (x y : Thread), s.block? uid = some b →
    s.ctx? b.ctx = some c → s.thread? uid tid = some x → x.handler = none →
    (s.trapThread uid tid cause aux pc).thread? uid tid = some y → y.st ≠ .trapWait →
    y.cause = cause ∧ y.trappc = pc48 pc ∧ y.aux = aux % 2 ^ 64 ∧ y.pc = (c.hcode.cursor : Nat) ∧ y.space = .handler
    ∧ (∃ slot, y.handler = some slot ∧ (31 < x.c.length → y.creg 31 = slotCap c slot)) ∧ y.pend = none
    ∧ y.v = x.v ∧ y.p = x.p ∧ (∀ k, k ≠ 31 → y.creg k = x.creg k)
    ∧ (x.runsPinned = true ∨ (s.groupOf uid tid).any Group.gone = true → y.fpflags = x.fpflags ∧ y.mstat = x.mstat)
    ∧ (x.runsPinned = false → (s.groupOf uid tid).any Group.gone = false → y.fpflags = x.fpsnap ∧ y.mstat = x.mssnap)

/-- R18, R19, R20: no capability instruction makes a tagged capability that grants what its source does not. -/
def Obligations.NoWidening : Prop :=
  ∀ (p : CapReg), ({ p with psn := false } : CapReg).within p ∧ (∀ z, (p.withCursor z).within p) ∧ (∀ m, (p.andRights m).within p)
    ∧ (∀ b len, (p.setBounds b len).within p)

/-- R59: the registers of a thread that starts, of blocks gained, and of blocks released and gained again. -/
def Obligations.ThreadStart : Prop :=
  (∀ (tid h : Nat) (entry : Int) (slots : List CapReg), let x := Thread.start tid h entry slots
    (∀ r, r < 32 * h → x.vreg r = { val := 0, tag := .raw, psn := false }) ∧ (∀ p, x.pred p = false))
  ∧ (∀ (x : Thread) (n : Nat) (e : Bool), x.v.length = 32 * x.h → let y := x.grow n e
    (∀ r, r < 32 * x.h → y.vreg r = x.vreg r) ∧ (∀ p, y.pred p = x.pred p)
    ∧ ∀ r, 32 * x.h ≤ r → r < 32 * (x.h + n) → y.vreg r = { val := 0, tag := .raw, psn := false })
  ∧ (∀ (x : Thread) (n : Nat) (e : Bool), x.v.length = 32 * x.h → n ≤ x.h → let y := (x.shrink n).grow n e
    (∀ r, r < 32 * (x.h - n) → y.vreg r = x.vreg r)
    ∧ ∀ r, 32 * (x.h - n) ≤ r → r < 32 * x.h → y.vreg r = { val := 0, tag := .raw, psn := false })

/-! ### Reset and what every step keeps -/

/-- R426, R433, R443, R448, R468: what the registers of the control aperture read right after reset, where these rules give
a value. -/
def Obligations.ResetRegisters : Prop :=
  (∀ off ∈ [0x0000, 0x0008, 0x0010, 0x0018, 0x0020, 0x0028, 0x0030, 0x0038, 0x0040, 0x0048, 0x0050, 0x0058, 0x1000, 0x10000, 0x10FF8,
            0x20000, 0x50000, 0x501F8, 0x60000, 0x70000, 0x70008, 0x70010, 0x70018, 0x80000, 0x80008, 0x80010, 0x80018, 0x80020,
            0x80100, 0x80178, 0x80200, 0x80298, 0x90000, 0x90010, 0x90018, 0x90020, 0x90028, 0x90030, 0x90038, 0x90040, 0x90048,
            0x90050, 0x90058, 0x90060, 0x90068, 0xA0018, 0xA0030, 0xA0040, 0xA0048, 0xA0050, 0xA0068, 0xA0070, 0xB0000, 0xB0008,
            0xC0000, 0xDFFF8, 0xE0000, 0xE8000, 0xEA000, 0xEA800, 0x1000000, 0x10FFFF8, 0x2000000],
      State.reset.readControl off = 0)
  ∧ State.reset.readControl 0x40000 = 0xFFFFFFFFFFFFFFFF ∧ State.reset.readControl 0x41FF8 = 0xFFFFFFFFFFFFFFFF
  ∧ State.reset.readControl 0x80040 = 24 ∧ State.reset.readControl 0x80048 = 3 ∧ State.reset.readControl 0x90070 = 20
  ∧ State.reset.readControl 0xA0000 = 1800 ∧ State.reset.readControl 0xA0010 = 0x88888888

/-- Right after reset, memory and scratch stand in canonical form. -/
def Obligations.ResetSafe : Prop := Safe State.reset

/-- Every step keeps memory and the scratch of every block in canonical form. -/
def Obligations.StepKeepsSafe : Prop := ∀ (s t : State), Safe s → step s = .next t → Safe t
end

