-- ==== Sys2Proof/Laws/Elements.lean ====
section
/-!
SUPPORT. Packed elements bit by bit: what `elem` takes from a word, and what `packWord` puts back.
-/

namespace Sys2Proof.Machine

open Sys2Proof

theorem Tag.width_mul_ne (t : Tag) : t.width * t.ne = 64 := by cases t <;> rfl

theorem Tag.width_pos (t : Tag) : 0 < t.width := by cases t <;> decide

/-- Bit j of element i. -/
theorem elem_testBit (w : Nat) (x : Word) (i j : Nat) :
    (elem w x i).testBit j = (decide (j < w) && x.getLsbD (w * i + j)) := by
  unfold elem bits
  rw [Nat.testBit_mod_two_pow, Nat.testBit_div_two_pow, BitVec.testBit_toNat, Nat.add_comm]

theorem elem_lt (w : Nat) (x : Word) (i : Nat) : elem w x i < 2 ^ w := Nat.mod_lt _ (Nat.two_pow_pos w)

/-- Bit k of packed elements. -/
theorem packNat_testBit (w : Nat) (hw : 0 < w) : ∀ (es : List Nat) (k : Nat),
    (packNat w es).testBit k = (es.getD (k / w) 0).testBit (k % w)
  | [], k => by simp [packNat]
  | e :: es, k => by
    unfold packNat
    rw [Nat.add_comm, Nat.testBit_two_pow_mul_add _ (Nat.mod_lt _ (Nat.two_pow_pos w))]
    by_cases h : k < w
    · rw [if_pos h, Nat.testBit_mod_two_pow, Nat.div_eq_of_lt h, Nat.mod_eq_of_lt h]
      simp [h]
    · have hk : w ≤ k := by omega
      rw [if_neg h, packNat_testBit w hw es (k - w)]
      have h1 : k / w = (k - w) / w + 1 := by
        rw [Nat.div_eq_sub_div hw hk]
      have h2 : k % w = (k - w) % w := by rw [Nat.mod_eq_sub_mod hk]
      rw [h1, h2]
      rfl

/-- Bit k of a packed word. -/
theorem packWord_getLsbD (w : Nat) (hw : 0 < w) (es : List Nat) (k : Nat) :
    (packWord w es).getLsbD k = (decide (k < 64) && (es.getD (k / w) 0).testBit (k % w)) := by
  unfold packWord
  rw [BitVec.getLsbD_ofNat, packNat_testBit w hw]

/-- A word packed from an operation on the bits of two words' elements is that operation on the words. -/
theorem packWord_bitwise (t : Tag) (x y : Word) (f : Nat → Nat → Nat) (h : Bool → Bool → Bool) (z : Word)
    (hf : ∀ p q j, p < 2 ^ t.width → q < 2 ^ t.width → j < t.width → (f p q).testBit j = h (p.testBit j) (q.testBit j))
    (hz : ∀ k, k < 64 → z.getLsbD k = h (x.getLsbD k) (y.getLsbD k)) :
    packWord t.width ((List.range t.ne).map fun i => f (elem t.width x i) (elem t.width y i)) = z := by
  apply BitVec.eq_of_getLsbD_eq
  intro k hk
  have hw := Tag.width_pos t
  have hlt : k / t.width < t.ne := by
    rw [Nat.div_lt_iff_lt_mul hw, Nat.mul_comm, Tag.width_mul_ne]; exact hk
  have hm : k % t.width < t.width := Nat.mod_lt _ hw
  rw [packWord_getLsbD _ hw, hz k hk]
  simp only [hk, decide_true, Bool.true_and]
  rw [List.getD_eq_getElem _ _ (by simpa using hlt)]
  simp only [List.getElem_map, List.getElem_range]
  rw [hf _ _ _ (elem_lt ..) (elem_lt ..) hm, elem_testBit, elem_testBit]
  simp only [hm, decide_true, Bool.true_and, Nat.div_add_mod]

end Sys2Proof.Machine
end

