-- ==== Sys2Proof/Laws/Encode.lean ====
section
/-!
SUPPORT. Codes and names agree: the name of a code is read back from the code, and the fields of a well-formed word
name the instruction they were taken from.
-/

namespace Sys2Proof

theorem Tag.ofCode_code (t : Tag) : Tag.ofCode t.code = some t := by cases t <;> rfl

theorem Tag.code_lt (t : Tag) : t.code < 16 := by cases t <;> decide

theorem Rnd.ofCode_code (r : Rnd) : Rnd.ofCode r.code = some r := by cases r <;> rfl

theorem Rnd.code_lt (r : Rnd) : r.code < 4 := by cases r <;> decide

theorem Scope.ofCode_code (s : Scope) : Scope.ofCode s.code = some s := by cases s <;> rfl

theorem Scope.code_lt (s : Scope) : s.code < 5 := by cases s <;> decide

theorem PairOp.ofCode_code (o : PairOp) : PairOp.ofCode o.code = some o := by cases o <;> rfl

theorem PairOp.code_lt (o : PairOp) : o.code < 128 := by cases o <;> decide

theorem Guard.ofCode_code {g : Guard} (h : g.fits = true) : Guard.ofCode g.code = some g := by
  cases g with
  | always => rfl
  | ifTrue p =>
    simp only [Guard.fits, decide_eq_true_eq] at h
    show Guard.ofCode (64 + p) = _
    unfold Guard.ofCode
    rw [if_neg (by omega), if_neg (by omega), if_pos (by omega), Nat.add_sub_cancel_left]
  | ifFalse p =>
    simp only [Guard.fits, decide_eq_true_eq] at h
    show Guard.ofCode (96 + p) = _
    unfold Guard.ofCode
    rw [if_neg (by omega), if_neg (by omega), if_neg (by omega), if_pos (by omega), Nat.add_sub_cancel_left]

theorem Guard.code_lt {g : Guard} (h : g.fits = true) : g.code < 128 := by
  cases g <;> simp only [Guard.fits, decide_eq_true_eq, Guard.code] at h ⊢ <;> omega

theorem bit_lt (b : Bool) : bit b < 2 := by cases b <;> decide

theorem bit_beq (b : Bool) : (bit b == 1) = b := by cases b <;> rfl

/-- The fields of a ROUNDED word name it. -/
theorem Rounded.build_view {w : Rounded} (h : w.fits = true) {op : Nat} {i : Instr}
    (hb : ∀ m p, fBuild op w m p = some i) : (w.view op).build = some i := by
  simp only [Rounded.fits, Bool.and_eq_true, decide_eq_true_eq] at h
  obtain ⟨⟨⟨⟨⟨hg, -⟩, -⟩, -⟩, -⟩, hs⟩ := h
  have hr := Rnd.ofCode_code w.rnd
  have hx : (w.rnd.code * 16 + bit w.sat * 8 + w.sub) / 16 = w.rnd.code := by
    have := bit_lt w.sat; omega
  have hsat : (w.rnd.code * 16 + bit w.sat * 8 + w.sub) / 8 % 2 = bit w.sat := by
    have := bit_lt w.sat; omega
  have hsub : (w.rnd.code * 16 + bit w.sat * 8 + w.sub) % 8 = w.sub := by omega
  simp only [Rounded.view, View.build, Guard.ofCode_code hg, Tag.ofCode_code, hx, hr, hsat, hsub, bit_beq]
  exact hb _ _

/-- The fields of a MATRIX word name it. -/
theorem MatrixW.build_view {w : MatrixW} (h : w.fits = true) {op : Nat} {i : Instr}
    (hb : ∀ r p, fBuild op r w p = some i) : (w.view op).build = some i := by
  simp only [MatrixW.fits, Bool.and_eq_true, decide_eq_true_eq] at h
  obtain ⟨⟨⟨⟨⟨⟨hg, -⟩, -⟩, -⟩, -⟩, hm⟩, hn⟩ := h
  have h1 : (w.mode * 8 + w.n) / 16 < 4 := by omega
  have hr : ∃ r, Rnd.ofCode ((w.mode * 8 + w.n) / 16) = some r := by
    generalize (w.mode * 8 + w.n) / 16 = k at h1
    match k, h1 with
    | 0, _ => exact ⟨_, rfl⟩
    | 1, _ => exact ⟨_, rfl⟩
    | 2, _ => exact ⟨_, rfl⟩
    | 3, _ => exact ⟨_, rfl⟩
  obtain ⟨r, hr⟩ := hr
  have hm' : (w.mode * 8 + w.n) / 8 % 4 = w.mode := by omega
  have hn' : (w.mode * 8 + w.n) % 8 = w.n := by omega
  simp only [MatrixW.view, View.build, Guard.ofCode_code hg, Tag.ofCode_code, hr, hm', hn']
  exact hb _ _

/-- The fields of a PLAIN word name it. -/
theorem Plain.build_view {w : Plain} (h : w.fits = true) {op : Nat} {i : Instr}
    (hb : ∀ r m, fBuild op r m w = some i) : (w.view op).build = some i := by
  simp only [Plain.fits, Bool.and_eq_true, decide_eq_true_eq] at h
  obtain ⟨⟨⟨⟨⟨hg, -⟩, -⟩, -⟩, -⟩, hx⟩ := h
  have h1 : w.opx / 16 < 4 := by omega
  have hr : ∃ r, Rnd.ofCode (w.opx / 16) = some r := by
    generalize w.opx / 16 = k at h1
    match k, h1 with
    | 0, _ => exact ⟨_, rfl⟩
    | 1, _ => exact ⟨_, rfl⟩
    | 2, _ => exact ⟨_, rfl⟩
    | 3, _ => exact ⟨_, rfl⟩
  obtain ⟨r, hr⟩ := hr
  simp only [Plain.view, View.build, Guard.ofCode_code hg, Tag.ofCode_code, hr]
  exact hb _ _

/-- The fields of an I-form word name it. -/
theorem Imm.build_view {w : Imm} (h : w.fits = true) {op : Nat} {i : Instr} (hb : iBuild op w = some i) :
    (w.view op).build = some i := by
  simp only [Imm.fits, Bool.and_eq_true, decide_eq_true_eq] at h
  simp only [Imm.view, View.build, Guard.ofCode_code h.1.1.1]
  exact hb

/-- The fields of an M-form word name it. -/
theorem MemW.build_view {w : MemW} (h : w.fits = true) {op : Nat} {i : Instr} (hb : mBuild op w = some i) :
    (w.view op).build = some i := by
  simp only [MemW.fits, Bool.and_eq_true, decide_eq_true_eq] at h
  simp only [MemW.view, View.build, Guard.ofCode_code h.1.1.1.1.1.1.1, Tag.ofCode_code, Scope.ofCode_code, bit_beq]
  exact hb

/-- The fields of a half name it. -/
theorem Half.build_fields (op : PairOp) (h : Half) : (h.fields op).build = some (op, h) := by
  simp only [Half.fields, HalfFields.build, PairOp.ofCode_code, Tag.ofCode_code, Rnd.ofCode_code, bit_beq]

/-- The fields of a paired word name it. -/
theorem Half.build_view (op0 op1 : PairOp) (h0 h1 : Half) : (h0.view op0 op1 h1).build = some (pBuild op0 h0 op1 h1) := by
  simp only [Half.view, View.build, Half.build_fields]

end Sys2Proof
end

