-- ==== Sys2Proof/Laws/Issue.lean ====
section
/-!
SUPPORT. What the shared issue of a word does, said once: a word whose threads all pass completes (`laneWord_done`,
`laneWord_register`), and a commit-class word performs itself after its commit (`commitWord_done`).
-/

namespace Sys2Proof.Machine

open Sys2Proof

/-! ### Outcomes that all pass -/

/-- The outcomes of threads that all pass. -/
def allOk (oks : List (Thread × Eff)) : List (Thread × LaneRes Eff) := oks.map fun o => (o.1, .ok o.2)

@[simp] theorem firstNoMem_allOk (oks : List (Thread × Eff)) : firstNoMem (allOk oks) = none := by
  simp only [firstNoMem, allOk, List.findSome?_map, List.findSome?_eq_none_iff]
  intro o _; rfl

@[simp] theorem firstPoison_allOk (oks : List (Thread × Eff)) : firstPoison (allOk oks) = none := by
  simp only [firstPoison, allOk, List.findSome?_map, List.findSome?_eq_none_iff]
  intro o _; rfl

@[simp] theorem anyWait_allOk (oks : List (Thread × Eff)) : anyWait (allOk oks) = false := by
  simp [anyWait, allOk]

@[simp] theorem trapsOf_allOk (oks : List (Thread × Eff)) : trapsOf (allOk oks) = [] := by
  simp [trapsOf, allOk]

@[simp] theorem faultsOf_allOk (oks : List (Thread × Eff)) : faultsOf (allOk oks) = [] := by
  simp [faultsOf, allOk]

@[simp] theorem oksOf_allOk (oks : List (Thread × Eff)) : oksOf (allOk oks) = oks := by
  simp [oksOf, allOk, List.filterMap_map]

/-- Threads that all pass go on together. -/
theorem combine_allOk (s : State) (leads : Bool) (g : Group) (b : Block) (xs : List Thread) (oks : List (Thread × Eff))
    (go : State → List Thread → List (Thread × Eff) → Out) :
    s.combine leads g b xs (allOk oks) go = go (s.dropAsks s.sched.cur) xs oks := by
  simp [State.combine, alignedTraps]

/-- Aligning the offsets of ALIGN leaves the threads that trap as they are. -/
@[simp] theorem alignedTraps_any (ts : List (Nat × Nat × Nat)) (tid : Nat) :
    ((alignedTraps ts).any fun t => t.1 == tid) = ts.any fun t => t.1 == tid := by
  unfold alignedTraps
  split
  · rw [List.any_map]; congr 1; funext t; simp only [Function.comp]; split <;> rfl
  · rfl

@[simp] theorem alignedTraps_eq_nil (ts : List (Nat × Nat × Nat)) : alignedTraps ts = [] ↔ ts = [] := by
  unfold alignedTraps
  split <;> simp

/-- The outcomes of threads that all take an exception. -/
def allTraps (act : List Thread) (why : Thread → Nat × Nat) : List (Thread × LaneRes Eff) :=
  act.map fun x => (x, .trap (why x).1 (why x).2)

@[simp] theorem firstNoMem_allTraps (act : List Thread) (why : Thread → Nat × Nat) : firstNoMem (allTraps act why) = none := by
  simp only [firstNoMem, allTraps, List.findSome?_map, List.findSome?_eq_none_iff]
  intro o _; rfl

@[simp] theorem firstPoison_allTraps (act : List Thread) (why : Thread → Nat × Nat) : firstPoison (allTraps act why) = none := by
  simp only [firstPoison, allTraps, List.findSome?_map, List.findSome?_eq_none_iff]
  intro o _; rfl

@[simp] theorem anyWait_allTraps (act : List Thread) (why : Thread → Nat × Nat) : anyWait (allTraps act why) = false := by
  simp [anyWait, allTraps]

@[simp] theorem trapsOf_allTraps (act : List Thread) (why : Thread → Nat × Nat) :
    trapsOf (allTraps act why) = act.map fun x => (x.tid, why x) := by
  simp [trapsOf, allTraps, List.filterMap_map]

@[simp] theorem faultsOf_allTraps (act : List Thread) (why : Thread → Nat × Nat) : faultsOf (allTraps act why) = [] := by
  simp [faultsOf, allTraps]

@[simp] theorem oksOf_allTraps (act : List Thread) (why : Thread → Nat × Nat) : oksOf (allTraps act why) = [] := by
  simp [oksOf, allTraps]

/-- A store of no piece leaves nothing clean. -/
@[simp] theorem wholeOf_nil (g : Nat) : wholeOf g [] = [] := rfl

@[simp] theorem State.mend_nil (s : State) (core : Nat) : s.mend core [] = s := by
  have h32 : wholeOf 32 ((([] : List Piece).filter fun p => p.scratch.isNone && p.peer.isNone).flatMap fun p =>
      (s.writeAddrs p).map fun a => (a, p.len)) = [] := rfl
  unfold State.mend
  simp only [h32]
  simp [Mem.dropPoison]

/-- Nothing that a word performs is nothing to sample, and takes no request. -/
@[simp] theorem State.sampleWord_nil (s : State) (b : Block) (gid issue : Nat) : s.sampleWord b gid issue [] = s := rfl

@[simp] theorem effectLines_nil (pinned : Bool) : effectLines pinned [] = [] := by cases pinned <;> rfl

/-- A word that no thread passes only moves its threads on. -/
theorem complete_nobody (s : State) (g : Group) (b : Block) (xs : List Thread) :
    s.complete g b xs [] = .next ((s.bump.stepPcs b xs []).regroup g.gid) := by
  unfold State.complete
  have e1 : ∀ pin, (s.putLanes b g.gid pin []).branchTrace g b pin xs [] = s.bump := fun _ => by
    simp [State.putLanes, State.branchTrace]
  have e2 : s.bump.items = s.items := rfl
  simp [e1, e2, portFull]

/-- Where every active thread takes an exception, the word is `State.trapThose` (R239). -/
theorem combine_allTraps {s : State} {leads : Bool} {g : Group} {b : Block} {act : List Thread} {why : Thread → Nat × Nat}
    (hne : act ≠ []) :
    s.combine leads g b (g.issuers b) (allTraps act why) (fun s xs oks => s.complete g b xs oks)
      = .next (s.trapThose g b (act.map fun x => (x.tid, why x)) leads) := by
  unfold State.combine State.trapThose
  simp only [firstNoMem_allTraps, firstPoison_allTraps, anyWait_allTraps, trapsOf_allTraps, faultsOf_allTraps, oksOf_allTraps,
    Bool.false_eq_true, if_false]
  have hn : alignedTraps (act.map fun x => (x.tid, why x)) ≠ [] := by simpa using hne
  have ht : (s.dropAsks s.sched.cur).tmode b.ctx = s.tmode b.ctx := rfl
  have hf : ∀ x : Thread, ((alignedTraps (act.map fun x => (x.tid, why x))).any fun t => t.1 == x.tid)
      = (act.map fun x => (x.tid, why x)).any fun t => t.1 == x.tid := fun x => alignedTraps_any _ _
  generalize alignedTraps (act.map fun x => (x.tid, why x)) = ts at hn hf ⊢
  cases ts with
  | nil => exact absurd rfl hn
  | cons t ts =>
    simp only [ht, hf, ne_eq, not_true_eq_false, if_false, complete_nobody]
    cases s.tmode b.ctx <;> simp
    split <;> simp_all

/-- Lanes that no log orders are performed one after another (R121). -/
theorem runWord_free {ls : List WordLane} (h : ∀ l ∈ ls, l.1 = none) (s : State) :
    State.runWord ls s = ls.foldl (fun t l => l.2 t) s := by
  induction ls generalizing s with
  | nil => rfl
  | cons l ls ih =>
    obtain ⟨k, act⟩ := l
    have hk : k = none := h _ List.mem_cons_self
    subst hk
    exact ih (fun m hm => h m (List.mem_cons_of_mem _ hm)) (act s)

/-- The checks of R238 that a word makes for a thread all pass. -/
def Screened (fs : List Form) (act : List Thread) (x : Thread) : Prop :=
  (if x.mid || (fs.any Form.leader && !(isLeader act x)) then none else checkAll x fs) = none

theorem Screened.of_check {fs : List Form} {act : List Thread} {x : Thread} (h : checkAll x fs = none) :
    Screened fs act x := by
  unfold Screened; rw [h, ite_self]

/-- Lanes whose checks and effects all pass. -/
theorem runLanes_pass {fs : List Form} {lane : LaneFn} {b : Block} {act : List Thread} :
    ∀ {xs : List Thread} {s s' : State} {oks : List (Thread × Eff)},
      (∀ x ∈ xs, Screened fs act x) → lanesPass lane b act xs s = some (s', oks) →
      runLanes fs lane b act xs s = (s', allOk oks)
  | [], s, s', oks, _, h => by
    simp only [lanesPass, Option.some.injEq, Prod.mk.injEq] at h
    simp [runLanes, allOk, h.1, ← h.2]
  | x :: xs, s, s', oks, hc, h => by
    simp only [lanesPass] at h
    split at h
    · next s1 e hl =>
      simp only [Option.map_eq_some_iff] at h
      obtain ⟨⟨s2, oks'⟩, h1, h2⟩ := h
      simp only [Prod.mk.injEq] at h2
      have ih := runLanes_pass (fun y hy => hc y (List.mem_cons_of_mem _ hy)) h1
      have hx : (if x.mid || (fs.any Form.leader && !(isLeader act x)) then none else checkAll x fs) = none :=
        hc x List.mem_cons_self
      simp only [runLanes, hx, hl, ih]
      simp [allOk, ← h2.1, ← h2.2]
    · cases h

/-- Lanes that leave the state alone all pass. -/
theorem lanesPass_pure {lane : LaneFn} {b : Block} {act : List Thread} {s : State} {e : Thread → Eff} :
    ∀ {xs : List Thread}, (∀ x ∈ xs, lane s b act x = (s, .ok (e x))) →
      lanesPass lane b act xs s = some (s, xs.map fun x => (x, e x))
  | [], _ => rfl
  | x :: xs, h => by
    simp only [lanesPass, h x List.mem_cons_self, List.map_cons]
    rw [lanesPass_pure fun y hy => h y (List.mem_cons_of_mem _ hy)]
    rfl

/-! ### A word that completes -/

/-- The port is not full for what it takes. -/
theorem PortTakes.room {t : State} {core part : Nat} {pinned : Bool} {oks : List (Thread × Eff)}
    (h : PortTakes t core part pinned oks) : portFull t core part pinned oks = false := by
  rcases h with h | h
  · have : (oks.any fun o => o.2.req.isSome) = false := by
      rw [List.any_eq_false]; intro o ho; rw [h.1 o ho]; decide
    rw [portFull, this, h.2]; rfl
  · rw [portFull, h]; simp

/-- What there is room for completes. -/
theorem complete_done {s : State} {g : Group} {b : Block} {oks : List (Thread × Eff)} (hr : RoomFor s g b oks) :
    (s.dropAsks s.sched.cur).complete g b (g.issuers b) oks = .next (s.wordDone g b oks) := by
  obtain ⟨h1, h2, h3, h4⟩ := hr
  have hk : ∀ p, (s.dropAsks s.sched.cur).lockedOut (s.dropAsks s.sched.cur).sched.nextId p = s.lockedOut s.sched.nextId p := fun _ => rfl
  have ho : ∀ t, (s.dropAsks s.sched.cur).outstanding b.uid t = s.outstanding b.uid t := fun _ => rfl
  have hp : ∀ t, (s.dropAsks s.sched.cur).pendingOf b.uid t = s.pendingOf b.uid t := fun _ => rfl
  have hn : ∀ t, (s.dropAsks s.sched.cur).openOf b.uid t = s.openOf b.uid t := fun _ => rfl
  have hq : ∀ m, (s.dropAsks s.sched.cur).queueRoom b.core m = s.queueRoom b.core m := fun _ => rfl
  unfold State.complete
  simp only [ho, hp, hn, hq, hk]
  have hbusy : (groupPinned (g.issuers b) && oks.any fun o => o.2.outside && (s.outstanding b.uid o.1.tid || s.pendingOf b.uid o.1.tid
      || o.2.effects.any fun f => f.pieces.any fun p => s.lockedOut s.sched.nextId p)) = false := by
    cases hg : groupPinned (g.issuers b) with
    | false => rfl
    | true =>
      simp only [Bool.true_and, List.any_eq_false]
      intro o hm
      cases hx : o.2.outside with
      | false => simp
      | true =>
        obtain ⟨ha, hb, -, hl⟩ := h1 hg o hm hx
        simpa [ha, hb] using hl
  have hfull : (groupPinned (g.issuers b) && oks.any fun o => o.2.commandMasks.any fun m => !(s.queueRoom b.core m)) = false := by
    cases hg : groupPinned (g.issuers b) with
    | false => rfl
    | true =>
      simp only [Bool.true_and, List.any_eq_false]
      intro o hm
      simp only [List.any_eq_true, not_exists, not_and]
      intro m hmm
      simp [h2 hg o hm m hmm]
  have hopen : (oks.filter fun o => groupPinned (g.issuers b) && o.2.outside && s.openOf b.uid o.1.tid) = [] := by
    rw [List.filter_eq_nil_iff]
    intro o hm
    cases hg : groupPinned (g.issuers b) with
    | false => simp
    | true =>
      cases hx : o.2.outside with
      | false => simp
      | true => have := h1 hg o hm hx; simp [this.2.2.1]
  have hquota : ¬ ((!groupPinned (g.issuers b)
      && decide ((s.dropAsks s.sched.cur).entriesTaken (s.effectsDone g b oks).items b > b.quota)
      && decide (entriesUsed (s.effectsDone g b oks).items b.uid > entriesUsed (s.dropAsks s.sched.cur).items b.uid)) = true) := by
    have hi : (s.dropAsks s.sched.cur).items = s.items := rfl
    have he : ∀ is, (s.dropAsks s.sched.cur).entriesTaken is b = s.entriesTaken is b := fun _ => rfl
    cases hg : groupPinned (g.issuers b) with
    | true => simp
    | false => have := h3 hg; simp only [Bool.not_false, Bool.true_and, Bool.and_eq_true, decide_eq_true_eq, hi, he]; omega
  rw [hbusy, hfull, hopen]
  simp only [Bool.or_self, Bool.false_eq_true, if_false, List.map_nil, List.isEmpty_nil, Bool.not_true]
  have hreq : ¬ (portFull (s.effectsDone g b oks) b.core g.part (groupPinned (g.issuers b)) oks = true) := by
    rw [h4.room]; decide
  unfold State.effectsDone at hquota hreq
  rw [if_neg hquota, if_neg hreq]
  rfl

/-- A word that no error of a datapath strikes goes on (R444). -/
theorem compared_clear {s : State} {g : Group} {b : Block} {act : List Thread} {kind : Nat} (h : s.glitchOf b act kind = none)
    (go : Out) : s.compared g b act kind go = go := by
  unfold State.compared; rw [h]

/-- A word whose threads all pass, with room for what they do, completes. -/
theorem laneWord_screened {f : Form} {fs : List Form} {mem : Bool} {kind : Nat} {lane : LaneFn} {s s' : State} {g : Group} {b : Block}
    {oks : List (Thread × Eff)} (hc : s.current = some (g, b)) (hu : Unhindered s b (f :: fs) mem kind (actives f.guard g b))
    (hp : ∀ x ∈ actives f.guard g b, Screened (f :: fs) (actives f.guard g b) x)
    (hl : lanesPass lane b (actives f.guard g b) (actives f.guard g b) s = some (s', oks)) (hr : RoomFor s' g b oks) :
    laneWord (f :: fs) mem kind lane s = .next (s'.wordDone g b oks) := by
  have hany : ((actives f.guard g b).any fun x => ((f :: fs).any fun f => s.hazard b.uid x.tid f)
      || (mem && s.acquiring b.uid x.tid) || s.awaiting b.uid x.tid) = false := by
    rw [List.any_eq_false]
    intro x hx
    obtain ⟨ha, hb, hcc⟩ := hu.1 x hx
    have : ((f :: fs).any fun f => s.hazard b.uid x.tid f) = false := by
      rw [List.any_eq_false]; intro f hf; simp [ha f hf]
    rw [this, hcc]
    cases mem with
    | false => simp
    | true => simp [hb rfl]
  unfold laneWord
  rw [hc]
  change (if ((actives f.guard g b).any fun x => ((f :: fs).any fun f => s.hazard b.uid x.tid f)
      || (mem && s.acquiring b.uid x.tid) || s.awaiting b.uid x.tid) = true then _ else _) = _
  rw [hany, if_neg Bool.false_ne_true]
  change s.compared g b (actives f.guard g b) kind _ = _
  rw [compared_clear hu.2]
  change (runLanes (f :: fs) lane b (actives f.guard g b) (actives f.guard g b) s).1.combine _ g b _
    (runLanes (f :: fs) lane b (actives f.guard g b) (actives f.guard g b) s).2 _ = _
  rw [runLanes_pass hp hl, combine_allOk]
  exact complete_done hr

/-- The same where every thread passes every check. -/
theorem laneWord_done {f : Form} {fs : List Form} {mem : Bool} {kind : Nat} {lane : LaneFn} {s s' : State} {g : Group} {b : Block}
    {oks : List (Thread × Eff)} (hc : s.current = some (g, b)) (hu : Unhindered s b (f :: fs) mem kind (actives f.guard g b))
    (hp : Passes (f :: fs) (actives f.guard g b))
    (hl : lanesPass lane b (actives f.guard g b) (actives f.guard g b) s = some (s', oks)) (hr : RoomFor s' g b oks) :
    laneWord (f :: fs) mem kind lane s = .next (s'.wordDone g b oks) :=
  laneWord_screened hc hu (fun x hx => .of_check (hp x hx)) hl hr

/-- Lanes that read memory one after another. -/
theorem lanesPass_access {op : Thread → AccOp} {at1 : Thread → CapReg × Int × Nat × Nat} {b : Block} {act : List Thread}
    {e : Thread → State → List Piece → Eff} {lane : LaneFn} :
    ∀ {xs : List Thread} {s s' : State} {qs : List (Thread × State × List Piece)},
      (∀ x ∈ xs, ∀ s s1 ps, s.access b (at1 x).1 (at1 x).2.1 (at1 x).2.2.1 (at1 x).2.2.2 (op x) = (s1, .ok ps) →
        lane s b act x = (s1, .ok (e x s1 ps))) →
      accessesPass op at1 b xs s = some (s', qs) → lanesPass lane b act xs s = some (s', withPieces qs e)
  | [], s, s', qs, _, h => by
    simp only [accessesPass, Option.some.injEq, Prod.mk.injEq] at h
    simp [lanesPass, withPieces, h.1, ← h.2]
  | x :: xs, s, s', qs, hl, h => by
    simp only [accessesPass] at h
    split at h
    · next s1 ps ha =>
      simp only [Option.map_eq_some_iff] at h
      obtain ⟨⟨s2, qs'⟩, h1, h2⟩ := h
      simp only [Prod.mk.injEq] at h2
      have ih := lanesPass_access (fun y hy => hl y (List.mem_cons_of_mem _ hy)) h1
      simp only [lanesPass, hl x List.mem_cons_self _ _ _ ha, ih]
      simp [withPieces, ← h2.1, ← h2.2]
    · cases h

/-! ### A commit-class word that completes -/

/-- A commit-class word of which no thread is active goes on like `nop`. -/
theorem commitWord_idle {f : Form} {fs : List Form} {drain : Item → Bool} {lane : LaneFn} {perform : PerformFn} {s : State} {g : Group}
    {b : Block} (hc : s.current = some (g, b)) (hm : ∀ x ∈ g.issuers b, x.mid = false) (ha : actives f.guard g b = []) :
    commitWord (f :: fs) drain lane perform s
      = .next (((s.dropAsks s.sched.cur).stepPcs b (g.issuers b) []).regroup g.gid) := by
  have hact : ((g.issuers b).filter fun x => x.mid || x.active f.guard) = [] := by
    rw [← ha]; unfold actives
    exact List.filter_congr fun x hx => by rw [hm x hx]; rfl
  have hg : s.glitchOf b [] 1 = none := by unfold State.glitchOf; split <;> simp
  unfold commitWord
  rw [hc]
  simp only [hact, List.any_nil, Bool.false_eq_true, if_false, compared_clear hg, runLanes]
  have : ([] : List (Thread × LaneRes Eff)) = allOk [] := rfl
  rw [this, combine_allOk]
  rfl

/-- A commit-class word whose threads all pass, and which need not wait, commits them and performs itself. -/
theorem commitWord_done {f : Form} {fs : List Form} {drain : Item → Bool} {lane : LaneFn} {perform : PerformFn} {s s' : State}
    {g : Group} {b b2 : Block} {oks : List (Thread × Eff)} (hc : s.current = some (g, b))
    (hm : ∀ x ∈ g.issuers b, x.mid = false)
    (ho : ∀ x ∈ actives f.guard g b, s.outstanding b.uid x.tid = false) (hg : s.glitchOf b (actives f.guard g b) 1 = none)
    (hp : ∀ x ∈ actives f.guard g b, Screened (f :: fs) (actives f.guard g b) x)
    (hl : lanesPass lane b (actives f.guard g b) (actives f.guard g b) s = some (s', oks)) (hne : oks ≠ [])
    (hd : Drained drain (s'.onCommit g b oks) b oks)
    (hb : (s'.onCommit g b oks).block? b.uid = some b2)
    (hq : PortTakes (perform (s'.onCommit g b oks) g b2 (standing b2 oks)).1 b.core g.part false oks) :
    commitWord (f :: fs) drain lane perform s
      = .next (let r := perform (s'.onCommit g b oks) g b2 (oks.map fun o => ((b2.thread? o.1.tid).getD o.1, o.2))
               if r.2 then r.1.afterCommits g b2 (g.issuers b) (oks.map fun o => ((b2.thread? o.1.tid).getD o.1, o.2))
               else r.1) := by
  have hact : ((g.issuers b).filter fun x => x.mid || x.active f.guard) = actives f.guard g b :=
    List.filter_congr fun x hx => by rw [hm x hx]; rfl
  have hout : ((actives f.guard g b).any fun x => s.outstanding b.uid x.tid) = false := by
    rw [List.any_eq_false]; intro x hx; simp [ho x hx]
  have hlane : ∀ (xs : List Thread) (s s' : State) (oks : List (Thread × Eff)), (∀ x ∈ xs, x.mid = false) →
      lanesPass lane b (actives f.guard g b) xs s = some (s', oks) →
      lanesPass (fun s b act x => if x.mid then (s, .ok { kept := x.kept }) else lane s b act x) b (actives f.guard g b) xs s
        = some (s', oks) := by
    intro xs
    induction xs with
    | nil => intro s s' oks _ h; exact h
    | cons x xs ih =>
      intro s s' oks hx h
      simp only [lanesPass, hx x List.mem_cons_self, Bool.false_eq_true, if_false] at h ⊢
      split at h
      · next s1 e he =>
        simp only [Option.map_eq_some_iff] at h
        obtain ⟨r, h1, h2⟩ := h
        rw [ih s1 r.1 r.2 (fun y hy => hx y (List.mem_cons_of_mem _ hy)) h1]
        simpa using h2
      · cases h
  have hmem : ∀ x ∈ actives f.guard g b, x.mid = false := fun x hx => hm x (List.mem_filter.1 hx).1
  unfold commitWord
  rw [hc]
  simp only [hact, hout, Bool.false_eq_true, if_false, compared_clear hg]
  rw [runLanes_pass hp (hlane _ _ _ _ hmem hl), combine_allOk]
  have hemp : oks.isEmpty = false := by cases oks <;> simp_all
  simp only [hemp, Bool.false_eq_true, if_false]
  unfold State.commitPerform
  have hfresh : ((oks.map fun o => o.1.tid).filter fun t => !((g.issuers b).any fun x => x.tid == t && x.mid))
      = oks.map fun o => o.1.tid := by
    rw [List.filter_eq_self]
    intro t _
    simp only [Bool.not_eq_true', List.any_eq_false]
    intro x hx
    simp [hm x hx]
  simp only [hfresh]
  have hne2 : (oks.map fun o => o.1.tid).isEmpty = false := by cases oks <;> simp_all
  simp only [hne2, Bool.false_eq_true, if_false]
  have hcom : ((((s'.dropAsks s'.sched.cur).retire b (oks.map fun o => o.1.tid)).commitAll b (oks.map fun o => o.1.tid)).commitTrace b
      (oks.map fun o => o.1.tid) 1 g.pc) = s'.onCommit g b oks := rfl
  rw [hcom]
  have hpend : ((oks.map fun o => o.1.tid).any fun t => (s'.onCommit g b oks).pendingIn drain b.uid t) = false := by
    rw [List.any_eq_false]
    intro t ht
    obtain ⟨o, ho, rfl⟩ := List.mem_map.1 ht
    simp [hd o ho]
  rw [hpend, if_neg Bool.false_ne_true, hb]
  refine if_neg ?_
  have hroom := hq.room
  unfold standing at hroom
  rw [hroom]; decide

/-! ### Words that change registers alone -/

theorem Eff.inner_vec (d : Nat) (t : Tag) (x : Word) : (Eff.vec d t x).inner := ⟨rfl, rfl, rfl⟩

theorem Eff.inner_outside {e : Eff} (h : e.inner) : e.outside = false := by
  simp [Eff.outside, h.1, h.2.2]

theorem Eff.inner_masks {e : Eff} (h : e.inner) : e.commandMasks = [] := by
  simp [Eff.commandMasks, h.1]

theorem putLane_inner (s : State) (b : Block) (gid issue : Nat) (pinned : Bool) (x : Thread) {e : Eff} (h : e.inner) :
    s.putLane b gid issue pinned (x, e) = s.updThread b.uid x.tid fun y => y.apply e := by
  cases pinned <;> simp [State.putLane, State.putEffects, State.putRequest, h.1, h.2.1, h.2.2]

/-- The threads of a word that changes registers alone, each with its effect. -/
def State.applyAll (s : State) (uid : Nat) (oks : List (Thread × Eff)) : State :=
  oks.foldl (fun t o => t.updThread uid o.1.tid fun y => y.apply o.2) s

theorem putLanes_inner (s : State) (b : Block) (gid : Nat) (pinned : Bool) {oks : List (Thread × Eff)}
    (h : ∀ o ∈ oks, o.2.inner) : s.putLanes b gid pinned oks = s.bump.applyAll b.uid oks := by
  have hf : ∀ t : State, oks.foldl (fun t xe => t.putLane b gid s.sched.nextId pinned xe) t = t.applyAll b.uid oks := by
    unfold State.applyAll
    induction oks with
    | nil => intro t; rfl
    | cons o os ih =>
      intro t
      simp only [List.foldl_cons]
      rw [putLane_inner _ _ _ _ _ _ (h o List.mem_cons_self)]
      exact ih (fun o ho => h o (List.mem_cons_of_mem _ ho)) _
  have hs : (oks.flatMap fun o => o.2.effects.flatMap Effect.stores) = [] := by
    rw [List.flatMap_eq_nil_iff]
    intro o ho
    rw [(h o ho).1]; rfl
  have he : (oks.flatMap fun o => (o.2.effects.filter fun f => !(s.bump.deferred b.ctx f)).map fun f => (o.1.tid, f)) = [] := by
    rw [List.flatMap_eq_nil_iff]
    intro o ho
    rw [(h o ho).1]; rfl
  have hw : s.bump.sampleWord b gid s.sched.nextId oks = s.bump := by unfold State.sampleWord; rw [he]; rfl
  unfold State.putLanes
  simp only [hf, hs, hw, State.mend_nil, ite_self]

/-- A fold of thread updates leaves every field but the blocks alone. -/
theorem applyAll_blocks (s : State) (uid : Nat) (oks : List (Thread × Eff)) :
    s.applyAll uid oks = { s with blocks := (s.applyAll uid oks).blocks } := by
  unfold State.applyAll
  induction oks generalizing s with
  | nil => rfl
  | cons o os ih => simp only [List.foldl_cons]; rw [ih]; rfl

theorem trace_dbg (s : State) (b : Block) (tid type info d4 d5 d7 : Nat) (held : Option (Nat × Nat × Nat)) :
    s.trace b tid type info d4 d5 d7 held
      = { s with sched := (s.trace b tid type info d4 d5 d7 held).sched, dbg := (s.trace b tid type info d4 d5 d7 held).dbg } := by
  unfold State.trace State.fileRecord
  split
  · simp only; split <;> rfl
  · rfl

theorem branchTrace_dbg (s : State) (g : Group) (b : Block) (pinned : Bool) (xs : List Thread) (oks : List (Thread × Eff)) :
    s.branchTrace g b pinned xs oks
      = { s with sched := (s.branchTrace g b pinned xs oks).sched, dbg := (s.branchTrace g b pinned xs oks).dbg } := by
  unfold State.branchTrace
  simp only
  split
  · rfl
  · exact trace_dbg ..

theorem branchTrace_items (s : State) (g : Group) (b : Block) (pinned : Bool) (xs : List Thread) (oks : List (Thread × Eff)) :
    (s.branchTrace g b pinned xs oks).items = s.items := by rw [branchTrace_dbg]

theorem branchTrace_reqs (s : State) (g : Group) (b : Block) (pinned : Bool) (xs : List Thread) (oks : List (Thread × Eff)) :
    (s.branchTrace g b pinned xs oks).reqs = s.reqs := by rw [branchTrace_dbg]

/-- There is always room for what changes registers alone. -/
theorem roomFor_inner {s : State} {g : Group} {b : Block} {oks : List (Thread × Eff)} (h : ∀ o ∈ oks, o.2.inner) :
    RoomFor s g b oks := by
  refine ⟨fun _ o ho hx => ?_, fun _ o ho m hm => ?_, fun _ => .inr ?_, .inl ⟨fun o ho => (h o ho).2.1, ?_⟩⟩
  · rw [Eff.inner_outside (h o ho)] at hx; cases hx
  · rw [Eff.inner_masks (h o ho)] at hm; cases hm
  · unfold State.effectsDone
    rw [branchTrace_items, putLanes_inner _ _ _ _ h, applyAll_blocks]
    exact Nat.le_refl _
  · have hn : (oks.flatMap fun o => o.2.effects.flatMap fun f => peerLines f.pieces) = [] := by
      rw [List.flatMap_eq_nil_iff]
      intro o ho
      rw [(h o ho).1]; rfl
    unfold effectLines; rw [hn]; split <;> rfl

/-- A word whose threads all pass their checks and change registers alone completes. -/
theorem laneWord_register {f : Form} {fs : List Form} {mem : Bool} {kind : Nat} {lane : LaneFn} {s : State} {g : Group} {b : Block}
    {e : Thread → Eff} (hc : s.current = some (g, b)) (hu : Unhindered s b (f :: fs) mem kind (actives f.guard g b))
    (hp : Passes (f :: fs) (actives f.guard g b))
    (hl : ∀ x ∈ actives f.guard g b, lane s b (actives f.guard g b) x = (s, .ok (e x))) (he : ∀ x, (e x).inner) :
    laneWord (f :: fs) mem kind lane s = .next (s.wordDone g b ((actives f.guard g b).map fun x => (x, e x))) := by
  refine laneWord_done hc hu hp (lanesPass_pure hl) (roomFor_inner ?_)
  intro o ho
  obtain ⟨x, -, rfl⟩ := List.mem_map.1 ho
  exact he x

end Sys2Proof.Machine
end

