-- ==== Sys2Proof/Laws/Memory.lean ====
section
/-!
SUPPORT. Memory keeps its canonical form under every operation, a read gives what was written last, and a write leaves every
other byte alone.
-/

namespace Sys2Proof.Machine

open Sys2Proof

/-! ### Cells -/

theorem cellsFrom_mono {lo lo' : Nat} (h : lo' ≤ lo) : ∀ {cs : List Host.Cell}, cellsFrom lo cs = true → cellsFrom lo' cs = true
  | [], _ => rfl
  | (a, v) :: cs, hc => by
    simp only [cellsFrom, Bool.and_eq_true, decide_eq_true_eq] at hc ⊢
    exact ⟨⟨by omega, hc.1.2⟩, hc.2⟩

/-- Setting a byte keeps cells canonical. -/
theorem setCell_canonical (a : Nat) (v : Byte) :
    ∀ {cs : List Host.Cell} {lo : Nat}, lo ≤ a → cellsFrom lo cs = true → cellsFrom lo (setCell a v cs) = true
  | [], lo, hl, _ => by
    unfold setCell; split
    · rfl
    · next h => simp only [cellsFrom, Bool.and_eq_true, decide_eq_true_eq, bne_iff_ne]; exact ⟨⟨hl, h⟩, trivial⟩
  | (b, u) :: cs, lo, hl, hc => by
    simp only [cellsFrom, Bool.and_eq_true, decide_eq_true_eq] at hc
    unfold setCell
    split
    · next h =>
      simp only [cellsFrom, Bool.and_eq_true, decide_eq_true_eq]
      exact ⟨hc.1, setCell_canonical a v (by omega) hc.2⟩
    · split
      · next h1 h2 =>
        split
        · exact cellsFrom_mono (by omega) hc.2
        · next h3 =>
          simp only [cellsFrom, Bool.and_eq_true, decide_eq_true_eq, bne_iff_ne]
          exact ⟨⟨by omega, h3⟩, cellsFrom_mono (by omega) hc.2⟩
      · next h1 h2 =>
        split
        · simp only [cellsFrom, Bool.and_eq_true, decide_eq_true_eq]; exact hc
        · next h3 =>
          simp only [cellsFrom, Bool.and_eq_true, decide_eq_true_eq, bne_iff_ne]
          exact ⟨⟨hl, h3⟩, ⟨by omega, by simpa using hc.1.2⟩, hc.2⟩

/-- Setting a run of bytes keeps cells canonical. -/
theorem setCells_canonical : ∀ (a : Nat) (bs : List Byte) {cs : List Host.Cell},
    cellsFrom 0 cs = true → cellsFrom 0 (setCells a bs cs) = true
  | _, [], _, h => h
  | a, b :: bs, _, h => setCells_canonical (a + 1) bs (setCell_canonical a b (Nat.zero_le a) h)

theorem cellAt_below {a lo : Nat} (h : a < lo) : ∀ {cs : List Host.Cell}, cellsFrom lo cs = true → cellAt a cs = 0
  | [], _ => rfl
  | (b, v) :: cs, hc => by
    simp only [cellsFrom, Bool.and_eq_true, decide_eq_true_eq] at hc
    unfold cellAt
    rw [if_neg (by omega), if_neg (by omega)]

/-- A byte reads as it was set, and every other byte as before. -/
theorem cellAt_setCell (a : Nat) (v : Byte) (k : Nat) :
    ∀ {cs : List Host.Cell} {lo : Nat}, cellsFrom lo cs = true → cellAt k (setCell a v cs) = if k = a then v else cellAt k cs
  | [], _, _ => by
    unfold setCell
    by_cases hv : v = 0
    · simp [hv, cellAt]
    · simp only [hv, if_false, cellAt]
      by_cases hk : k = a
      · simp [hk]
      · rw [if_neg (fun e => hk e.symm), if_neg hk]; split <;> rfl
  | (b, u) :: cs, lo, hc => by
    simp only [cellsFrom, Bool.and_eq_true, decide_eq_true_eq] at hc
    have ih := cellAt_setCell a v k hc.2
    unfold setCell
    split
    · next h =>
      simp only [cellAt]
      split
      · next e => rw [if_neg (by omega)]
      · split
        · exact ih
        · rw [if_neg (by omega)]
    · split
      · next h1 h2 =>
        subst h2
        split
        · next hv =>
          by_cases hk : k = b
          · subst hk; rw [if_pos rfl, cellAt_below (Nat.lt_succ_self k) hc.2, hv]
          · rw [if_neg hk]
            simp only [cellAt]
            rw [if_neg (by omega)]
            split
            · rfl
            · exact cellAt_below (by omega) hc.2
        · simp only [cellAt]
          by_cases hk : k = b
          · subst hk; simp
          · have hb : ¬ b = k := fun e => hk e.symm
            rw [if_neg hk, if_neg hb, if_neg hb]
      · next h1 h2 =>
        split
        · next hv =>
          by_cases hk : k = a
          · subst hk
            rw [if_pos rfl, hv]
            simp only [cellAt]
            rw [if_neg (by omega), if_neg (by omega)]
          · rw [if_neg hk]
        · by_cases hk : k = a
          · subst hk; simp [cellAt]
          · rw [if_neg hk]
            simp only [cellAt]
            rw [if_neg (by omega)]
            split
            · rfl
            · rw [if_neg (by omega), if_neg (by omega)]

/-- A run of bytes reads as it was set, and every byte outside it as before. -/
theorem cellAt_setCells (k : Nat) : ∀ (a : Nat) (bs : List Byte) {cs : List Host.Cell}, cellsFrom 0 cs = true →
    cellAt k (setCells a bs cs) = if a ≤ k ∧ k < a + bs.length then bs.getD (k - a) 0 else cellAt k cs
  | a, [], cs, _ => by
    simp only [setCells, List.length_nil]; rw [if_neg (by omega)]
  | a, b :: bs, cs, h => by
    have h1 := setCell_canonical a b (Nat.zero_le a) h
    rw [setCells, cellAt_setCells k (a + 1) bs h1, cellAt_setCell a b k h]
    by_cases hk : k = a
    · subst hk
      rw [if_neg (by omega), if_pos rfl, if_pos (by simp)]
      simp
    · rw [if_neg hk]
      by_cases hr : a + 1 ≤ k ∧ k < a + 1 + bs.length
      · rw [if_pos hr, if_pos (by simp only [List.length_cons]; omega)]
        have : k - a = (k - (a + 1)) + 1 := by omega
        rw [this]; rfl
      · rw [if_neg hr, if_neg (by simp only [List.length_cons]; omega)]

/-! ### Sorted numbers -/

theorem risingFrom_mono {lo lo' : Nat} (h : lo' ≤ lo) : ∀ {l : List Nat}, risingFrom lo l = true → risingFrom lo' l = true
  | [], _ => rfl
  | a :: as, hc => by
    simp only [risingFrom, Bool.and_eq_true, decide_eq_true_eq] at hc ⊢
    exact ⟨by omega, hc.2⟩

theorem insertNat_rising (a : Nat) : ∀ {l : List Nat} {lo : Nat}, lo ≤ a → risingFrom lo l = true → risingFrom lo (insertNat a l) = true
  | [], lo, hl, _ => by simp [insertNat, risingFrom, hl]
  | b :: bs, lo, hl, hc => by
    have hc' := hc
    simp only [risingFrom, Bool.and_eq_true, decide_eq_true_eq] at hc'
    unfold insertNat
    split
    · simp only [risingFrom, Bool.and_eq_true, decide_eq_true_eq]
      exact ⟨hc'.1, insertNat_rising a (by omega) hc'.2⟩
    · split
      · exact hc
      · simp only [risingFrom, Bool.and_eq_true, decide_eq_true_eq]
        exact ⟨hl, by omega, hc'.2⟩

theorem eraseNat_rising (a : Nat) : ∀ {l : List Nat} {lo : Nat}, risingFrom lo l = true → risingFrom lo (eraseNat a l) = true
  | [], _, _ => rfl
  | b :: bs, lo, hc => by
    simp only [risingFrom, Bool.and_eq_true, decide_eq_true_eq] at hc
    unfold eraseNat
    split
    · exact risingFrom_mono (by omega) hc.2
    · simp only [risingFrom, Bool.and_eq_true, decide_eq_true_eq]
      exact ⟨hc.1, eraseNat_rising a hc.2⟩

theorem foldl_insertNat_rising : ∀ (ks : List Nat) {l : List Nat}, risingFrom 0 l = true →
    risingFrom 0 (ks.foldl (fun l k => insertNat k l) l) = true
  | [], _, h => h
  | k :: ks, _, h => foldl_insertNat_rising ks (insertNat_rising k (Nat.zero_le k) h)

theorem foldl_eraseNat_rising : ∀ (ks : List Nat) {l : List Nat}, risingFrom 0 l = true →
    risingFrom 0 (ks.foldl (fun l k => eraseNat k l) l) = true
  | [], _, h => h
  | k :: ks, _, h => foldl_eraseNat_rising ks (eraseNat_rising k h)

/-! ### Memory -/

theorem Mem.wf_iff (m : Mem) :
    m.wf = true ↔ cellsFrom 0 m.cells = true ∧ risingFrom 0 m.tags = true ∧ risingFrom 0 m.poison = true := by
  simp only [Mem.wf, Bool.and_eq_true, and_assoc]

theorem Mem.addPoison_wf {m : Mem} (h : m.wf = true) (ks : List Nat) : (m.addPoison ks).wf = true := by
  rw [Mem.wf_iff] at h ⊢
  exact ⟨h.1, h.2.1, foldl_insertNat_rising ks h.2.2⟩

theorem Mem.dropPoison_wf {m : Mem} (h : m.wf = true) (ks : List Nat) : (m.dropPoison ks).wf = true := by
  rw [Mem.wf_iff] at h ⊢
  exact ⟨h.1, h.2.1, foldl_eraseNat_rising ks h.2.2⟩

theorem Mem.dropTags_wf {m : Mem} (h : m.wf = true) (ks : List Nat) : (m.dropTags ks).wf = true := by
  rw [Mem.wf_iff] at h ⊢
  exact ⟨h.1, foldl_eraseNat_rising ks h.2.1, h.2.2⟩

/-- An ordinary write keeps memory canonical. -/
theorem Mem.write_wf {m : Mem} (h : m.wf = true) (a : Nat) (bs : List Byte) : (m.write a bs).wf = true := by
  have h1 : ({ m with cells := setCells a bs m.cells } : Mem).wf = true := by
    rw [Mem.wf_iff] at h ⊢
    exact ⟨setCells_canonical a bs h.1, h.2⟩
  exact Mem.dropPoison_wf (Mem.dropTags_wf h1 _) _

theorem Mem.store_wf {m : Mem} (h : m.wf = true) (a n v : Nat) : (m.store a n v).wf = true := Mem.write_wf h a _

theorem Mem.insertTag_wf {m : Mem} (h : m.wf = true) (k : Nat) : ({ m with tags := insertNat k m.tags } : Mem).wf = true := by
  rw [Mem.wf_iff] at h ⊢
  exact ⟨h.1, insertNat_rising k (Nat.zero_le k) h.2.1, h.2.2⟩

/-- A write of a granule with its tag keeps memory canonical. -/
theorem Mem.writeTagged_wf {m : Mem} (h : m.wf = true) (a : Nat) (bs : List Byte) (tag : Bool) :
    (m.writeTagged a bs tag).wf = true := by
  unfold Mem.writeTagged
  simp only
  split
  · exact Mem.insertTag_wf (Mem.write_wf h a bs) _
  · exact Mem.write_wf h a bs

/-- A byte of the written run reads as written; every other byte reads as before. -/
theorem Mem.byte_write {m : Mem} (h : m.wf = true) (a : Nat) (bs : List Byte) (k : Nat) :
    (m.write a bs).byte k = if a ≤ k ∧ k < a + bs.length then bs.getD (k - a) 0 else m.byte k := by
  rw [Mem.wf_iff] at h
  exact cellAt_setCells k a bs h.1

theorem cellsAt_length (cs : List Host.Cell) : ∀ (n a : Nat), (cellsAt cs a n).length = n
  | 0, _ => rfl
  | n + 1, a => by simp [cellsAt, cellsAt_length cs n (a + 1)]

/-- What was written is read back. -/
theorem Mem.bytes_write {m : Mem} (h : m.wf = true) (a : Nat) (bs : List Byte) : (m.write a bs).bytes a bs.length = bs := by
  have key : ∀ (n i : Nat), i + n = bs.length →
      cellsAt (setCells a bs m.cells) (a + i) n = bs.drop i := by
    intro n
    induction n with
    | zero => intro i hi; simp [cellsAt, List.drop_eq_nil_of_le (by omega : bs.length ≤ i)]
    | succ n ih =>
      intro i hi
      rw [cellsAt, cellAt_setCells _ a bs ((Mem.wf_iff m).1 h).1, if_pos (by omega)]
      rw [show a + i + 1 = a + (i + 1) by omega, ih (i + 1) (by omega)]
      have hlt : i < bs.length := by omega
      rw [show a + i - a = i by omega, List.getD_eq_getElem _ _ hlt, ← List.drop_eq_getElem_cons hlt]
  simpa [Mem.bytes, Mem.write, Mem.dropTags, Mem.dropPoison] using key bs.length 0 (by omega)

/-- A run of bytes apart from the written one reads as before. -/
theorem Mem.bytes_write_apart {m : Mem} (h : m.wf = true) (a : Nat) (bs : List Byte) (k n : Nat)
    (hd : k + n ≤ a ∨ a + bs.length ≤ k) : (m.write a bs).bytes k n = m.bytes k n := by
  have key : ∀ (n k : Nat), k + n ≤ a ∨ a + bs.length ≤ k → cellsAt (setCells a bs m.cells) k n = cellsAt m.cells k n := by
    intro n
    induction n with
    | zero => intro k _; rfl
    | succ n ih =>
      intro k hk
      rw [cellsAt, cellsAt, cellAt_setCells _ a bs ((Mem.wf_iff m).1 h).1, if_neg (by omega), ih (k + 1) (by omega)]
  simpa [Mem.bytes, Mem.write, Mem.dropTags, Mem.dropPoison] using key n k hd

/-- Memory at reset is canonical. -/
theorem Mem.reset_wf : State.reset.mem.wf = true := by decide

end Sys2Proof.Machine
end

