-- ==== Sys2Proof/Laws/PerInstr.lean ====
section
/-!
SUPPORT. The family `Builds`, one lemma for each constructor of `Instr`: an event or a command has no 64-bit word, and
the fields of a word whose operands fit name that very word (R277 to R289).
-/

namespace Sys2Proof.Laws.Builds

open Sys2Proof

/-- What holds of each constructor: it has no word, or the fields of its word name it. -/
def Statement (i : Instr) : Prop :=
  i.view = none ∨ (i.fits = true → ∃ v, i.view = some v ∧ v.build = some i)

theorem mov (w : Rounded) : Statement (.mov w) := .inr fun h => ⟨_, rfl, Rounded.build_view h fun _ _ => rfl⟩

theorem add (w : Rounded) : Statement (.add w) := .inr fun h => ⟨_, rfl, Rounded.build_view h fun _ _ => rfl⟩

theorem sub (w : Rounded) : Statement (.sub w) := .inr fun h => ⟨_, rfl, Rounded.build_view h fun _ _ => rfl⟩

theorem mul (w : Rounded) : Statement (.mul w) := .inr fun h => ⟨_, rfl, Rounded.build_view h fun _ _ => rfl⟩

theorem mulhi (w : Rounded) : Statement (.mulhi w) := .inr fun h => ⟨_, rfl, Rounded.build_view h fun _ _ => rfl⟩

theorem mad (w : Rounded) : Statement (.mad w) := .inr fun h => ⟨_, rfl, Rounded.build_view h fun _ _ => rfl⟩

theorem min (w : Rounded) : Statement (.min w) := .inr fun h => ⟨_, rfl, Rounded.build_view h fun _ _ => rfl⟩

theorem max (w : Rounded) : Statement (.max w) := .inr fun h => ⟨_, rfl, Rounded.build_view h fun _ _ => rfl⟩

theorem abs (w : Rounded) : Statement (.abs w) := .inr fun h => ⟨_, rfl, Rounded.build_view h fun _ _ => rfl⟩

theorem neg (w : Rounded) : Statement (.neg w) := .inr fun h => ⟨_, rfl, Rounded.build_view h fun _ _ => rfl⟩

theorem and (w : Rounded) : Statement (.and w) := .inr fun h => ⟨_, rfl, Rounded.build_view h fun _ _ => rfl⟩

theorem or (w : Rounded) : Statement (.or w) := .inr fun h => ⟨_, rfl, Rounded.build_view h fun _ _ => rfl⟩

theorem xor (w : Rounded) : Statement (.xor w) := .inr fun h => ⟨_, rfl, Rounded.build_view h fun _ _ => rfl⟩

theorem not (w : Rounded) : Statement (.not w) := .inr fun h => ⟨_, rfl, Rounded.build_view h fun _ _ => rfl⟩

theorem andn (w : Rounded) : Statement (.andn w) := .inr fun h => ⟨_, rfl, Rounded.build_view h fun _ _ => rfl⟩

theorem shl (w : Rounded) : Statement (.shl w) := .inr fun h => ⟨_, rfl, Rounded.build_view h fun _ _ => rfl⟩

theorem shr (w : Rounded) : Statement (.shr w) := .inr fun h => ⟨_, rfl, Rounded.build_view h fun _ _ => rfl⟩

theorem sar (w : Rounded) : Statement (.sar w) := .inr fun h => ⟨_, rfl, Rounded.build_view h fun _ _ => rfl⟩

theorem rot (w : Rounded) : Statement (.rot w) := .inr fun h => ⟨_, rfl, Rounded.build_view h fun _ _ => rfl⟩

theorem clz (w : Rounded) : Statement (.clz w) := .inr fun h => ⟨_, rfl, Rounded.build_view h fun _ _ => rfl⟩

theorem popc (w : Rounded) : Statement (.popc w) := .inr fun h => ⟨_, rfl, Rounded.build_view h fun _ _ => rfl⟩

theorem brev (w : Rounded) : Statement (.brev w) := .inr fun h => ⟨_, rfl, Rounded.build_view h fun _ _ => rfl⟩

theorem bfx (w : Rounded) : Statement (.bfx w) := .inr fun h => ⟨_, rfl, Rounded.build_view h fun _ _ => rfl⟩

theorem bfi (w : Rounded) : Statement (.bfi w) := .inr fun h => ⟨_, rfl, Rounded.build_view h fun _ _ => rfl⟩

theorem sel (w : Rounded) : Statement (.sel w) := .inr fun h => ⟨_, rfl, Rounded.build_view h fun _ _ => rfl⟩

theorem cmp (w : Rounded) : Statement (.cmp w) := .inr fun h => ⟨_, rfl, Rounded.build_view h fun _ _ => rfl⟩

theorem cvtI (w : Rounded) : Statement (.cvtI w) := .inr fun h => ⟨_, rfl, Rounded.build_view h fun _ _ => rfl⟩

theorem fadd (w : Rounded) : Statement (.fadd w) := .inr fun h => ⟨_, rfl, Rounded.build_view h fun _ _ => rfl⟩

theorem fsub (w : Rounded) : Statement (.fsub w) := .inr fun h => ⟨_, rfl, Rounded.build_view h fun _ _ => rfl⟩

theorem fmul (w : Rounded) : Statement (.fmul w) := .inr fun h => ⟨_, rfl, Rounded.build_view h fun _ _ => rfl⟩

theorem fma (w : Rounded) : Statement (.fma w) := .inr fun h => ⟨_, rfl, Rounded.build_view h fun _ _ => rfl⟩

theorem fms (w : Rounded) : Statement (.fms w) := .inr fun h => ⟨_, rfl, Rounded.build_view h fun _ _ => rfl⟩

theorem fnma (w : Rounded) : Statement (.fnma w) := .inr fun h => ⟨_, rfl, Rounded.build_view h fun _ _ => rfl⟩

theorem fmin (w : Rounded) : Statement (.fmin w) := .inr fun h => ⟨_, rfl, Rounded.build_view h fun _ _ => rfl⟩

theorem fmax (w : Rounded) : Statement (.fmax w) := .inr fun h => ⟨_, rfl, Rounded.build_view h fun _ _ => rfl⟩

theorem fabs (w : Rounded) : Statement (.fabs w) := .inr fun h => ⟨_, rfl, Rounded.build_view h fun _ _ => rfl⟩

theorem fneg (w : Rounded) : Statement (.fneg w) := .inr fun h => ⟨_, rfl, Rounded.build_view h fun _ _ => rfl⟩

theorem fcmp (w : Rounded) : Statement (.fcmp w) := .inr fun h => ⟨_, rfl, Rounded.build_view h fun _ _ => rfl⟩

theorem fclass (w : Rounded) : Statement (.fclass w) := .inr fun h => ⟨_, rfl, Rounded.build_view h fun _ _ => rfl⟩

theorem dot2 (w : Rounded) : Statement (.dot2 w) := .inr fun h => ⟨_, rfl, Rounded.build_view h fun _ _ => rfl⟩

theorem dot4 (w : Rounded) : Statement (.dot4 w) := .inr fun h => ⟨_, rfl, Rounded.build_view h fun _ _ => rfl⟩

theorem fscale (w : Rounded) : Statement (.fscale w) := .inr fun h => ⟨_, rfl, Rounded.build_view h fun _ _ => rfl⟩

theorem frint (w : Rounded) : Statement (.frint w) := .inr fun h => ⟨_, rfl, Rounded.build_view h fun _ _ => rfl⟩

theorem cvtF (w : Rounded) : Statement (.cvtF w) := .inr fun h => ⟨_, rfl, Rounded.build_view h fun _ _ => rfl⟩

theorem cvtFi (w : Rounded) : Statement (.cvtFi w) := .inr fun h => ⟨_, rfl, Rounded.build_view h fun _ _ => rfl⟩

theorem cvtIf (w : Rounded) : Statement (.cvtIf w) := .inr fun h => ⟨_, rfl, Rounded.build_view h fun _ _ => rfl⟩

theorem cvtQ (w : Rounded) : Statement (.cvtQ w) := .inr fun h => ⟨_, rfl, Rounded.build_view h fun _ _ => rfl⟩

theorem cvtM (w : Rounded) : Statement (.cvtM w) := .inr fun h => ⟨_, rfl, Rounded.build_view h fun _ _ => rfl⟩

theorem rcp (w : Rounded) : Statement (.rcp w) := .inr fun h => ⟨_, rfl, Rounded.build_view h fun _ _ => rfl⟩

theorem rsqrt (w : Rounded) : Statement (.rsqrt w) := .inr fun h => ⟨_, rfl, Rounded.build_view h fun _ _ => rfl⟩

theorem sqrt (w : Rounded) : Statement (.sqrt w) := .inr fun h => ⟨_, rfl, Rounded.build_view h fun _ _ => rfl⟩

theorem div (w : Rounded) : Statement (.div w) := .inr fun h => ⟨_, rfl, Rounded.build_view h fun _ _ => rfl⟩

theorem exp2 (w : Rounded) : Statement (.exp2 w) := .inr fun h => ⟨_, rfl, Rounded.build_view h fun _ _ => rfl⟩

theorem log2 (w : Rounded) : Statement (.log2 w) := .inr fun h => ⟨_, rfl, Rounded.build_view h fun _ _ => rfl⟩

theorem sin (w : Rounded) : Statement (.sin w) := .inr fun h => ⟨_, rfl, Rounded.build_view h fun _ _ => rfl⟩

theorem cos (w : Rounded) : Statement (.cos w) := .inr fun h => ⟨_, rfl, Rounded.build_view h fun _ _ => rfl⟩

theorem tanh (w : Rounded) : Statement (.tanh w) := .inr fun h => ⟨_, rfl, Rounded.build_view h fun _ _ => rfl⟩

theorem mset (w : MatrixW) : Statement (.mset w) := .inr fun h => ⟨_, rfl, MatrixW.build_view h fun _ _ => rfl⟩

theorem madd (w : MatrixW) : Statement (.madd w) := .inr fun h => ⟨_, rfl, MatrixW.build_view h fun _ _ => rfl⟩

theorem mmul (w : MatrixW) : Statement (.mmul w) := .inr fun h => ⟨_, rfl, MatrixW.build_view h fun _ _ => rfl⟩

theorem mmad (w : MatrixW) : Statement (.mmad w) := .inr fun h => ⟨_, rfl, MatrixW.build_view h fun _ _ => rfl⟩

theorem mtrans (w : MatrixW) : Statement (.mtrans w) := .inr fun h => ⟨_, rfl, MatrixW.build_view h fun _ _ => rfl⟩

theorem mvmul (w : MatrixW) : Statement (.mvmul w) := .inr fun h => ⟨_, rfl, MatrixW.build_view h fun _ _ => rfl⟩

theorem mchol (w : MatrixW) : Statement (.mchol w) := .inr fun h => ⟨_, rfl, MatrixW.build_view h fun _ _ => rfl⟩

theorem mlu (w : MatrixW) : Statement (.mlu w) := .inr fun h => ⟨_, rfl, MatrixW.build_view h fun _ _ => rfl⟩

theorem msolve (w : MatrixW) : Statement (.msolve w) := .inr fun h => ⟨_, rfl, MatrixW.build_view h fun _ _ => rfl⟩

theorem pand (w : Plain) : Statement (.pand w) := .inr fun h => ⟨_, rfl, Plain.build_view h fun _ _ => rfl⟩

theorem por (w : Plain) : Statement (.por w) := .inr fun h => ⟨_, rfl, Plain.build_view h fun _ _ => rfl⟩

theorem pxor (w : Plain) : Statement (.pxor w) := .inr fun h => ⟨_, rfl, Plain.build_view h fun _ _ => rfl⟩

theorem pnot (w : Plain) : Statement (.pnot w) := .inr fun h => ⟨_, rfl, Plain.build_view h fun _ _ => rfl⟩

theorem pmask (w : Plain) : Statement (.pmask w) := .inr fun h => ⟨_, rfl, Plain.build_view h fun _ _ => rfl⟩

theorem pset (w : Plain) : Statement (.pset w) := .inr fun h => ⟨_, rfl, Plain.build_view h fun _ _ => rfl⟩

theorem pack (w : Plain) : Statement (.pack w) := .inr fun h => ⟨_, rfl, Plain.build_view h fun _ _ => rfl⟩

theorem unpack (w : Plain) : Statement (.unpack w) := .inr fun h => ⟨_, rfl, Plain.build_view h fun _ _ => rfl⟩

theorem retag (w : Plain) : Statement (.retag w) := .inr fun h => ⟨_, rfl, Plain.build_view h fun _ _ => rfl⟩

theorem cmov (w : Plain) : Statement (.cmov w) := .inr fun h => ⟨_, rfl, Plain.build_view h fun _ _ => rfl⟩

theorem cincoff (w : Plain) : Statement (.cincoff w) := .inr fun h => ⟨_, rfl, Plain.build_view h fun _ _ => rfl⟩

theorem csetoff (w : Plain) : Statement (.csetoff w) := .inr fun h => ⟨_, rfl, Plain.build_view h fun _ _ => rfl⟩

theorem csetbnd (w : Plain) : Statement (.csetbnd w) := .inr fun h => ⟨_, rfl, Plain.build_view h fun _ _ => rfl⟩

theorem candperm (w : Plain) : Statement (.candperm w) := .inr fun h => ⟨_, rfl, Plain.build_view h fun _ _ => rfl⟩

theorem cget (w : Plain) : Statement (.cget w) := .inr fun h => ⟨_, rfl, Plain.build_view h fun _ _ => rfl⟩

theorem ctest (w : Plain) : Statement (.ctest w) := .inr fun h => ⟨_, rfl, Plain.build_view h fun _ _ => rfl⟩

theorem shfl (w : Plain) : Statement (.shfl w) := .inr fun h => ⟨_, rfl, Plain.build_view h fun _ _ => rfl⟩

theorem bcast (w : Plain) : Statement (.bcast w) := .inr fun h => ⟨_, rfl, Plain.build_view h fun _ _ => rfl⟩

theorem ballot (w : Plain) : Statement (.ballot w) := .inr fun h => ⟨_, rfl, Plain.build_view h fun _ _ => rfl⟩

theorem vote (w : Plain) : Statement (.vote w) := .inr fun h => ⟨_, rfl, Plain.build_view h fun _ _ => rfl⟩

theorem matchLanes (w : Plain) : Statement (.matchLanes w) := .inr fun h => ⟨_, rfl, Plain.build_view h fun _ _ => rfl⟩

theorem scan (w : Plain) : Statement (.scan w) := .inr fun h => ⟨_, rfl, Plain.build_view h fun _ _ => rfl⟩

theorem reduce (w : Plain) : Statement (.reduce w) := .inr fun h => ⟨_, rfl, Plain.build_view h fun _ _ => rfl⟩

theorem sort (w : Plain) : Statement (.sort w) := .inr fun h => ⟨_, rfl, Plain.build_view h fun _ _ => rfl⟩

theorem rank (w : Plain) : Statement (.rank w) := .inr fun h => ⟨_, rfl, Plain.build_view h fun _ _ => rfl⟩

theorem pacq (w : Plain) : Statement (.pacq w) := .inr fun h => ⟨_, rfl, Plain.build_view h fun _ _ => rfl⟩

theorem prel (w : Plain) : Statement (.prel w) := .inr fun h => ⟨_, rfl, Plain.build_view h fun _ _ => rfl⟩

theorem ppass (w : Plain) : Statement (.ppass w) := .inr fun h => ⟨_, rfl, Plain.build_view h fun _ _ => rfl⟩

theorem cpy (w : Plain) : Statement (.cpy w) := .inr fun h => ⟨_, rfl, Plain.build_view h fun _ _ => rfl⟩

theorem cpyg (w : Plain) : Statement (.cpyg w) := .inr fun h => ⟨_, rfl, Plain.build_view h fun _ _ => rfl⟩

theorem cpym (w : Plain) : Statement (.cpym w) := .inr fun h => ⟨_, rfl, Plain.build_view h fun _ _ => rfl⟩

theorem rack (w : Plain) : Statement (.rack w) := .inr fun h => ⟨_, rfl, Plain.build_view h fun _ _ => rfl⟩

theorem qfence (w : Plain) : Statement (.qfence w) := .inr fun h => ⟨_, rfl, Plain.build_view h fun _ _ => rfl⟩

theorem lbarm (w : Plain) : Statement (.lbarm w) := .inr fun h => ⟨_, rfl, Plain.build_view h fun _ _ => rfl⟩

theorem ecntAdd (w : Plain) : Statement (.ecntAdd w) := .inr fun h => by
  simp only [Instr.fits, Bool.and_eq_true, beq_iff_eq] at h
  exact ⟨_, rfl, Plain.build_view h.1 fun _ _ => by simp [fBuild, h.2]⟩

theorem ecntRd (w : Plain) : Statement (.ecntRd w) := .inr fun h => by
  simp only [Instr.fits, Bool.and_eq_true, beq_iff_eq] at h
  exact ⟨_, rfl, Plain.build_view h.1 fun _ _ => by simp [fBuild, h.2]⟩

theorem exlook (w : Plain) : Statement (.exlook w) := .inr fun h => ⟨_, rfl, Plain.build_view h fun _ _ => rfl⟩

theorem rbacq (w : Plain) : Statement (.rbacq w) := .inr fun h => ⟨_, rfl, Plain.build_view h fun _ _ => rfl⟩

theorem rbrel (w : Plain) : Statement (.rbrel w) := .inr fun h => ⟨_, rfl, Plain.build_view h fun _ _ => rfl⟩

theorem bar (w : Plain) : Statement (.bar w) := .inr fun h => ⟨_, rfl, Plain.build_view h fun _ _ => rfl⟩

theorem gbar (w : Plain) : Statement (.gbar w) := .inr fun h => ⟨_, rfl, Plain.build_view h fun _ _ => rfl⟩

theorem mon (w : Plain) : Statement (.mon w) := .inr fun h => ⟨_, rfl, Plain.build_view h fun _ _ => rfl⟩

theorem mwait (w : Plain) : Statement (.mwait w) := .inr fun h => ⟨_, rfl, Plain.build_view h fun _ _ => rfl⟩

theorem getsr (w : Plain) : Statement (.getsr w) := .inr fun h => ⟨_, rfl, Plain.build_view h fun _ _ => rfl⟩

theorem setsr (w : Plain) : Statement (.setsr w) := .inr fun h => ⟨_, rfl, Plain.build_view h fun _ _ => rfl⟩

theorem launch (w : Plain) : Statement (.launch w) := .inr fun h => ⟨_, rfl, Plain.build_view h fun _ _ => rfl⟩

theorem waitc (w : Plain) : Statement (.waitc w) := .inr fun h => ⟨_, rfl, Plain.build_view h fun _ _ => rfl⟩

theorem yield (w : Plain) : Statement (.yield w) := .inr fun h => ⟨_, rfl, Plain.build_view h fun _ _ => rfl⟩

theorem fpop (w : Plain) : Statement (.fpop w) := .inr fun h => ⟨_, rfl, Plain.build_view h fun _ _ => rfl⟩

theorem cancel (w : Plain) : Statement (.cancel w) := .inr fun h => ⟨_, rfl, Plain.build_view h fun _ _ => rfl⟩

theorem brk (w : Plain) : Statement (.brk w) := .inr fun h => ⟨_, rfl, Plain.build_view h fun _ _ => rfl⟩

theorem xget (w : Plain) : Statement (.xget w) := .inr fun h => ⟨_, rfl, Plain.build_view h fun _ _ => rfl⟩

theorem xput (w : Plain) : Statement (.xput w) := .inr fun h => ⟨_, rfl, Plain.build_view h fun _ _ => rfl⟩

theorem movi (w : Imm) : Statement (.movi w) := .inr fun h => ⟨_, rfl, Imm.build_view h rfl⟩

theorem movhi (w : Imm) : Statement (.movhi w) := .inr fun h => ⟨_, rfl, Imm.build_view h rfl⟩

theorem addi (w : Imm) : Statement (.addi w) := .inr fun h => ⟨_, rfl, Imm.build_view h rfl⟩

theorem andi (w : Imm) : Statement (.andi w) := .inr fun h => ⟨_, rfl, Imm.build_view h rfl⟩

theorem ori (w : Imm) : Statement (.ori w) := .inr fun h => ⟨_, rfl, Imm.build_view h rfl⟩

theorem cmpi (w : Imm) : Statement (.cmpi w) := .inr fun h => ⟨_, rfl, Imm.build_view h rfl⟩

theorem bra (w : Imm) : Statement (.bra w) := .inr fun h => ⟨_, rfl, Imm.build_view h rfl⟩

theorem call (w : Imm) : Statement (.call w) := .inr fun h => ⟨_, rfl, Imm.build_view h rfl⟩

theorem ret (w : Imm) : Statement (.ret w) := .inr fun h => ⟨_, rfl, Imm.build_view h rfl⟩

theorem jmpr (w : Imm) : Statement (.jmpr w) := .inr fun h => ⟨_, rfl, Imm.build_view h rfl⟩

theorem loop (w : Imm) : Statement (.loop w) := .inr fun h => ⟨_, rfl, Imm.build_view h rfl⟩

theorem reform (w : Imm) : Statement (.reform w) := .inr fun h => ⟨_, rfl, Imm.build_view h rfl⟩

theorem rgn (w : Imm) : Statement (.rgn w) := .inr fun h => ⟨_, rfl, Imm.build_view h rfl⟩

theorem exit (w : Imm) : Statement (.exit w) := .inr fun h => ⟨_, rfl, Imm.build_view h rfl⟩

theorem trap (w : Imm) : Statement (.trap w) := .inr fun h => ⟨_, rfl, Imm.build_view h rfl⟩

theorem assert (w : Imm) : Statement (.assert w) := .inr fun h => ⟨_, rfl, Imm.build_view h rfl⟩

theorem nop (w : Imm) : Statement (.nop w) := .inr fun h => ⟨_, rfl, Imm.build_view h rfl⟩

theorem rte (w : Imm) : Statement (.rte w) := .inr fun h => ⟨_, rfl, Imm.build_view h rfl⟩

theorem ld (w : MemW) : Statement (.ld w) := .inr fun h => ⟨_, rfl, MemW.build_view h rfl⟩

theorem ldacq (w : MemW) : Statement (.ldacq w) := .inr fun h => ⟨_, rfl, MemW.build_view h rfl⟩

theorem st (w : MemW) : Statement (.st w) := .inr fun h => ⟨_, rfl, MemW.build_view h rfl⟩

theorem strel (w : MemW) : Statement (.strel w) := .inr fun h => ⟨_, rfl, MemW.build_view h rfl⟩

theorem lds (w : MemW) : Statement (.lds w) := .inr fun h => ⟨_, rfl, MemW.build_view h rfl⟩

theorem sts (w : MemW) : Statement (.sts w) := .inr fun h => ⟨_, rfl, MemW.build_view h rfl⟩

theorem atomAdd (w : MemW) : Statement (.atomAdd w) := .inr fun h => ⟨_, rfl, MemW.build_view h rfl⟩

theorem atomMin (w : MemW) : Statement (.atomMin w) := .inr fun h => ⟨_, rfl, MemW.build_view h rfl⟩

theorem atomMax (w : MemW) : Statement (.atomMax w) := .inr fun h => ⟨_, rfl, MemW.build_view h rfl⟩

theorem atomAnd (w : MemW) : Statement (.atomAnd w) := .inr fun h => ⟨_, rfl, MemW.build_view h rfl⟩

theorem atomOr (w : MemW) : Statement (.atomOr w) := .inr fun h => ⟨_, rfl, MemW.build_view h rfl⟩

theorem atomXor (w : MemW) : Statement (.atomXor w) := .inr fun h => ⟨_, rfl, MemW.build_view h rfl⟩

theorem atomXchg (w : MemW) : Statement (.atomXchg w) := .inr fun h => ⟨_, rfl, MemW.build_view h rfl⟩

theorem atomCas (w : MemW) : Statement (.atomCas w) := .inr fun h => ⟨_, rfl, MemW.build_view h rfl⟩

theorem redAdd (w : MemW) : Statement (.redAdd w) := .inr fun h => ⟨_, rfl, MemW.build_view h rfl⟩

theorem redMin (w : MemW) : Statement (.redMin w) := .inr fun h => ⟨_, rfl, MemW.build_view h rfl⟩

theorem redMax (w : MemW) : Statement (.redMax w) := .inr fun h => ⟨_, rfl, MemW.build_view h rfl⟩

theorem redAnd (w : MemW) : Statement (.redAnd w) := .inr fun h => ⟨_, rfl, MemW.build_view h rfl⟩

theorem redOr (w : MemW) : Statement (.redOr w) := .inr fun h => ⟨_, rfl, MemW.build_view h rfl⟩

theorem redXor (w : MemW) : Statement (.redXor w) := .inr fun h => ⟨_, rfl, MemW.build_view h rfl⟩

theorem atomsAdd (w : MemW) : Statement (.atomsAdd w) := .inr fun h => ⟨_, rfl, MemW.build_view h rfl⟩

theorem atomsMin (w : MemW) : Statement (.atomsMin w) := .inr fun h => ⟨_, rfl, MemW.build_view h rfl⟩

theorem atomsMax (w : MemW) : Statement (.atomsMax w) := .inr fun h => ⟨_, rfl, MemW.build_view h rfl⟩

theorem atomsAnd (w : MemW) : Statement (.atomsAnd w) := .inr fun h => ⟨_, rfl, MemW.build_view h rfl⟩

theorem atomsOr (w : MemW) : Statement (.atomsOr w) := .inr fun h => ⟨_, rfl, MemW.build_view h rfl⟩

theorem atomsXor (w : MemW) : Statement (.atomsXor w) := .inr fun h => ⟨_, rfl, MemW.build_view h rfl⟩

theorem atomsXchg (w : MemW) : Statement (.atomsXchg w) := .inr fun h => ⟨_, rfl, MemW.build_view h rfl⟩

theorem atomsCas (w : MemW) : Statement (.atomsCas w) := .inr fun h => ⟨_, rfl, MemW.build_view h rfl⟩

theorem wsum (w : MemW) : Statement (.wsum w) := .inr fun h => ⟨_, rfl, MemW.build_view h rfl⟩

theorem wrd (w : MemW) : Statement (.wrd w) := .inr fun h => ⟨_, rfl, MemW.build_view h rfl⟩

theorem mld (w : MemW) : Statement (.mld w) := .inr fun h => ⟨_, rfl, MemW.build_view h rfl⟩

theorem mst (w : MemW) : Statement (.mst w) := .inr fun h => ⟨_, rfl, MemW.build_view h rfl⟩

theorem ldcap (w : MemW) : Statement (.ldcap w) := .inr fun h => ⟨_, rfl, MemW.build_view h rfl⟩

theorem stcap (w : MemW) : Statement (.stcap w) := .inr fun h => ⟨_, rfl, MemW.build_view h rfl⟩

theorem fence (w : MemW) : Statement (.fence w) := .inr fun h => ⟨_, rfl, MemW.build_view h rfl⟩

theorem prefetch (w : MemW) : Statement (.prefetch w) := .inr fun h => ⟨_, rfl, MemW.build_view h rfl⟩

theorem cachectlWb (w : MemW) : Statement (.cachectlWb w) := .inr fun h => by
  simp only [Instr.fits, Bool.and_eq_true, beq_iff_eq] at h
  exact ⟨_, rfl, MemW.build_view h.1 (by simp [mBuild, h.2])⟩

theorem cachectlEvict (w : MemW) : Statement (.cachectlEvict w) := .inr fun h => by
  simp only [Instr.fits, Bool.and_eq_true, beq_iff_eq] at h
  exact ⟨_, rfl, MemW.build_view h.1 (by simp [mBuild, h.2])⟩

theorem cachectlL1drop (w : MemW) : Statement (.cachectlL1drop w) := .inr fun h => by
  simp only [Instr.fits, Bool.and_eq_true, beq_iff_eq] at h
  exact ⟨_, rfl, MemW.build_view h.1 (by simp [mBuild, h.2])⟩

theorem movPaired (h0 : Half) (op1 : PairOp) (h1 : Half) : Statement (.movPaired h0 op1 h1) := .inr fun _ => ⟨_, rfl, Half.build_view _ _ _ _⟩

theorem addPaired (h0 : Half) (op1 : PairOp) (h1 : Half) : Statement (.addPaired h0 op1 h1) := .inr fun _ => ⟨_, rfl, Half.build_view _ _ _ _⟩

theorem subPaired (h0 : Half) (op1 : PairOp) (h1 : Half) : Statement (.subPaired h0 op1 h1) := .inr fun _ => ⟨_, rfl, Half.build_view _ _ _ _⟩

theorem mulPaired (h0 : Half) (op1 : PairOp) (h1 : Half) : Statement (.mulPaired h0 op1 h1) := .inr fun _ => ⟨_, rfl, Half.build_view _ _ _ _⟩

theorem minPaired (h0 : Half) (op1 : PairOp) (h1 : Half) : Statement (.minPaired h0 op1 h1) := .inr fun _ => ⟨_, rfl, Half.build_view _ _ _ _⟩

theorem maxPaired (h0 : Half) (op1 : PairOp) (h1 : Half) : Statement (.maxPaired h0 op1 h1) := .inr fun _ => ⟨_, rfl, Half.build_view _ _ _ _⟩

theorem absPaired (h0 : Half) (op1 : PairOp) (h1 : Half) : Statement (.absPaired h0 op1 h1) := .inr fun _ => ⟨_, rfl, Half.build_view _ _ _ _⟩

theorem negPaired (h0 : Half) (op1 : PairOp) (h1 : Half) : Statement (.negPaired h0 op1 h1) := .inr fun _ => ⟨_, rfl, Half.build_view _ _ _ _⟩

theorem andPaired (h0 : Half) (op1 : PairOp) (h1 : Half) : Statement (.andPaired h0 op1 h1) := .inr fun _ => ⟨_, rfl, Half.build_view _ _ _ _⟩

theorem orPaired (h0 : Half) (op1 : PairOp) (h1 : Half) : Statement (.orPaired h0 op1 h1) := .inr fun _ => ⟨_, rfl, Half.build_view _ _ _ _⟩

theorem xorPaired (h0 : Half) (op1 : PairOp) (h1 : Half) : Statement (.xorPaired h0 op1 h1) := .inr fun _ => ⟨_, rfl, Half.build_view _ _ _ _⟩

theorem notPaired (h0 : Half) (op1 : PairOp) (h1 : Half) : Statement (.notPaired h0 op1 h1) := .inr fun _ => ⟨_, rfl, Half.build_view _ _ _ _⟩

theorem andnPaired (h0 : Half) (op1 : PairOp) (h1 : Half) : Statement (.andnPaired h0 op1 h1) := .inr fun _ => ⟨_, rfl, Half.build_view _ _ _ _⟩

theorem shlPaired (h0 : Half) (op1 : PairOp) (h1 : Half) : Statement (.shlPaired h0 op1 h1) := .inr fun _ => ⟨_, rfl, Half.build_view _ _ _ _⟩

theorem shrPaired (h0 : Half) (op1 : PairOp) (h1 : Half) : Statement (.shrPaired h0 op1 h1) := .inr fun _ => ⟨_, rfl, Half.build_view _ _ _ _⟩

theorem sarPaired (h0 : Half) (op1 : PairOp) (h1 : Half) : Statement (.sarPaired h0 op1 h1) := .inr fun _ => ⟨_, rfl, Half.build_view _ _ _ _⟩

theorem faddPaired (h0 : Half) (op1 : PairOp) (h1 : Half) : Statement (.faddPaired h0 op1 h1) := .inr fun _ => ⟨_, rfl, Half.build_view _ _ _ _⟩

theorem fsubPaired (h0 : Half) (op1 : PairOp) (h1 : Half) : Statement (.fsubPaired h0 op1 h1) := .inr fun _ => ⟨_, rfl, Half.build_view _ _ _ _⟩

theorem fmulPaired (h0 : Half) (op1 : PairOp) (h1 : Half) : Statement (.fmulPaired h0 op1 h1) := .inr fun _ => ⟨_, rfl, Half.build_view _ _ _ _⟩

theorem fminPaired (h0 : Half) (op1 : PairOp) (h1 : Half) : Statement (.fminPaired h0 op1 h1) := .inr fun _ => ⟨_, rfl, Half.build_view _ _ _ _⟩

theorem fmaxPaired (h0 : Half) (op1 : PairOp) (h1 : Half) : Statement (.fmaxPaired h0 op1 h1) := .inr fun _ => ⟨_, rfl, Half.build_view _ _ _ _⟩

theorem fabsPaired (h0 : Half) (op1 : PairOp) (h1 : Half) : Statement (.fabsPaired h0 op1 h1) := .inr fun _ => ⟨_, rfl, Half.build_view _ _ _ _⟩

theorem fnegPaired (h0 : Half) (op1 : PairOp) (h1 : Half) : Statement (.fnegPaired h0 op1 h1) := .inr fun _ => ⟨_, rfl, Half.build_view _ _ _ _⟩

theorem memoryResponse : Statement .memoryResponse := .inl rfl

theorem storeBufferPerform : Statement .storeBufferPerform := .inl rfl

theorem commandEnqueue : Statement .commandEnqueue := .inl rfl

theorem copyUnit : Statement .copyUnit := .inl rfl

theorem commandComplete : Statement .commandComplete := .inl rfl

theorem passJoin : Statement .passJoin := .inl rfl

theorem cpymPassPost : Statement .cpymPassPost := .inl rfl

theorem pressGrant : Statement .pressGrant := .inl rfl

theorem passComplete : Statement .passComplete := .inl rfl

theorem reservationFree : Statement .reservationFree := .inl rfl

theorem watchTrigger : Statement .watchTrigger := .inl rfl

theorem mwaitTimeout : Statement .mwaitTimeout := .inl rfl

theorem binAgedDraw : Statement .binAgedDraw := .inl rfl

theorem slotHeadCheck : Statement .slotHeadCheck := .inl rfl

theorem launchRelease : Statement .launchRelease := .inl rfl

theorem pageReadStart : Statement .pageReadStart := .inl rfl

theorem senseDone : Statement .senseDone := .inl rfl

theorem transferDone : Statement .transferDone := .inl rfl

theorem correctionDone : Statement .correctionDone := .inl rfl

theorem pageBufferEnter : Statement .pageBufferEnter := .inl rfl

theorem pageDelivery : Statement .pageDelivery := .inl rfl

theorem blockPlace : Statement .blockPlace := .inl rfl

theorem placementOverdue : Statement .placementOverdue := .inl rfl

theorem blockClearingDone : Statement .blockClearingDone := .inl rfl

theorem blockFinish : Statement .blockFinish := .inl rfl

theorem waitConditionMet : Statement .waitConditionMet := .inl rfl

theorem blockSave : Statement .blockSave := .inl rfl

theorem pinnedWaitLimit : Statement .pinnedWaitLimit := .inl rfl

theorem trapDelivery : Statement .trapDelivery := .inl rfl

theorem faultRecordWrite : Statement .faultRecordWrite := .inl rfl

theorem replicaLockTimeout : Statement .replicaLockTimeout := .inl rfl

theorem atsCompletion : Statement .atsCompletion := .inl rfl

theorem atsInvalidate : Statement .atsInvalidate := .inl rfl

theorem hostSnoop : Statement .hostSnoop := .inl rfl

theorem bisnp : Statement .bisnp := .inl rfl

theorem poolRecoveryTimeout : Statement .poolRecoveryTimeout := .inl rfl

theorem poolCompletionTimeout : Statement .poolCompletionTimeout := .inl rfl

theorem poolViralSignal : Statement .poolViralSignal := .inl rfl

theorem poolLinkUp : Statement .poolLinkUp := .inl rfl

theorem portstatWrite : Statement .portstatWrite := .inl rfl

theorem swirilLinkDown : Statement .swirilLinkDown := .inl rfl

theorem peerRequest : Statement .peerRequest := .inl rfl

theorem peerResponse : Statement .peerResponse := .inl rfl

theorem ctxload (cmd : Command) : Statement (.ctxload cmd) := .inl rfl

theorem objcreate (cmd : Command) : Statement (.objcreate cmd) := .inl rfl

theorem objinv (cmd : Command) : Statement (.objinv cmd) := .inl rfl

theorem objinvComplete : Statement .objinvComplete := .inl rfl

theorem faultans (cmd : Command) : Statement (.faultans cmd) := .inl rfl

theorem preempt (cmd : Command) : Statement (.preempt cmd) := .inl rfl

theorem preemptComplete : Statement .preemptComplete := .inl rfl

theorem resume (cmd : Command) : Statement (.resume cmd) := .inl rfl

theorem slotbind (cmd : Command) : Statement (.slotbind cmd) := .inl rfl

theorem slotunbind (cmd : Command) : Statement (.slotunbind cmd) := .inl rfl

theorem pgm (cmd : Command) : Statement (.pgm cmd) := .inl rfl

theorem erase (cmd : Command) : Statement (.erase cmd) := .inl rfl

theorem feedmap (cmd : Command) : Statement (.feedmap cmd) := .inl rfl

theorem pgread (cmd : Command) : Statement (.pgread cmd) := .inl rfl

theorem notifyKick : Statement .notifyKick := .inl rfl

theorem catcherKick : Statement .catcherKick := .inl rfl

theorem catcherReplay : Statement .catcherReplay := .inl rfl

theorem exresWrite : Statement .exresWrite := .inl rfl

theorem exwridx : Statement .exwridx := .inl rfl

theorem pendingWrite : Statement .pendingWrite := .inl rfl

theorem catchstatWrite : Statement .catchstatWrite := .inl rfl

theorem feedAppend : Statement .feedAppend := .inl rfl

theorem ageingInterval : Statement .ageingInterval := .inl rfl

theorem eventRecordWrite : Statement .eventRecordWrite := .inl rfl

theorem wdkick : Statement .wdkick := .inl rfl

theorem watchdogTimeout : Statement .watchdogTimeout := .inl rfl

theorem sdcWindowBoundary : Statement .sdcWindowBoundary := .inl rfl

theorem errlostWrite : Statement .errlostWrite := .inl rfl

theorem cecountWrite : Statement .cecountWrite := .inl rfl

theorem dbgctlWrite : Statement .dbgctlWrite := .inl rfl

theorem dbgcmdStop : Statement .dbgcmdStop := .inl rfl

theorem dbgcmdResume : Statement .dbgcmdResume := .inl rfl

theorem dbgdataWrite : Statement .dbgdataWrite := .inl rfl

theorem haltComplete : Statement .haltComplete := .inl rfl

theorem traceDrain : Statement .traceDrain := .inl rfl

theorem rrChunkWrite : Statement .rrChunkWrite := .inl rfl

theorem replayGateRelease : Statement .replayGateRelease := .inl rfl

theorem replayGateTimeout : Statement .replayGateTimeout := .inl rfl

theorem thermalThrottle : Statement .thermalThrottle := .inl rfl

theorem thermalTrip : Statement .thermalTrip := .inl rfl

theorem supplySag : Statement .supplySag := .inl rfl

theorem clockStepRise : Statement .clockStepRise := .inl rfl

theorem powerWindow : Statement .powerWindow := .inl rfl

theorem attctlGo : Statement .attctlGo := .inl rfl

theorem attestDone : Statement .attestDone := .inl rfl

theorem resetBoot : Statement .resetBoot := .inl rfl

theorem registerWrite : Statement .registerWrite := .inl rfl

theorem hostCxlMemAccess : Statement .hostCxlMemAccess := .inl rfl

theorem poolLinkExitL0 : Statement .poolLinkExitL0 := .inl rfl

theorem throttleRelease : Statement .throttleRelease := .inl rfl

theorem quadUngateComplete : Statement .quadUngateComplete := .inl rfl

theorem pgmEraseComplete : Statement .pgmEraseComplete := .inl rfl

end Sys2Proof.Laws.Builds
end

