-- ==== Sys2Proof/Laws/State.lean ====
section
/-!
SUPPORT. What each update of the state leaves alone and what it changes: one lemma for each field and update, so that no
proof unfolds a record update.
-/

namespace Sys2Proof.Machine

open Sys2Proof

/-! ### `tick` -/

@[simp] theorem State.tick_sched (s : State) : (s.tick).sched = { s.sched with fresh := s.sched.fresh + 1 } := rfl
@[simp] theorem State.tick_presence (s : State) : (s.tick).presence = s.presence := rfl
@[simp] theorem State.tick_mem (s : State) : (s.tick).mem = s.mem := rfl
@[simp] theorem State.tick_caches (s : State) : (s.tick).caches = s.caches := rfl
@[simp] theorem State.tick_ctxs (s : State) : (s.tick).ctxs = s.ctxs := rfl
@[simp] theorem State.tick_invs (s : State) : (s.tick).invs = s.invs := rfl
@[simp] theorem State.tick_launches (s : State) : (s.tick).launches = s.launches := rfl
@[simp] theorem State.tick_blocks (s : State) : (s.tick).blocks = s.blocks := rfl
@[simp] theorem State.tick_groups (s : State) : (s.tick).groups = s.groups := rfl
@[simp] theorem State.tick_bins (s : State) : (s.tick).bins = s.bins := rfl
@[simp] theorem State.tick_parts (s : State) : (s.tick).parts = s.parts := rfl
@[simp] theorem State.tick_items (s : State) : (s.tick).items = s.items := rfl
@[simp] theorem State.tick_reqs (s : State) : (s.tick).reqs = s.reqs := rfl
@[simp] theorem State.tick_faults (s : State) : (s.tick).faults = s.faults := rfl
@[simp] theorem State.tick_engines (s : State) : (s.tick).engines = s.engines := rfl
@[simp] theorem State.tick_cellar (s : State) : (s.tick).cellar = s.cellar := rfl
@[simp] theorem State.tick_tables (s : State) : (s.tick).tables = s.tables := rfl
@[simp] theorem State.tick_queues (s : State) : (s.tick).queues = s.queues := rfl
@[simp] theorem State.tick_link (s : State) : (s.tick).link = s.link := rfl
@[simp] theorem State.tick_fw (s : State) : (s.tick).fw = s.fw := rfl
@[simp] theorem State.tick_rel (s : State) : (s.tick).rel = s.rel := rfl
@[simp] theorem State.tick_dbg (s : State) : (s.tick).dbg = s.dbg := rfl
@[simp] theorem State.tick_power (s : State) : (s.tick).power = s.power := rfl
@[simp] theorem State.tick_ports (s : State) : (s.tick).ports = s.ports := rfl
@[simp] theorem State.tick_linksUp (s : State) : (s.tick).linksUp = s.linksUp := rfl
@[simp] theorem State.tick_routes (s : State) : (s.tick).routes = s.routes := rfl

/-! ### `bump` -/

@[simp] theorem State.bump_sched (s : State) : (s.bump).sched = { s.sched with nextId := s.sched.nextId + 1 } := rfl
@[simp] theorem State.bump_presence (s : State) : (s.bump).presence = s.presence := rfl
@[simp] theorem State.bump_mem (s : State) : (s.bump).mem = s.mem := rfl
@[simp] theorem State.bump_caches (s : State) : (s.bump).caches = s.caches := rfl
@[simp] theorem State.bump_ctxs (s : State) : (s.bump).ctxs = s.ctxs := rfl
@[simp] theorem State.bump_invs (s : State) : (s.bump).invs = s.invs := rfl
@[simp] theorem State.bump_launches (s : State) : (s.bump).launches = s.launches := rfl
@[simp] theorem State.bump_blocks (s : State) : (s.bump).blocks = s.blocks := rfl
@[simp] theorem State.bump_groups (s : State) : (s.bump).groups = s.groups := rfl
@[simp] theorem State.bump_bins (s : State) : (s.bump).bins = s.bins := rfl
@[simp] theorem State.bump_parts (s : State) : (s.bump).parts = s.parts := rfl
@[simp] theorem State.bump_items (s : State) : (s.bump).items = s.items := rfl
@[simp] theorem State.bump_reqs (s : State) : (s.bump).reqs = s.reqs := rfl
@[simp] theorem State.bump_faults (s : State) : (s.bump).faults = s.faults := rfl
@[simp] theorem State.bump_engines (s : State) : (s.bump).engines = s.engines := rfl
@[simp] theorem State.bump_cellar (s : State) : (s.bump).cellar = s.cellar := rfl
@[simp] theorem State.bump_tables (s : State) : (s.bump).tables = s.tables := rfl
@[simp] theorem State.bump_queues (s : State) : (s.bump).queues = s.queues := rfl
@[simp] theorem State.bump_link (s : State) : (s.bump).link = s.link := rfl
@[simp] theorem State.bump_fw (s : State) : (s.bump).fw = s.fw := rfl
@[simp] theorem State.bump_rel (s : State) : (s.bump).rel = s.rel := rfl
@[simp] theorem State.bump_dbg (s : State) : (s.bump).dbg = s.dbg := rfl
@[simp] theorem State.bump_power (s : State) : (s.bump).power = s.power := rfl
@[simp] theorem State.bump_ports (s : State) : (s.bump).ports = s.ports := rfl
@[simp] theorem State.bump_linksUp (s : State) : (s.bump).linksUp = s.linksUp := rfl
@[simp] theorem State.bump_routes (s : State) : (s.bump).routes = s.routes := rfl

/-! ### `updBlock` -/

@[simp] theorem State.updBlock_sched (s : State) (uid : Nat) (f : Block → Block) : (s.updBlock uid f).sched = s.sched := rfl
@[simp] theorem State.updBlock_presence (s : State) (uid : Nat) (f : Block → Block) : (s.updBlock uid f).presence = s.presence := rfl
@[simp] theorem State.updBlock_mem (s : State) (uid : Nat) (f : Block → Block) : (s.updBlock uid f).mem = s.mem := rfl
@[simp] theorem State.updBlock_caches (s : State) (uid : Nat) (f : Block → Block) : (s.updBlock uid f).caches = s.caches := rfl
@[simp] theorem State.updBlock_ctxs (s : State) (uid : Nat) (f : Block → Block) : (s.updBlock uid f).ctxs = s.ctxs := rfl
@[simp] theorem State.updBlock_invs (s : State) (uid : Nat) (f : Block → Block) : (s.updBlock uid f).invs = s.invs := rfl
@[simp] theorem State.updBlock_launches (s : State) (uid : Nat) (f : Block → Block) : (s.updBlock uid f).launches = s.launches := rfl
@[simp] theorem State.updBlock_blocks (s : State) (uid : Nat) (f : Block → Block) : (s.updBlock uid f).blocks = s.blocks.map fun b => if b.uid = uid then f b else b := rfl
@[simp] theorem State.updBlock_groups (s : State) (uid : Nat) (f : Block → Block) : (s.updBlock uid f).groups = s.groups := rfl
@[simp] theorem State.updBlock_bins (s : State) (uid : Nat) (f : Block → Block) : (s.updBlock uid f).bins = s.bins := rfl
@[simp] theorem State.updBlock_parts (s : State) (uid : Nat) (f : Block → Block) : (s.updBlock uid f).parts = s.parts := rfl
@[simp] theorem State.updBlock_items (s : State) (uid : Nat) (f : Block → Block) : (s.updBlock uid f).items = s.items := rfl
@[simp] theorem State.updBlock_reqs (s : State) (uid : Nat) (f : Block → Block) : (s.updBlock uid f).reqs = s.reqs := rfl
@[simp] theorem State.updBlock_faults (s : State) (uid : Nat) (f : Block → Block) : (s.updBlock uid f).faults = s.faults := rfl
@[simp] theorem State.updBlock_engines (s : State) (uid : Nat) (f : Block → Block) : (s.updBlock uid f).engines = s.engines := rfl
@[simp] theorem State.updBlock_cellar (s : State) (uid : Nat) (f : Block → Block) : (s.updBlock uid f).cellar = s.cellar := rfl
@[simp] theorem State.updBlock_tables (s : State) (uid : Nat) (f : Block → Block) : (s.updBlock uid f).tables = s.tables := rfl
@[simp] theorem State.updBlock_queues (s : State) (uid : Nat) (f : Block → Block) : (s.updBlock uid f).queues = s.queues := rfl
@[simp] theorem State.updBlock_link (s : State) (uid : Nat) (f : Block → Block) : (s.updBlock uid f).link = s.link := rfl
@[simp] theorem State.updBlock_fw (s : State) (uid : Nat) (f : Block → Block) : (s.updBlock uid f).fw = s.fw := rfl
@[simp] theorem State.updBlock_rel (s : State) (uid : Nat) (f : Block → Block) : (s.updBlock uid f).rel = s.rel := rfl
@[simp] theorem State.updBlock_dbg (s : State) (uid : Nat) (f : Block → Block) : (s.updBlock uid f).dbg = s.dbg := rfl
@[simp] theorem State.updBlock_power (s : State) (uid : Nat) (f : Block → Block) : (s.updBlock uid f).power = s.power := rfl
@[simp] theorem State.updBlock_ports (s : State) (uid : Nat) (f : Block → Block) : (s.updBlock uid f).ports = s.ports := rfl
@[simp] theorem State.updBlock_linksUp (s : State) (uid : Nat) (f : Block → Block) : (s.updBlock uid f).linksUp = s.linksUp := rfl
@[simp] theorem State.updBlock_routes (s : State) (uid : Nat) (f : Block → Block) : (s.updBlock uid f).routes = s.routes := rfl

/-! ### `updThread` -/

@[simp] theorem State.updThread_sched (s : State) (uid tid : Nat) (f : Thread → Thread) : (s.updThread uid tid f).sched = s.sched := rfl
@[simp] theorem State.updThread_presence (s : State) (uid tid : Nat) (f : Thread → Thread) : (s.updThread uid tid f).presence = s.presence := rfl
@[simp] theorem State.updThread_mem (s : State) (uid tid : Nat) (f : Thread → Thread) : (s.updThread uid tid f).mem = s.mem := rfl
@[simp] theorem State.updThread_caches (s : State) (uid tid : Nat) (f : Thread → Thread) : (s.updThread uid tid f).caches = s.caches := rfl
@[simp] theorem State.updThread_ctxs (s : State) (uid tid : Nat) (f : Thread → Thread) : (s.updThread uid tid f).ctxs = s.ctxs := rfl
@[simp] theorem State.updThread_invs (s : State) (uid tid : Nat) (f : Thread → Thread) : (s.updThread uid tid f).invs = s.invs := rfl
@[simp] theorem State.updThread_launches (s : State) (uid tid : Nat) (f : Thread → Thread) : (s.updThread uid tid f).launches = s.launches := rfl
@[simp] theorem State.updThread_blocks (s : State) (uid tid : Nat) (f : Thread → Thread) : (s.updThread uid tid f).blocks = s.blocks.map fun b => if b.uid = uid then b.updThread tid f else b := rfl
@[simp] theorem State.updThread_groups (s : State) (uid tid : Nat) (f : Thread → Thread) : (s.updThread uid tid f).groups = s.groups := rfl
@[simp] theorem State.updThread_bins (s : State) (uid tid : Nat) (f : Thread → Thread) : (s.updThread uid tid f).bins = s.bins := rfl
@[simp] theorem State.updThread_parts (s : State) (uid tid : Nat) (f : Thread → Thread) : (s.updThread uid tid f).parts = s.parts := rfl
@[simp] theorem State.updThread_items (s : State) (uid tid : Nat) (f : Thread → Thread) : (s.updThread uid tid f).items = s.items := rfl
@[simp] theorem State.updThread_reqs (s : State) (uid tid : Nat) (f : Thread → Thread) : (s.updThread uid tid f).reqs = s.reqs := rfl
@[simp] theorem State.updThread_faults (s : State) (uid tid : Nat) (f : Thread → Thread) : (s.updThread uid tid f).faults = s.faults := rfl
@[simp] theorem State.updThread_engines (s : State) (uid tid : Nat) (f : Thread → Thread) : (s.updThread uid tid f).engines = s.engines := rfl
@[simp] theorem State.updThread_cellar (s : State) (uid tid : Nat) (f : Thread → Thread) : (s.updThread uid tid f).cellar = s.cellar := rfl
@[simp] theorem State.updThread_tables (s : State) (uid tid : Nat) (f : Thread → Thread) : (s.updThread uid tid f).tables = s.tables := rfl
@[simp] theorem State.updThread_queues (s : State) (uid tid : Nat) (f : Thread → Thread) : (s.updThread uid tid f).queues = s.queues := rfl
@[simp] theorem State.updThread_link (s : State) (uid tid : Nat) (f : Thread → Thread) : (s.updThread uid tid f).link = s.link := rfl
@[simp] theorem State.updThread_fw (s : State) (uid tid : Nat) (f : Thread → Thread) : (s.updThread uid tid f).fw = s.fw := rfl
@[simp] theorem State.updThread_rel (s : State) (uid tid : Nat) (f : Thread → Thread) : (s.updThread uid tid f).rel = s.rel := rfl
@[simp] theorem State.updThread_dbg (s : State) (uid tid : Nat) (f : Thread → Thread) : (s.updThread uid tid f).dbg = s.dbg := rfl
@[simp] theorem State.updThread_power (s : State) (uid tid : Nat) (f : Thread → Thread) : (s.updThread uid tid f).power = s.power := rfl
@[simp] theorem State.updThread_ports (s : State) (uid tid : Nat) (f : Thread → Thread) : (s.updThread uid tid f).ports = s.ports := rfl
@[simp] theorem State.updThread_linksUp (s : State) (uid tid : Nat) (f : Thread → Thread) : (s.updThread uid tid f).linksUp = s.linksUp := rfl
@[simp] theorem State.updThread_routes (s : State) (uid tid : Nat) (f : Thread → Thread) : (s.updThread uid tid f).routes = s.routes := rfl

/-! ### `updGroup` -/

@[simp] theorem State.updGroup_sched (s : State) (gid : Nat) (f : Group → Group) : (s.updGroup gid f).sched = s.sched := rfl
@[simp] theorem State.updGroup_presence (s : State) (gid : Nat) (f : Group → Group) : (s.updGroup gid f).presence = s.presence := rfl
@[simp] theorem State.updGroup_mem (s : State) (gid : Nat) (f : Group → Group) : (s.updGroup gid f).mem = s.mem := rfl
@[simp] theorem State.updGroup_caches (s : State) (gid : Nat) (f : Group → Group) : (s.updGroup gid f).caches = s.caches := rfl
@[simp] theorem State.updGroup_ctxs (s : State) (gid : Nat) (f : Group → Group) : (s.updGroup gid f).ctxs = s.ctxs := rfl
@[simp] theorem State.updGroup_invs (s : State) (gid : Nat) (f : Group → Group) : (s.updGroup gid f).invs = s.invs := rfl
@[simp] theorem State.updGroup_launches (s : State) (gid : Nat) (f : Group → Group) : (s.updGroup gid f).launches = s.launches := rfl
@[simp] theorem State.updGroup_blocks (s : State) (gid : Nat) (f : Group → Group) : (s.updGroup gid f).blocks = s.blocks := rfl
@[simp] theorem State.updGroup_groups (s : State) (gid : Nat) (f : Group → Group) : (s.updGroup gid f).groups = s.groups.map fun g => if g.gid = gid then f g else g := rfl
@[simp] theorem State.updGroup_bins (s : State) (gid : Nat) (f : Group → Group) : (s.updGroup gid f).bins = s.bins := rfl
@[simp] theorem State.updGroup_parts (s : State) (gid : Nat) (f : Group → Group) : (s.updGroup gid f).parts = s.parts := rfl
@[simp] theorem State.updGroup_items (s : State) (gid : Nat) (f : Group → Group) : (s.updGroup gid f).items = s.items := rfl
@[simp] theorem State.updGroup_reqs (s : State) (gid : Nat) (f : Group → Group) : (s.updGroup gid f).reqs = s.reqs := rfl
@[simp] theorem State.updGroup_faults (s : State) (gid : Nat) (f : Group → Group) : (s.updGroup gid f).faults = s.faults := rfl
@[simp] theorem State.updGroup_engines (s : State) (gid : Nat) (f : Group → Group) : (s.updGroup gid f).engines = s.engines := rfl
@[simp] theorem State.updGroup_cellar (s : State) (gid : Nat) (f : Group → Group) : (s.updGroup gid f).cellar = s.cellar := rfl
@[simp] theorem State.updGroup_tables (s : State) (gid : Nat) (f : Group → Group) : (s.updGroup gid f).tables = s.tables := rfl
@[simp] theorem State.updGroup_queues (s : State) (gid : Nat) (f : Group → Group) : (s.updGroup gid f).queues = s.queues := rfl
@[simp] theorem State.updGroup_link (s : State) (gid : Nat) (f : Group → Group) : (s.updGroup gid f).link = s.link := rfl
@[simp] theorem State.updGroup_fw (s : State) (gid : Nat) (f : Group → Group) : (s.updGroup gid f).fw = s.fw := rfl
@[simp] theorem State.updGroup_rel (s : State) (gid : Nat) (f : Group → Group) : (s.updGroup gid f).rel = s.rel := rfl
@[simp] theorem State.updGroup_dbg (s : State) (gid : Nat) (f : Group → Group) : (s.updGroup gid f).dbg = s.dbg := rfl
@[simp] theorem State.updGroup_power (s : State) (gid : Nat) (f : Group → Group) : (s.updGroup gid f).power = s.power := rfl
@[simp] theorem State.updGroup_ports (s : State) (gid : Nat) (f : Group → Group) : (s.updGroup gid f).ports = s.ports := rfl
@[simp] theorem State.updGroup_linksUp (s : State) (gid : Nat) (f : Group → Group) : (s.updGroup gid f).linksUp = s.linksUp := rfl
@[simp] theorem State.updGroup_routes (s : State) (gid : Nat) (f : Group → Group) : (s.updGroup gid f).routes = s.routes := rfl

/-! ### `dropGroup` -/

@[simp] theorem State.dropGroup_sched (s : State) (gid : Nat) : (s.dropGroup gid).sched = s.sched := rfl
@[simp] theorem State.dropGroup_presence (s : State) (gid : Nat) : (s.dropGroup gid).presence = s.presence := rfl
@[simp] theorem State.dropGroup_mem (s : State) (gid : Nat) : (s.dropGroup gid).mem = s.mem := rfl
@[simp] theorem State.dropGroup_caches (s : State) (gid : Nat) : (s.dropGroup gid).caches = s.caches := rfl
@[simp] theorem State.dropGroup_ctxs (s : State) (gid : Nat) : (s.dropGroup gid).ctxs = s.ctxs := rfl
@[simp] theorem State.dropGroup_invs (s : State) (gid : Nat) : (s.dropGroup gid).invs = s.invs := rfl
@[simp] theorem State.dropGroup_launches (s : State) (gid : Nat) : (s.dropGroup gid).launches = s.launches := rfl
@[simp] theorem State.dropGroup_blocks (s : State) (gid : Nat) : (s.dropGroup gid).blocks = s.blocks := rfl
@[simp] theorem State.dropGroup_groups (s : State) (gid : Nat) : (s.dropGroup gid).groups = s.groups.filter fun g => g.gid != gid := rfl
@[simp] theorem State.dropGroup_bins (s : State) (gid : Nat) : (s.dropGroup gid).bins = s.bins := rfl
@[simp] theorem State.dropGroup_parts (s : State) (gid : Nat) : (s.dropGroup gid).parts = s.parts := rfl
@[simp] theorem State.dropGroup_items (s : State) (gid : Nat) : (s.dropGroup gid).items = s.items := rfl
@[simp] theorem State.dropGroup_reqs (s : State) (gid : Nat) : (s.dropGroup gid).reqs = s.reqs := rfl
@[simp] theorem State.dropGroup_faults (s : State) (gid : Nat) : (s.dropGroup gid).faults = s.faults := rfl
@[simp] theorem State.dropGroup_engines (s : State) (gid : Nat) : (s.dropGroup gid).engines = s.engines := rfl
@[simp] theorem State.dropGroup_cellar (s : State) (gid : Nat) : (s.dropGroup gid).cellar = s.cellar := rfl
@[simp] theorem State.dropGroup_tables (s : State) (gid : Nat) : (s.dropGroup gid).tables = s.tables := rfl
@[simp] theorem State.dropGroup_queues (s : State) (gid : Nat) : (s.dropGroup gid).queues = s.queues := rfl
@[simp] theorem State.dropGroup_link (s : State) (gid : Nat) : (s.dropGroup gid).link = s.link := rfl
@[simp] theorem State.dropGroup_fw (s : State) (gid : Nat) : (s.dropGroup gid).fw = s.fw := rfl
@[simp] theorem State.dropGroup_rel (s : State) (gid : Nat) : (s.dropGroup gid).rel = s.rel := rfl
@[simp] theorem State.dropGroup_dbg (s : State) (gid : Nat) : (s.dropGroup gid).dbg = s.dbg := rfl
@[simp] theorem State.dropGroup_power (s : State) (gid : Nat) : (s.dropGroup gid).power = s.power := rfl
@[simp] theorem State.dropGroup_ports (s : State) (gid : Nat) : (s.dropGroup gid).ports = s.ports := rfl
@[simp] theorem State.dropGroup_linksUp (s : State) (gid : Nat) : (s.dropGroup gid).linksUp = s.linksUp := rfl
@[simp] theorem State.dropGroup_routes (s : State) (gid : Nat) : (s.dropGroup gid).routes = s.routes := rfl

/-! ### `updCtx` -/

@[simp] theorem State.updCtx_sched (s : State) (n : Nat) (f : Ctx → Ctx) : (s.updCtx n f).sched = s.sched := rfl
@[simp] theorem State.updCtx_presence (s : State) (n : Nat) (f : Ctx → Ctx) : (s.updCtx n f).presence = s.presence := rfl
@[simp] theorem State.updCtx_mem (s : State) (n : Nat) (f : Ctx → Ctx) : (s.updCtx n f).mem = s.mem := rfl
@[simp] theorem State.updCtx_caches (s : State) (n : Nat) (f : Ctx → Ctx) : (s.updCtx n f).caches = s.caches := rfl
@[simp] theorem State.updCtx_ctxs (s : State) (n : Nat) (f : Ctx → Ctx) : (s.updCtx n f).ctxs = s.ctxs.map fun c => if c.n = n then f c else c := rfl
@[simp] theorem State.updCtx_invs (s : State) (n : Nat) (f : Ctx → Ctx) : (s.updCtx n f).invs = s.invs := rfl
@[simp] theorem State.updCtx_launches (s : State) (n : Nat) (f : Ctx → Ctx) : (s.updCtx n f).launches = s.launches := rfl
@[simp] theorem State.updCtx_blocks (s : State) (n : Nat) (f : Ctx → Ctx) : (s.updCtx n f).blocks = s.blocks := rfl
@[simp] theorem State.updCtx_groups (s : State) (n : Nat) (f : Ctx → Ctx) : (s.updCtx n f).groups = s.groups := rfl
@[simp] theorem State.updCtx_bins (s : State) (n : Nat) (f : Ctx → Ctx) : (s.updCtx n f).bins = s.bins := rfl
@[simp] theorem State.updCtx_parts (s : State) (n : Nat) (f : Ctx → Ctx) : (s.updCtx n f).parts = s.parts := rfl
@[simp] theorem State.updCtx_items (s : State) (n : Nat) (f : Ctx → Ctx) : (s.updCtx n f).items = s.items := rfl
@[simp] theorem State.updCtx_reqs (s : State) (n : Nat) (f : Ctx → Ctx) : (s.updCtx n f).reqs = s.reqs := rfl
@[simp] theorem State.updCtx_faults (s : State) (n : Nat) (f : Ctx → Ctx) : (s.updCtx n f).faults = s.faults := rfl
@[simp] theorem State.updCtx_engines (s : State) (n : Nat) (f : Ctx → Ctx) : (s.updCtx n f).engines = s.engines := rfl
@[simp] theorem State.updCtx_cellar (s : State) (n : Nat) (f : Ctx → Ctx) : (s.updCtx n f).cellar = s.cellar := rfl
@[simp] theorem State.updCtx_tables (s : State) (n : Nat) (f : Ctx → Ctx) : (s.updCtx n f).tables = s.tables := rfl
@[simp] theorem State.updCtx_queues (s : State) (n : Nat) (f : Ctx → Ctx) : (s.updCtx n f).queues = s.queues := rfl
@[simp] theorem State.updCtx_link (s : State) (n : Nat) (f : Ctx → Ctx) : (s.updCtx n f).link = s.link := rfl
@[simp] theorem State.updCtx_fw (s : State) (n : Nat) (f : Ctx → Ctx) : (s.updCtx n f).fw = s.fw := rfl
@[simp] theorem State.updCtx_rel (s : State) (n : Nat) (f : Ctx → Ctx) : (s.updCtx n f).rel = s.rel := rfl
@[simp] theorem State.updCtx_dbg (s : State) (n : Nat) (f : Ctx → Ctx) : (s.updCtx n f).dbg = s.dbg := rfl
@[simp] theorem State.updCtx_power (s : State) (n : Nat) (f : Ctx → Ctx) : (s.updCtx n f).power = s.power := rfl
@[simp] theorem State.updCtx_ports (s : State) (n : Nat) (f : Ctx → Ctx) : (s.updCtx n f).ports = s.ports := rfl
@[simp] theorem State.updCtx_linksUp (s : State) (n : Nat) (f : Ctx → Ctx) : (s.updCtx n f).linksUp = s.linksUp := rfl
@[simp] theorem State.updCtx_routes (s : State) (n : Nat) (f : Ctx → Ctx) : (s.updCtx n f).routes = s.routes := rfl

/-! ### `updLaunch` -/

@[simp] theorem State.updLaunch_sched (s : State) (id : Nat) (f : Launch → Launch) : (s.updLaunch id f).sched = s.sched := rfl
@[simp] theorem State.updLaunch_presence (s : State) (id : Nat) (f : Launch → Launch) : (s.updLaunch id f).presence = s.presence := rfl
@[simp] theorem State.updLaunch_mem (s : State) (id : Nat) (f : Launch → Launch) : (s.updLaunch id f).mem = s.mem := rfl
@[simp] theorem State.updLaunch_caches (s : State) (id : Nat) (f : Launch → Launch) : (s.updLaunch id f).caches = s.caches := rfl
@[simp] theorem State.updLaunch_ctxs (s : State) (id : Nat) (f : Launch → Launch) : (s.updLaunch id f).ctxs = s.ctxs := rfl
@[simp] theorem State.updLaunch_invs (s : State) (id : Nat) (f : Launch → Launch) : (s.updLaunch id f).invs = s.invs := rfl
@[simp] theorem State.updLaunch_launches (s : State) (id : Nat) (f : Launch → Launch) : (s.updLaunch id f).launches = s.launches.map fun l => if l.id = id then f l else l := rfl
@[simp] theorem State.updLaunch_blocks (s : State) (id : Nat) (f : Launch → Launch) : (s.updLaunch id f).blocks = s.blocks := rfl
@[simp] theorem State.updLaunch_groups (s : State) (id : Nat) (f : Launch → Launch) : (s.updLaunch id f).groups = s.groups := rfl
@[simp] theorem State.updLaunch_bins (s : State) (id : Nat) (f : Launch → Launch) : (s.updLaunch id f).bins = s.bins := rfl
@[simp] theorem State.updLaunch_parts (s : State) (id : Nat) (f : Launch → Launch) : (s.updLaunch id f).parts = s.parts := rfl
@[simp] theorem State.updLaunch_items (s : State) (id : Nat) (f : Launch → Launch) : (s.updLaunch id f).items = s.items := rfl
@[simp] theorem State.updLaunch_reqs (s : State) (id : Nat) (f : Launch → Launch) : (s.updLaunch id f).reqs = s.reqs := rfl
@[simp] theorem State.updLaunch_faults (s : State) (id : Nat) (f : Launch → Launch) : (s.updLaunch id f).faults = s.faults := rfl
@[simp] theorem State.updLaunch_engines (s : State) (id : Nat) (f : Launch → Launch) : (s.updLaunch id f).engines = s.engines := rfl
@[simp] theorem State.updLaunch_cellar (s : State) (id : Nat) (f : Launch → Launch) : (s.updLaunch id f).cellar = s.cellar := rfl
@[simp] theorem State.updLaunch_tables (s : State) (id : Nat) (f : Launch → Launch) : (s.updLaunch id f).tables = s.tables := rfl
@[simp] theorem State.updLaunch_queues (s : State) (id : Nat) (f : Launch → Launch) : (s.updLaunch id f).queues = s.queues := rfl
@[simp] theorem State.updLaunch_link (s : State) (id : Nat) (f : Launch → Launch) : (s.updLaunch id f).link = s.link := rfl
@[simp] theorem State.updLaunch_fw (s : State) (id : Nat) (f : Launch → Launch) : (s.updLaunch id f).fw = s.fw := rfl
@[simp] theorem State.updLaunch_rel (s : State) (id : Nat) (f : Launch → Launch) : (s.updLaunch id f).rel = s.rel := rfl
@[simp] theorem State.updLaunch_dbg (s : State) (id : Nat) (f : Launch → Launch) : (s.updLaunch id f).dbg = s.dbg := rfl
@[simp] theorem State.updLaunch_power (s : State) (id : Nat) (f : Launch → Launch) : (s.updLaunch id f).power = s.power := rfl
@[simp] theorem State.updLaunch_ports (s : State) (id : Nat) (f : Launch → Launch) : (s.updLaunch id f).ports = s.ports := rfl
@[simp] theorem State.updLaunch_linksUp (s : State) (id : Nat) (f : Launch → Launch) : (s.updLaunch id f).linksUp = s.linksUp := rfl
@[simp] theorem State.updLaunch_routes (s : State) (id : Nat) (f : Launch → Launch) : (s.updLaunch id f).routes = s.routes := rfl

/-! ### Reading after an update -/

/-- A block changed without its number is found changed. -/
theorem State.block?_updBlock (s : State) (uid : Nat) (f : Block → Block) (k : Nat) (hf : ∀ b, (f b).uid = b.uid) :
    (s.updBlock uid f).block? k = (s.block? k).map fun b => if b.uid = uid then f b else b := by
  simp only [State.block?, State.updBlock_blocks, List.find?_map]
  congr 1
  refine congrFun (congrArg List.find? (funext fun b => ?_)) s.blocks
  by_cases h : b.uid = uid <;> simp [h, hf]

/-- A thread changed without its index is found changed. -/
theorem Block.thread?_updThread (b : Block) (tid : Nat) (f : Thread → Thread) (k : Nat) (hf : ∀ x, (f x).tid = x.tid) :
    (b.updThread tid f).thread? k = (b.thread? k).map fun x => if x.tid = tid then f x else x := by
  simp only [Block.thread?, Block.updThread, List.find?_map]
  congr 1
  refine congrFun (congrArg List.find? (funext fun x => ?_)) b.threads
  by_cases h : x.tid = tid <;> simp [h, hf]

@[simp] theorem Block.updThread_uid (b : Block) (tid : Nat) (f : Thread → Thread) : (b.updThread tid f).uid = b.uid := rfl

/-- The thread that an update names, and the others, after it. -/
theorem State.thread?_updThread (s : State) (uid tid : Nat) (f : Thread → Thread) (u k : Nat) (hf : ∀ x, (f x).tid = x.tid) :
    (s.updThread uid tid f).thread? u k =
      (s.thread? u k).map fun x => if u = uid ∧ x.tid = tid then f x else x := by
  simp only [State.thread?, State.updThread]
  rw [State.block?_updBlock s uid (fun b => b.updThread tid f) u (fun _ => rfl)]
  cases hb : s.block? u with
  | none => rfl
  | some b =>
    have hu : b.uid = u := by simpa [State.block?] using List.find?_some hb
    by_cases h : u = uid
    · have hbu : b.uid = uid := hu.trans h
      simp [hbu, h, Block.thread?_updThread b tid f k hf]
    · have hbu : b.uid ≠ uid := fun e => h (hu.symm.trans e)
      simp [hbu, h]

end Sys2Proof.Machine
end

