-- ==== Sys2Proof/Laws/Updates.lean ====
section
/-!
SUPPORT. The updates that units, engines and links share: one lemma for each field and update, as in Laws/State.lean.
-/

namespace Sys2Proof.Machine

open Sys2Proof

/-! ### `dropL1` -/

section
variable (s : State) (core : Nat) (ords : List Nat) (ctx : Option Nat)

@[simp] theorem State.dropL1_sched : (s.dropL1 core ords ctx).sched = s.sched := rfl
@[simp] theorem State.dropL1_presence : (s.dropL1 core ords ctx).presence = s.presence := rfl
@[simp] theorem State.dropL1_mem : (s.dropL1 core ords ctx).mem = s.mem := rfl
@[simp] theorem State.dropL1_caches_home : (s.dropL1 core ords ctx).caches.home = s.caches.home := rfl
@[simp] theorem State.dropL1_caches_rdc : (s.dropL1 core ords ctx).caches.rdc = s.caches.rdc := rfl
@[simp] theorem State.dropL1_caches_lent : (s.dropL1 core ords ctx).caches.lent = s.caches.lent := rfl
@[simp] theorem State.dropL1_caches_extents : (s.dropL1 core ords ctx).caches.extents = s.caches.extents := rfl
@[simp] theorem State.dropL1_caches_asks : (s.dropL1 core ords ctx).caches.asks = s.caches.asks := rfl
@[simp] theorem State.dropL1_caches_peerOut : (s.dropL1 core ords ctx).caches.peerOut = s.caches.peerOut := rfl
@[simp] theorem State.dropL1_caches_replicas : (s.dropL1 core ords ctx).caches.replicas = s.caches.replicas := rfl
@[simp] theorem State.dropL1_ctxs : (s.dropL1 core ords ctx).ctxs = s.ctxs := rfl
@[simp] theorem State.dropL1_invs : (s.dropL1 core ords ctx).invs = s.invs := rfl
@[simp] theorem State.dropL1_launches : (s.dropL1 core ords ctx).launches = s.launches := rfl
@[simp] theorem State.dropL1_blocks : (s.dropL1 core ords ctx).blocks = s.blocks := rfl
@[simp] theorem State.dropL1_groups : (s.dropL1 core ords ctx).groups = s.groups := rfl
@[simp] theorem State.dropL1_bins : (s.dropL1 core ords ctx).bins = s.bins := rfl
@[simp] theorem State.dropL1_parts : (s.dropL1 core ords ctx).parts = s.parts := rfl
@[simp] theorem State.dropL1_items : (s.dropL1 core ords ctx).items = s.items := rfl
@[simp] theorem State.dropL1_reqs : (s.dropL1 core ords ctx).reqs = s.reqs := rfl
@[simp] theorem State.dropL1_faults : (s.dropL1 core ords ctx).faults = s.faults := rfl
@[simp] theorem State.dropL1_engines : (s.dropL1 core ords ctx).engines = s.engines := rfl
@[simp] theorem State.dropL1_cellar : (s.dropL1 core ords ctx).cellar = s.cellar := rfl
@[simp] theorem State.dropL1_tables : (s.dropL1 core ords ctx).tables = s.tables := rfl
@[simp] theorem State.dropL1_queues : (s.dropL1 core ords ctx).queues = s.queues := rfl
@[simp] theorem State.dropL1_link : (s.dropL1 core ords ctx).link = s.link := rfl
@[simp] theorem State.dropL1_fw : (s.dropL1 core ords ctx).fw = s.fw := rfl
@[simp] theorem State.dropL1_rel : (s.dropL1 core ords ctx).rel = s.rel := rfl
@[simp] theorem State.dropL1_dbg : (s.dropL1 core ords ctx).dbg = s.dbg := rfl
@[simp] theorem State.dropL1_power : (s.dropL1 core ords ctx).power = s.power := rfl
@[simp] theorem State.dropL1_ports : (s.dropL1 core ords ctx).ports = s.ports := rfl
@[simp] theorem State.dropL1_linksUp : (s.dropL1 core ords ctx).linksUp = s.linksUp := rfl
@[simp] theorem State.dropL1_routes : (s.dropL1 core ords ctx).routes = s.routes := rfl

end

/-! ### `dropAsks` -/

section
variable (s : State) (asker : Nat)

@[simp] theorem State.dropAsks_sched : (s.dropAsks asker).sched = s.sched := rfl
@[simp] theorem State.dropAsks_presence : (s.dropAsks asker).presence = s.presence := rfl
@[simp] theorem State.dropAsks_mem : (s.dropAsks asker).mem = s.mem := rfl
@[simp] theorem State.dropAsks_caches_l1 : (s.dropAsks asker).caches.l1 = s.caches.l1 := rfl
@[simp] theorem State.dropAsks_caches_home : (s.dropAsks asker).caches.home = s.caches.home := rfl
@[simp] theorem State.dropAsks_caches_rdc : (s.dropAsks asker).caches.rdc = s.caches.rdc := rfl
@[simp] theorem State.dropAsks_caches_lent : (s.dropAsks asker).caches.lent = s.caches.lent := rfl
@[simp] theorem State.dropAsks_caches_extents : (s.dropAsks asker).caches.extents = s.caches.extents := rfl
@[simp] theorem State.dropAsks_caches_peerOut : (s.dropAsks asker).caches.peerOut = s.caches.peerOut := rfl
@[simp] theorem State.dropAsks_caches_replicas : (s.dropAsks asker).caches.replicas = s.caches.replicas := rfl
@[simp] theorem State.dropAsks_ctxs : (s.dropAsks asker).ctxs = s.ctxs := rfl
@[simp] theorem State.dropAsks_invs : (s.dropAsks asker).invs = s.invs := rfl
@[simp] theorem State.dropAsks_launches : (s.dropAsks asker).launches = s.launches := rfl
@[simp] theorem State.dropAsks_blocks : (s.dropAsks asker).blocks = s.blocks := rfl
@[simp] theorem State.dropAsks_groups : (s.dropAsks asker).groups = s.groups := rfl
@[simp] theorem State.dropAsks_bins : (s.dropAsks asker).bins = s.bins := rfl
@[simp] theorem State.dropAsks_parts : (s.dropAsks asker).parts = s.parts := rfl
@[simp] theorem State.dropAsks_items : (s.dropAsks asker).items = s.items := rfl
@[simp] theorem State.dropAsks_reqs : (s.dropAsks asker).reqs = s.reqs := rfl
@[simp] theorem State.dropAsks_faults : (s.dropAsks asker).faults = s.faults := rfl
@[simp] theorem State.dropAsks_engines : (s.dropAsks asker).engines = s.engines := rfl
@[simp] theorem State.dropAsks_cellar : (s.dropAsks asker).cellar = s.cellar := rfl
@[simp] theorem State.dropAsks_tables : (s.dropAsks asker).tables = s.tables := rfl
@[simp] theorem State.dropAsks_queues : (s.dropAsks asker).queues = s.queues := rfl
@[simp] theorem State.dropAsks_link : (s.dropAsks asker).link = s.link := rfl
@[simp] theorem State.dropAsks_fw : (s.dropAsks asker).fw = s.fw := rfl
@[simp] theorem State.dropAsks_rel : (s.dropAsks asker).rel = s.rel := rfl
@[simp] theorem State.dropAsks_dbg : (s.dropAsks asker).dbg = s.dbg := rfl
@[simp] theorem State.dropAsks_power : (s.dropAsks asker).power = s.power := rfl
@[simp] theorem State.dropAsks_ports : (s.dropAsks asker).ports = s.ports := rfl
@[simp] theorem State.dropAsks_linksUp : (s.dropAsks asker).linksUp = s.linksUp := rfl
@[simp] theorem State.dropAsks_routes : (s.dropAsks asker).routes = s.routes := rfl

end

/-! ### `joinAsk` -/

section
variable (s : State) (id asker : Nat) (units : List Nat)

@[simp] theorem State.joinAsk_sched : (s.joinAsk id asker units).sched = s.sched := rfl
@[simp] theorem State.joinAsk_presence : (s.joinAsk id asker units).presence = s.presence := rfl
@[simp] theorem State.joinAsk_mem : (s.joinAsk id asker units).mem = s.mem := rfl
@[simp] theorem State.joinAsk_caches_l1 : (s.joinAsk id asker units).caches.l1 = s.caches.l1 := rfl
@[simp] theorem State.joinAsk_caches_home : (s.joinAsk id asker units).caches.home = s.caches.home := rfl
@[simp] theorem State.joinAsk_caches_rdc : (s.joinAsk id asker units).caches.rdc = s.caches.rdc := rfl
@[simp] theorem State.joinAsk_caches_lent : (s.joinAsk id asker units).caches.lent = s.caches.lent := rfl
@[simp] theorem State.joinAsk_caches_extents : (s.joinAsk id asker units).caches.extents = s.caches.extents := rfl
@[simp] theorem State.joinAsk_caches_peerOut : (s.joinAsk id asker units).caches.peerOut = s.caches.peerOut := rfl
@[simp] theorem State.joinAsk_caches_replicas : (s.joinAsk id asker units).caches.replicas = s.caches.replicas := rfl
@[simp] theorem State.joinAsk_ctxs : (s.joinAsk id asker units).ctxs = s.ctxs := rfl
@[simp] theorem State.joinAsk_invs : (s.joinAsk id asker units).invs = s.invs := rfl
@[simp] theorem State.joinAsk_launches : (s.joinAsk id asker units).launches = s.launches := rfl
@[simp] theorem State.joinAsk_blocks : (s.joinAsk id asker units).blocks = s.blocks := rfl
@[simp] theorem State.joinAsk_groups : (s.joinAsk id asker units).groups = s.groups := rfl
@[simp] theorem State.joinAsk_bins : (s.joinAsk id asker units).bins = s.bins := rfl
@[simp] theorem State.joinAsk_parts : (s.joinAsk id asker units).parts = s.parts := rfl
@[simp] theorem State.joinAsk_items : (s.joinAsk id asker units).items = s.items := rfl
@[simp] theorem State.joinAsk_reqs : (s.joinAsk id asker units).reqs = s.reqs := rfl
@[simp] theorem State.joinAsk_faults : (s.joinAsk id asker units).faults = s.faults := rfl
@[simp] theorem State.joinAsk_engines : (s.joinAsk id asker units).engines = s.engines := rfl
@[simp] theorem State.joinAsk_cellar : (s.joinAsk id asker units).cellar = s.cellar := rfl
@[simp] theorem State.joinAsk_tables : (s.joinAsk id asker units).tables = s.tables := rfl
@[simp] theorem State.joinAsk_queues : (s.joinAsk id asker units).queues = s.queues := rfl
@[simp] theorem State.joinAsk_link : (s.joinAsk id asker units).link = s.link := rfl
@[simp] theorem State.joinAsk_fw : (s.joinAsk id asker units).fw = s.fw := rfl
@[simp] theorem State.joinAsk_rel : (s.joinAsk id asker units).rel = s.rel := rfl
@[simp] theorem State.joinAsk_dbg : (s.joinAsk id asker units).dbg = s.dbg := rfl
@[simp] theorem State.joinAsk_power : (s.joinAsk id asker units).power = s.power := rfl
@[simp] theorem State.joinAsk_ports : (s.joinAsk id asker units).ports = s.ports := rfl
@[simp] theorem State.joinAsk_linksUp : (s.joinAsk id asker units).linksUp = s.linksUp := rfl
@[simp] theorem State.joinAsk_routes : (s.joinAsk id asker units).routes = s.routes := rfl

end

/-! ### `dropExtents` -/

section
variable (s : State) (units : List Nat) (ctx obj o : Nat) (f : Extent → Bool)

@[simp] theorem State.dropExtents_sched : (s.dropExtents units ctx obj o f).sched = s.sched := rfl
@[simp] theorem State.dropExtents_presence : (s.dropExtents units ctx obj o f).presence = s.presence := rfl
@[simp] theorem State.dropExtents_mem : (s.dropExtents units ctx obj o f).mem = s.mem := rfl
@[simp] theorem State.dropExtents_caches_l1 : (s.dropExtents units ctx obj o f).caches.l1 = s.caches.l1 := rfl
@[simp] theorem State.dropExtents_caches_home : (s.dropExtents units ctx obj o f).caches.home = s.caches.home := rfl
@[simp] theorem State.dropExtents_caches_rdc : (s.dropExtents units ctx obj o f).caches.rdc = s.caches.rdc := rfl
@[simp] theorem State.dropExtents_caches_lent : (s.dropExtents units ctx obj o f).caches.lent = s.caches.lent := rfl
@[simp] theorem State.dropExtents_caches_asks : (s.dropExtents units ctx obj o f).caches.asks = s.caches.asks := rfl
@[simp] theorem State.dropExtents_caches_peerOut : (s.dropExtents units ctx obj o f).caches.peerOut = s.caches.peerOut := rfl
@[simp] theorem State.dropExtents_caches_replicas : (s.dropExtents units ctx obj o f).caches.replicas = s.caches.replicas := rfl
@[simp] theorem State.dropExtents_ctxs : (s.dropExtents units ctx obj o f).ctxs = s.ctxs := rfl
@[simp] theorem State.dropExtents_invs : (s.dropExtents units ctx obj o f).invs = s.invs := rfl
@[simp] theorem State.dropExtents_launches : (s.dropExtents units ctx obj o f).launches = s.launches := rfl
@[simp] theorem State.dropExtents_blocks : (s.dropExtents units ctx obj o f).blocks = s.blocks := rfl
@[simp] theorem State.dropExtents_groups : (s.dropExtents units ctx obj o f).groups = s.groups := rfl
@[simp] theorem State.dropExtents_bins : (s.dropExtents units ctx obj o f).bins = s.bins := rfl
@[simp] theorem State.dropExtents_parts : (s.dropExtents units ctx obj o f).parts = s.parts := rfl
@[simp] theorem State.dropExtents_items : (s.dropExtents units ctx obj o f).items = s.items := rfl
@[simp] theorem State.dropExtents_reqs : (s.dropExtents units ctx obj o f).reqs = s.reqs := rfl
@[simp] theorem State.dropExtents_faults : (s.dropExtents units ctx obj o f).faults = s.faults := rfl
@[simp] theorem State.dropExtents_engines : (s.dropExtents units ctx obj o f).engines = s.engines := rfl
@[simp] theorem State.dropExtents_cellar : (s.dropExtents units ctx obj o f).cellar = s.cellar := rfl
@[simp] theorem State.dropExtents_tables : (s.dropExtents units ctx obj o f).tables = s.tables := rfl
@[simp] theorem State.dropExtents_queues : (s.dropExtents units ctx obj o f).queues = s.queues := rfl
@[simp] theorem State.dropExtents_link : (s.dropExtents units ctx obj o f).link = s.link := rfl
@[simp] theorem State.dropExtents_fw : (s.dropExtents units ctx obj o f).fw = s.fw := rfl
@[simp] theorem State.dropExtents_rel : (s.dropExtents units ctx obj o f).rel = s.rel := rfl
@[simp] theorem State.dropExtents_dbg : (s.dropExtents units ctx obj o f).dbg = s.dbg := rfl
@[simp] theorem State.dropExtents_power : (s.dropExtents units ctx obj o f).power = s.power := rfl
@[simp] theorem State.dropExtents_ports : (s.dropExtents units ctx obj o f).ports = s.ports := rfl
@[simp] theorem State.dropExtents_linksUp : (s.dropExtents units ctx obj o f).linksUp = s.linksUp := rfl
@[simp] theorem State.dropExtents_routes : (s.dropExtents units ctx obj o f).routes = s.routes := rfl

end

/-! ### `send` -/

section
variable (s : State) (m : PeerMsg)

@[simp] theorem State.send_sched : (s.send m).sched = s.sched := rfl
@[simp] theorem State.send_presence : (s.send m).presence = s.presence := rfl
@[simp] theorem State.send_mem : (s.send m).mem = s.mem := rfl
@[simp] theorem State.send_caches_l1 : (s.send m).caches.l1 = s.caches.l1 := rfl
@[simp] theorem State.send_caches_home : (s.send m).caches.home = s.caches.home := rfl
@[simp] theorem State.send_caches_rdc : (s.send m).caches.rdc = s.caches.rdc := rfl
@[simp] theorem State.send_caches_lent : (s.send m).caches.lent = s.caches.lent := rfl
@[simp] theorem State.send_caches_extents : (s.send m).caches.extents = s.caches.extents := rfl
@[simp] theorem State.send_caches_asks : (s.send m).caches.asks = s.caches.asks := rfl
@[simp] theorem State.send_caches_replicas : (s.send m).caches.replicas = s.caches.replicas := rfl
@[simp] theorem State.send_ctxs : (s.send m).ctxs = s.ctxs := rfl
@[simp] theorem State.send_invs : (s.send m).invs = s.invs := rfl
@[simp] theorem State.send_launches : (s.send m).launches = s.launches := rfl
@[simp] theorem State.send_blocks : (s.send m).blocks = s.blocks := rfl
@[simp] theorem State.send_groups : (s.send m).groups = s.groups := rfl
@[simp] theorem State.send_bins : (s.send m).bins = s.bins := rfl
@[simp] theorem State.send_parts : (s.send m).parts = s.parts := rfl
@[simp] theorem State.send_items : (s.send m).items = s.items := rfl
@[simp] theorem State.send_reqs : (s.send m).reqs = s.reqs := rfl
@[simp] theorem State.send_faults : (s.send m).faults = s.faults := rfl
@[simp] theorem State.send_engines : (s.send m).engines = s.engines := rfl
@[simp] theorem State.send_cellar : (s.send m).cellar = s.cellar := rfl
@[simp] theorem State.send_tables : (s.send m).tables = s.tables := rfl
@[simp] theorem State.send_queues : (s.send m).queues = s.queues := rfl
@[simp] theorem State.send_link : (s.send m).link = s.link := rfl
@[simp] theorem State.send_fw : (s.send m).fw = s.fw := rfl
@[simp] theorem State.send_rel : (s.send m).rel = s.rel := rfl
@[simp] theorem State.send_dbg : (s.send m).dbg = s.dbg := rfl
@[simp] theorem State.send_power : (s.send m).power = s.power := rfl
@[simp] theorem State.send_ports : (s.send m).ports = s.ports := rfl
@[simp] theorem State.send_linksUp : (s.send m).linksUp = s.linksUp := rfl
@[simp] theorem State.send_routes : (s.send m).routes = s.routes := rfl

end

/-! ### `postEvent` -/

section
variable (s : State) (kind ctx arg : Nat)

@[simp] theorem State.postEvent_sched : (s.postEvent kind ctx arg).sched = s.sched := rfl
@[simp] theorem State.postEvent_presence : (s.postEvent kind ctx arg).presence = s.presence := rfl
@[simp] theorem State.postEvent_mem : (s.postEvent kind ctx arg).mem = s.mem := rfl
@[simp] theorem State.postEvent_caches : (s.postEvent kind ctx arg).caches = s.caches := rfl
@[simp] theorem State.postEvent_ctxs : (s.postEvent kind ctx arg).ctxs = s.ctxs := rfl
@[simp] theorem State.postEvent_invs : (s.postEvent kind ctx arg).invs = s.invs := rfl
@[simp] theorem State.postEvent_launches : (s.postEvent kind ctx arg).launches = s.launches := rfl
@[simp] theorem State.postEvent_blocks : (s.postEvent kind ctx arg).blocks = s.blocks := rfl
@[simp] theorem State.postEvent_groups : (s.postEvent kind ctx arg).groups = s.groups := rfl
@[simp] theorem State.postEvent_bins : (s.postEvent kind ctx arg).bins = s.bins := rfl
@[simp] theorem State.postEvent_parts : (s.postEvent kind ctx arg).parts = s.parts := rfl
@[simp] theorem State.postEvent_items : (s.postEvent kind ctx arg).items = s.items := rfl
@[simp] theorem State.postEvent_reqs : (s.postEvent kind ctx arg).reqs = s.reqs := rfl
@[simp] theorem State.postEvent_faults : (s.postEvent kind ctx arg).faults = s.faults := rfl
@[simp] theorem State.postEvent_engines : (s.postEvent kind ctx arg).engines = s.engines := rfl
@[simp] theorem State.postEvent_cellar : (s.postEvent kind ctx arg).cellar = s.cellar := rfl
@[simp] theorem State.postEvent_tables : (s.postEvent kind ctx arg).tables = s.tables := rfl
@[simp] theorem State.postEvent_queues : (s.postEvent kind ctx arg).queues = s.queues := rfl
@[simp] theorem State.postEvent_link_cmdbase : (s.postEvent kind ctx arg).link.cmdbase = s.link.cmdbase := rfl
@[simp] theorem State.postEvent_link_cmdlog2 : (s.postEvent kind ctx arg).link.cmdlog2 = s.link.cmdlog2 := rfl
@[simp] theorem State.postEvent_link_cmdtail : (s.postEvent kind ctx arg).link.cmdtail = s.link.cmdtail := rfl
@[simp] theorem State.postEvent_link_cmdhead : (s.postEvent kind ctx arg).link.cmdhead = s.link.cmdhead := rfl
@[simp] theorem State.postEvent_link_cplbase : (s.postEvent kind ctx arg).link.cplbase = s.link.cplbase := rfl
@[simp] theorem State.postEvent_link_qcbbase : (s.postEvent kind ctx arg).link.qcbbase = s.link.qcbbase := rfl
@[simp] theorem State.postEvent_link_evbase : (s.postEvent kind ctx arg).link.evbase = s.link.evbase := rfl
@[simp] theorem State.postEvent_link_evlog2 : (s.postEvent kind ctx arg).link.evlog2 = s.link.evlog2 := rfl
@[simp] theorem State.postEvent_link_evprod : (s.postEvent kind ctx arg).link.evprod = s.link.evprod := rfl
@[simp] theorem State.postEvent_link_evcons : (s.postEvent kind ctx arg).link.evcons = s.link.evcons := rfl
@[simp] theorem State.postEvent_link_ctxtb : (s.postEvent kind ctx arg).link.ctxtb = s.link.ctxtb := rfl
@[simp] theorem State.postEvent_link_evseq : (s.postEvent kind ctx arg).link.evseq = s.link.evseq := rfl
@[simp] theorem State.postEvent_link_msix : (s.postEvent kind ctx arg).link.msix = s.link.msix := rfl
@[simp] theorem State.postEvent_link_atsDone : (s.postEvent kind ctx arg).link.atsDone = s.link.atsDone := rfl
@[simp] theorem State.postEvent_link_gated : (s.postEvent kind ctx arg).link.gated = s.link.gated := rfl
@[simp] theorem State.postEvent_link_catcher : (s.postEvent kind ctx arg).link.catcher = s.link.catcher := rfl
@[simp] theorem State.postEvent_link_ovf : (s.postEvent kind ctx arg).link.ovf = s.link.ovf := rfl
@[simp] theorem State.postEvent_link_feeds : (s.postEvent kind ctx arg).link.feeds = s.link.feeds := rfl
@[simp] theorem State.postEvent_fw : (s.postEvent kind ctx arg).fw = s.fw := rfl
@[simp] theorem State.postEvent_rel : (s.postEvent kind ctx arg).rel = s.rel := rfl
@[simp] theorem State.postEvent_dbg : (s.postEvent kind ctx arg).dbg = s.dbg := rfl
@[simp] theorem State.postEvent_power : (s.postEvent kind ctx arg).power = s.power := rfl
@[simp] theorem State.postEvent_ports : (s.postEvent kind ctx arg).ports = s.ports := rfl
@[simp] theorem State.postEvent_linksUp : (s.postEvent kind ctx arg).linksUp = s.linksUp := rfl
@[simp] theorem State.postEvent_routes : (s.postEvent kind ctx arg).routes = s.routes := rfl

end

/-! ### `lockReqs` -/

section
variable (s : State) (rs : List Req)

@[simp] theorem State.lockReqs_sched : (s.lockReqs rs).sched = s.sched := rfl
@[simp] theorem State.lockReqs_presence : (s.lockReqs rs).presence = s.presence := rfl
@[simp] theorem State.lockReqs_mem : (s.lockReqs rs).mem = s.mem := rfl
@[simp] theorem State.lockReqs_caches : (s.lockReqs rs).caches = s.caches := rfl
@[simp] theorem State.lockReqs_ctxs : (s.lockReqs rs).ctxs = s.ctxs := rfl
@[simp] theorem State.lockReqs_invs : (s.lockReqs rs).invs = s.invs := rfl
@[simp] theorem State.lockReqs_launches : (s.lockReqs rs).launches = s.launches := rfl
@[simp] theorem State.lockReqs_blocks : (s.lockReqs rs).blocks = s.blocks := rfl
@[simp] theorem State.lockReqs_groups : (s.lockReqs rs).groups = s.groups := rfl
@[simp] theorem State.lockReqs_bins : (s.lockReqs rs).bins = s.bins := rfl
@[simp] theorem State.lockReqs_parts : (s.lockReqs rs).parts = s.parts := rfl
@[simp] theorem State.lockReqs_items : (s.lockReqs rs).items = s.items := rfl
@[simp] theorem State.lockReqs_faults : (s.lockReqs rs).faults = s.faults := rfl
@[simp] theorem State.lockReqs_engines : (s.lockReqs rs).engines = s.engines := rfl
@[simp] theorem State.lockReqs_cellar : (s.lockReqs rs).cellar = s.cellar := rfl
@[simp] theorem State.lockReqs_tables : (s.lockReqs rs).tables = s.tables := rfl
@[simp] theorem State.lockReqs_queues : (s.lockReqs rs).queues = s.queues := rfl
@[simp] theorem State.lockReqs_link : (s.lockReqs rs).link = s.link := rfl
@[simp] theorem State.lockReqs_fw : (s.lockReqs rs).fw = s.fw := rfl
@[simp] theorem State.lockReqs_rel : (s.lockReqs rs).rel = s.rel := rfl
@[simp] theorem State.lockReqs_dbg : (s.lockReqs rs).dbg = s.dbg := rfl
@[simp] theorem State.lockReqs_power : (s.lockReqs rs).power = s.power := rfl
@[simp] theorem State.lockReqs_ports : (s.lockReqs rs).ports = s.ports := rfl
@[simp] theorem State.lockReqs_linksUp : (s.lockReqs rs).linksUp = s.linksUp := rfl
@[simp] theorem State.lockReqs_routes : (s.lockReqs rs).routes = s.routes := rfl

end

/-! ### `lockItems` -/

section
variable (s : State) (is : List Item)

@[simp] theorem State.lockItems_sched : (s.lockItems is).sched = s.sched := rfl
@[simp] theorem State.lockItems_presence : (s.lockItems is).presence = s.presence := rfl
@[simp] theorem State.lockItems_mem : (s.lockItems is).mem = s.mem := rfl
@[simp] theorem State.lockItems_caches : (s.lockItems is).caches = s.caches := rfl
@[simp] theorem State.lockItems_ctxs : (s.lockItems is).ctxs = s.ctxs := rfl
@[simp] theorem State.lockItems_invs : (s.lockItems is).invs = s.invs := rfl
@[simp] theorem State.lockItems_launches : (s.lockItems is).launches = s.launches := rfl
@[simp] theorem State.lockItems_blocks : (s.lockItems is).blocks = s.blocks := rfl
@[simp] theorem State.lockItems_groups : (s.lockItems is).groups = s.groups := rfl
@[simp] theorem State.lockItems_bins : (s.lockItems is).bins = s.bins := rfl
@[simp] theorem State.lockItems_parts : (s.lockItems is).parts = s.parts := rfl
@[simp] theorem State.lockItems_reqs : (s.lockItems is).reqs = s.reqs := rfl
@[simp] theorem State.lockItems_faults : (s.lockItems is).faults = s.faults := rfl
@[simp] theorem State.lockItems_engines : (s.lockItems is).engines = s.engines := rfl
@[simp] theorem State.lockItems_cellar : (s.lockItems is).cellar = s.cellar := rfl
@[simp] theorem State.lockItems_tables : (s.lockItems is).tables = s.tables := rfl
@[simp] theorem State.lockItems_queues : (s.lockItems is).queues = s.queues := rfl
@[simp] theorem State.lockItems_link : (s.lockItems is).link = s.link := rfl
@[simp] theorem State.lockItems_fw : (s.lockItems is).fw = s.fw := rfl
@[simp] theorem State.lockItems_rel : (s.lockItems is).rel = s.rel := rfl
@[simp] theorem State.lockItems_dbg : (s.lockItems is).dbg = s.dbg := rfl
@[simp] theorem State.lockItems_power : (s.lockItems is).power = s.power := rfl
@[simp] theorem State.lockItems_ports : (s.lockItems is).ports = s.ports := rfl
@[simp] theorem State.lockItems_linksUp : (s.lockItems is).linksUp = s.linksUp := rfl
@[simp] theorem State.lockItems_routes : (s.lockItems is).routes = s.routes := rfl

end

/-! ### `updRead` -/

section
variable (s : State) (id : Nat) (f : PageRead → PageRead)

@[simp] theorem State.updRead_sched : (s.updRead id f).sched = s.sched := rfl
@[simp] theorem State.updRead_presence : (s.updRead id f).presence = s.presence := rfl
@[simp] theorem State.updRead_mem : (s.updRead id f).mem = s.mem := rfl
@[simp] theorem State.updRead_caches : (s.updRead id f).caches = s.caches := rfl
@[simp] theorem State.updRead_ctxs : (s.updRead id f).ctxs = s.ctxs := rfl
@[simp] theorem State.updRead_invs : (s.updRead id f).invs = s.invs := rfl
@[simp] theorem State.updRead_launches : (s.updRead id f).launches = s.launches := rfl
@[simp] theorem State.updRead_blocks : (s.updRead id f).blocks = s.blocks := rfl
@[simp] theorem State.updRead_groups : (s.updRead id f).groups = s.groups := rfl
@[simp] theorem State.updRead_bins : (s.updRead id f).bins = s.bins := rfl
@[simp] theorem State.updRead_parts : (s.updRead id f).parts = s.parts := rfl
@[simp] theorem State.updRead_items : (s.updRead id f).items = s.items := rfl
@[simp] theorem State.updRead_reqs : (s.updRead id f).reqs = s.reqs := rfl
@[simp] theorem State.updRead_faults : (s.updRead id f).faults = s.faults := rfl
@[simp] theorem State.updRead_engines : (s.updRead id f).engines = s.engines := rfl
@[simp] theorem State.updRead_cellar_pages : (s.updRead id f).cellar.pages = s.cellar.pages := rfl
@[simp] theorem State.updRead_cellar_ops : (s.updRead id f).cellar.ops = s.cellar.ops := rfl
@[simp] theorem State.updRead_cellar_order : (s.updRead id f).cellar.order = s.cellar.order := rfl
@[simp] theorem State.updRead_tables : (s.updRead id f).tables = s.tables := rfl
@[simp] theorem State.updRead_queues : (s.updRead id f).queues = s.queues := rfl
@[simp] theorem State.updRead_link : (s.updRead id f).link = s.link := rfl
@[simp] theorem State.updRead_fw : (s.updRead id f).fw = s.fw := rfl
@[simp] theorem State.updRead_rel : (s.updRead id f).rel = s.rel := rfl
@[simp] theorem State.updRead_dbg : (s.updRead id f).dbg = s.dbg := rfl
@[simp] theorem State.updRead_power : (s.updRead id f).power = s.power := rfl
@[simp] theorem State.updRead_ports : (s.updRead id f).ports = s.ports := rfl
@[simp] theorem State.updRead_linksUp : (s.updRead id f).linksUp = s.linksUp := rfl
@[simp] theorem State.updRead_routes : (s.updRead id f).routes = s.routes := rfl

end

/-! ### `updCmd` -/

section
variable (s : State) (id : Nat) (f : Cmd → Cmd)

@[simp] theorem State.updCmd_sched : (s.updCmd id f).sched = s.sched := rfl
@[simp] theorem State.updCmd_presence : (s.updCmd id f).presence = s.presence := rfl
@[simp] theorem State.updCmd_mem : (s.updCmd id f).mem = s.mem := rfl
@[simp] theorem State.updCmd_caches : (s.updCmd id f).caches = s.caches := rfl
@[simp] theorem State.updCmd_ctxs : (s.updCmd id f).ctxs = s.ctxs := rfl
@[simp] theorem State.updCmd_invs : (s.updCmd id f).invs = s.invs := rfl
@[simp] theorem State.updCmd_launches : (s.updCmd id f).launches = s.launches := rfl
@[simp] theorem State.updCmd_blocks : (s.updCmd id f).blocks = s.blocks := rfl
@[simp] theorem State.updCmd_groups : (s.updCmd id f).groups = s.groups := rfl
@[simp] theorem State.updCmd_bins : (s.updCmd id f).bins = s.bins := rfl
@[simp] theorem State.updCmd_parts : (s.updCmd id f).parts = s.parts := rfl
@[simp] theorem State.updCmd_items : (s.updCmd id f).items = s.items := rfl
@[simp] theorem State.updCmd_reqs : (s.updCmd id f).reqs = s.reqs := rfl
@[simp] theorem State.updCmd_faults : (s.updCmd id f).faults = s.faults := rfl
@[simp] theorem State.updCmd_engines_rr : (s.updCmd id f).engines.rr = s.engines.rr := rfl
@[simp] theorem State.updCmd_engines_resv : (s.updCmd id f).engines.resv = s.engines.resv := rfl
@[simp] theorem State.updCmd_engines_granted : (s.updCmd id f).engines.granted = s.engines.granted := rfl
@[simp] theorem State.updCmd_cellar : (s.updCmd id f).cellar = s.cellar := rfl
@[simp] theorem State.updCmd_tables : (s.updCmd id f).tables = s.tables := rfl
@[simp] theorem State.updCmd_queues : (s.updCmd id f).queues = s.queues := rfl
@[simp] theorem State.updCmd_link : (s.updCmd id f).link = s.link := rfl
@[simp] theorem State.updCmd_fw : (s.updCmd id f).fw = s.fw := rfl
@[simp] theorem State.updCmd_rel : (s.updCmd id f).rel = s.rel := rfl
@[simp] theorem State.updCmd_dbg : (s.updCmd id f).dbg = s.dbg := rfl
@[simp] theorem State.updCmd_power : (s.updCmd id f).power = s.power := rfl
@[simp] theorem State.updCmd_ports : (s.updCmd id f).ports = s.ports := rfl
@[simp] theorem State.updCmd_linksUp : (s.updCmd id f).linksUp = s.linksUp := rfl
@[simp] theorem State.updCmd_routes : (s.updCmd id f).routes = s.routes := rfl

end

/-! ### `updPort` -/

section
variable (s : State) (n : Nat) (f : Port → Port)

@[simp] theorem State.updPort_sched : (s.updPort n f).sched = s.sched := rfl
@[simp] theorem State.updPort_presence : (s.updPort n f).presence = s.presence := rfl
@[simp] theorem State.updPort_mem : (s.updPort n f).mem = s.mem := rfl
@[simp] theorem State.updPort_caches : (s.updPort n f).caches = s.caches := rfl
@[simp] theorem State.updPort_ctxs : (s.updPort n f).ctxs = s.ctxs := rfl
@[simp] theorem State.updPort_invs : (s.updPort n f).invs = s.invs := rfl
@[simp] theorem State.updPort_launches : (s.updPort n f).launches = s.launches := rfl
@[simp] theorem State.updPort_blocks : (s.updPort n f).blocks = s.blocks := rfl
@[simp] theorem State.updPort_groups : (s.updPort n f).groups = s.groups := rfl
@[simp] theorem State.updPort_bins : (s.updPort n f).bins = s.bins := rfl
@[simp] theorem State.updPort_parts : (s.updPort n f).parts = s.parts := rfl
@[simp] theorem State.updPort_items : (s.updPort n f).items = s.items := rfl
@[simp] theorem State.updPort_reqs : (s.updPort n f).reqs = s.reqs := rfl
@[simp] theorem State.updPort_faults : (s.updPort n f).faults = s.faults := rfl
@[simp] theorem State.updPort_engines : (s.updPort n f).engines = s.engines := rfl
@[simp] theorem State.updPort_cellar : (s.updPort n f).cellar = s.cellar := rfl
@[simp] theorem State.updPort_tables : (s.updPort n f).tables = s.tables := rfl
@[simp] theorem State.updPort_queues : (s.updPort n f).queues = s.queues := rfl
@[simp] theorem State.updPort_link : (s.updPort n f).link = s.link := rfl
@[simp] theorem State.updPort_fw : (s.updPort n f).fw = s.fw := rfl
@[simp] theorem State.updPort_rel : (s.updPort n f).rel = s.rel := rfl
@[simp] theorem State.updPort_dbg : (s.updPort n f).dbg = s.dbg := rfl
@[simp] theorem State.updPort_power : (s.updPort n f).power = s.power := rfl
@[simp] theorem State.updPort_linksUp : (s.updPort n f).linksUp = s.linksUp := rfl
@[simp] theorem State.updPort_routes : (s.updPort n f).routes = s.routes := rfl

end

/-! ### `occupy` -/

section
variable (s : State) (g : Group) (b : Block) (i : Instr)

@[simp] theorem State.occupy_sched : (s.occupy g b i).sched = s.sched := rfl
@[simp] theorem State.occupy_presence : (s.occupy g b i).presence = s.presence := rfl
@[simp] theorem State.occupy_mem : (s.occupy g b i).mem = s.mem := rfl
@[simp] theorem State.occupy_caches : (s.occupy g b i).caches = s.caches := rfl
@[simp] theorem State.occupy_ctxs : (s.occupy g b i).ctxs = s.ctxs := rfl
@[simp] theorem State.occupy_invs : (s.occupy g b i).invs = s.invs := rfl
@[simp] theorem State.occupy_launches : (s.occupy g b i).launches = s.launches := rfl
@[simp] theorem State.occupy_blocks : (s.occupy g b i).blocks = s.blocks := rfl
@[simp] theorem State.occupy_groups : (s.occupy g b i).groups = s.groups := rfl
@[simp] theorem State.occupy_bins : (s.occupy g b i).bins = s.bins := rfl
@[simp] theorem State.occupy_items : (s.occupy g b i).items = s.items := rfl
@[simp] theorem State.occupy_reqs : (s.occupy g b i).reqs = s.reqs := rfl
@[simp] theorem State.occupy_faults : (s.occupy g b i).faults = s.faults := rfl
@[simp] theorem State.occupy_engines : (s.occupy g b i).engines = s.engines := rfl
@[simp] theorem State.occupy_cellar : (s.occupy g b i).cellar = s.cellar := rfl
@[simp] theorem State.occupy_tables : (s.occupy g b i).tables = s.tables := rfl
@[simp] theorem State.occupy_queues : (s.occupy g b i).queues = s.queues := rfl
@[simp] theorem State.occupy_link : (s.occupy g b i).link = s.link := rfl
@[simp] theorem State.occupy_fw : (s.occupy g b i).fw = s.fw := rfl
@[simp] theorem State.occupy_rel : (s.occupy g b i).rel = s.rel := rfl
@[simp] theorem State.occupy_dbg : (s.occupy g b i).dbg = s.dbg := rfl
@[simp] theorem State.occupy_power : (s.occupy g b i).power = s.power := rfl
@[simp] theorem State.occupy_ports : (s.occupy g b i).ports = s.ports := rfl
@[simp] theorem State.occupy_linksUp : (s.occupy g b i).linksUp = s.linksUp := rfl
@[simp] theorem State.occupy_routes : (s.occupy g b i).routes = s.routes := rfl

end

end Sys2Proof.Machine
end

