-- ==== Sys2Proof/Laws/Words.lean ====
section
/-!
SUPPORT. Each shape of word that a statement names, from the shared issue: what a word of that shape does follows from how
its lanes and its performance are written, by one lemma for each shape.
-/

namespace Sys2Proof.Machine

open Sys2Proof

theorem screened_all {fs : List Form} {act : List Thread} (h : Passes fs act) : ∀ x ∈ act, Screened fs act x :=
  fun x hx => .of_check (h x hx)

/-- A word whose lanes leave the state alone. -/
theorem plainWord_of {i : Instr} {f : State → Form} {mem : Bool} {e : State → Block → Thread → Eff} (lane : State → LaneFn)
    (hi : ∀ s, exec i s = laneWord [f s] mem 1 (lane s) s)
    (hl : ∀ s g b act x, s.current = some (g, b) → lane s s b act x = (s, .ok (e s b x))) : PlainWord i f mem e := by
  intro s g b hc hu hp hr
  rw [hi]
  exact laneWord_done hc hu hp (lanesPass_pure fun x _ => hl s g b _ x hc) hr

/-- A word whose lanes go through a capability. -/
theorem memoryWord_of {i : Instr} {f : Form} {mem : Bool} {op : Thread → AccOp} {at1 : Thread → CapReg × Int × Nat × Nat}
    {e : Thread → State → List Piece → Eff} (lane : LaneFn) (hi : ∀ s, exec i s = laneWord [f] mem 1 lane s)
    (hl : ∀ s s1 b act x ps, s.access b (at1 x).1 (at1 x).2.1 (at1 x).2.2.1 (at1 x).2.2.2 (op x) = (s1, .ok ps) →
      lane s b act x = (s1, .ok (e x s1 ps))) : MemoryWord i f mem op at1 e := by
  intro s s' g b qs hc hu hp ha hr
  rw [hi]
  exact laneWord_done hc hu hp (lanesPass_access (fun x _ s s1 ps h => hl s s1 b _ x ps h) ha) hr

/-- A word whose lanes access scratch. -/
theorem scratchWord_of {i : Instr} {f : Form} {at1 : Thread → Int × Nat × Nat} {e : Thread → Piece → Eff} (lane : LaneFn)
    (hi : ∀ s, exec i s = laneWord [f] true 1 lane s)
    (hl : ∀ s b act x q, s.scratchAccess b (at1 x).1 (at1 x).2.1 (at1 x).2.2 = .ok q →
      lane s b act x = (s, .ok (inScratch (fun _ => q) e x))) : ScratchWord i f at1 e := by
  intro s g b q hc hu hp ha hr
  rw [hi]
  exact laneWord_done hc hu hp (lanesPass_pure fun x hx => hl s b _ x (q x) (ha x hx)) hr

/-- The lanes of a command word: the leader's, and those of the others, which do nothing. -/
theorem lanesPass_rest {lane : LaneFn} {b : Block} {act : List Thread} {s : State} :
    ∀ {xs : List Thread}, (∀ y ∈ xs, lane s b act y = (s, .ok {})) →
      lanesPass lane b act xs s = some (s, each xs fun _ => {}) := fun h => lanesPass_pure h

/-- Lanes that pass one after another. -/
theorem lanesPass_append {lane : LaneFn} {b : Block} {act ys : List Thread} {s1 s2 : State} {os : List (Thread × Eff)} :
    ∀ {xs : List Thread} {s : State} {rs : List (Thread × Eff)}, lanesPass lane b act xs s = some (s1, rs) →
      lanesPass lane b act ys s1 = some (s2, os) → lanesPass lane b act (xs ++ ys) s = some (s2, rs ++ os)
  | [], s, rs, h1, h2 => by
    simp only [lanesPass, Option.some.injEq, Prod.mk.injEq] at h1
    obtain ⟨rfl, rfl⟩ := h1
    simpa using h2
  | x :: xs, s, rs, h1, h2 => by
    simp only [lanesPass, List.cons_append] at h1 ⊢
    split at h1
    · next t e hl =>
      simp only [Option.map_eq_some_iff] at h1
      obtain ⟨⟨s3, rs'⟩, h3, h4⟩ := h1
      simp only [Prod.mk.injEq] at h4
      obtain ⟨rfl, rfl⟩ := h4
      simp only [lanesPass_append h3 h2]
      rfl
    · cases h1

/-- A command word. -/
theorem commandWord_of {i : Instr} {f : Form} {checks : Block → Thread → List Check} {cmd : Block → Thread → Cmd}
    (hi : ∀ s, exec i s = commandWord f checks cmd s) : CommandWord i f checks cmd := by
  intro s s' g b x pre rest go hc ha hd hu hp hk hr
  rw [hi]
  unfold commandWord
  have others : ∀ y, y ∈ pre ∨ y ∈ rest → isLeader (pre ++ x :: rest) y = false := by
    intro y hy
    have hlt : x.tid < y.tid := hd y (List.mem_append.2 hy)
    simp only [isLeader, List.all_eq_false, decide_eq_true_eq]
    exact ⟨x, by simp, by omega⟩
  have hhz : ∀ t, s.hazard b.uid t { f with leader := true } = s.hazard b.uid t f := fun _ => rfl
  refine laneWord_screened (f := { f with leader := true }) hc ?_ ?_ (oks := commandOf b cmd x go pre rest) ?_ hr
  · rw [ha]
    refine ⟨fun y hy => ?_, hu.2⟩
    have := hu.1 y hy
    refine ⟨fun f' hf' => ?_, this.2⟩
    rw [List.mem_singleton] at hf'
    subst hf'
    rw [hhz]
    exact this.1 f (List.mem_singleton.2 rfl)
  · rw [ha]
    intro y hy
    unfold Screened
    rcases List.mem_append.1 hy with hy | hy
    · simp [others y (.inl hy)]
    · rcases List.mem_cons.1 hy with rfl | hy
      · have : checkAll y [{ f with leader := true }] = checkAll y [f] := rfl
        rw [this, hp, ite_self]
      · simp [others y (.inr hy)]
  · rw [ha]
    have hx : isLeader (pre ++ x :: rest) x = true := by
      simp only [isLeader, List.all_eq_true, decide_eq_true_eq]
      intro y hy
      rcases List.mem_append.1 hy with hy | hy
      · exact Nat.le_of_lt (hd y (List.mem_append_left _ hy))
      · rcases List.mem_cons.1 hy with rfl | hy
        · exact Nat.le_refl _
        · exact Nat.le_of_lt (hd y (List.mem_append_right _ hy))
    refine lanesPass_append (lanesPass_rest fun y hy => by simp [others y (.inl hy)]) ?_
    simp only [lanesPass, hx, if_true, hk, LaneRes.map]
    rw [lanesPass_rest fun y hy => by simp [others y (.inr hy)]]
    rfl

theorem each_ne {act : List Thread} {e : Thread → Eff} (h : act ≠ []) : each act e ≠ [] := by
  cases act with
  | nil => exact absurd rfl h
  | cons => simp [each]

/-- A commit-class word without operands in memory. -/
theorem commitWord_of {i : Instr} {f : State → Form} {drain : Item → Bool}
    {perform : State → Group → Block → List (Thread × Eff) → State}
    (hi : ∀ s, exec i s = commitWord [f s] drain (fun s _ _ _ => (s, .ok {})) (performThen perform) s) :
    CommitWord i f drain perform := by
  intro s g b b2 hc hm hp hd hb
  rw [hi]
  exact commitWord_done hc hm.1 hm.2.1 hm.2.2.1 (screened_all hp)
    (lanesPass_pure (e := fun _ => {}) fun x _ => rfl) (each_ne hm.2.2.2) hd hb
    (.inl ⟨fun o ho => by obtain ⟨x, -, rfl⟩ := List.mem_map.1 ho; rfl, rfl⟩)

/-- A word that waits for no entry. -/
theorem drained_none (s : State) (b : Block) (oks : List (Thread × Eff)) : Drained drainNone s b oks := by
  intro o _; simp [State.pendingIn, drainNone]

/-- A commit-class word whose lanes go through a capability. -/
theorem commitMemoryWord_of {i : Instr} {f : Form} {op : Thread → AccOp} {at1 : Thread → CapReg × Int × Nat × Nat}
    {e : Thread → State → List Piece → Eff} (lane : LaneFn)
    (hi : ∀ s, exec i s = commitWord [f] drainNone lane performPlain s)
    (hl : ∀ s s1 b act x ps, s.access b (at1 x).1 (at1 x).2.1 (at1 x).2.2.1 (at1 x).2.2.2 (op x) = (s1, .ok ps) →
      lane s b act x = (s1, .ok (e x s1 ps))) : CommitMemoryWord i f op at1 e := by
  intro s s' g b b2 qs hc hm hp ha hb hq
  rw [hi]
  have hne : withPieces qs e ≠ [] := by
    have hx := hm.2.2.2
    cases h : actives f.guard g b with
    | nil => exact absurd h hx
    | cons x xs =>
      rw [h] at ha
      simp only [accessesPass] at ha
      split at ha
      · simp only [Option.map_eq_some_iff] at ha
        obtain ⟨r, -, h2⟩ := ha
        simp only [Prod.mk.injEq] at h2
        rw [← h2.2]; simp [withPieces]
      · cases ha
  exact commitWord_done hc hm.1 hm.2.1 hm.2.2.1 (screened_all hp)
    (lanesPass_access (fun x _ s s1 ps h => hl s s1 b _ x ps h) ha) hne (drained_none _ _ _) hb hq

/-- A commit-class word whose lanes access scratch. -/
theorem commitScratchWord_of {i : Instr} {f : Form} {at1 : Thread → Int × Nat × Nat} {e : Thread → Piece → Eff} (lane : LaneFn)
    (hi : ∀ s, exec i s = commitWord [f] drainNone lane performPlain s)
    (hl : ∀ s b act x q, s.scratchAccess b (at1 x).1 (at1 x).2.1 (at1 x).2.2 = .ok q →
      lane s b act x = (s, .ok (inScratch (fun _ => q) e x))) : CommitScratchWord i f at1 e := by
  intro s g b b2 q hc hm hp ha hb hq
  rw [hi]
  exact commitWord_done hc hm.1 hm.2.1 hm.2.2.1 (screened_all hp)
    (lanesPass_pure fun x hx => hl s b _ x (q x) (ha x hx)) (each_ne hm.2.2.2) (drained_none _ _ _) hb hq

/-- A commit-class word of which no thread is active. -/
theorem idleCommit_of {i : Instr} {f : State → Form} {drain : Item → Bool} (lane : LaneFn) (perform : PerformFn)
    (hi : ∀ s, exec i s = commitWord [f s] drain lane perform s) {gd : Guard} (hg : ∀ s, (f s).guard = gd) :
    IdleCommit i gd := by
  intro s g b hc hm ha
  rw [hi]
  exact commitWord_idle hc hm (by rw [hg]; exact ha)

/-- Lanes whose checks are all refused (R238). -/
theorem runLanes_refused {fs : List Form} {b : Block} {act : List Thread} {why : Thread → Nat × Nat} {lane : LaneFn} {s : State} :
    ∀ {xs : List Thread}, (∀ x ∈ xs, checkAll x fs = some (.trap (why x).1 (why x).2)) → (∀ x ∈ xs, (x.mid || (fs.any Form.leader && !(isLeader act x))) = false) →
      runLanes fs lane b act xs s = (s, xs.map fun x => (x, (LaneRes.trap (why x).1 (why x).2 : LaneRes Eff)))
  | [], _, _ => rfl
  | x :: xs, hp, hl => by
    simp only [runLanes, hp x List.mem_cons_self, hl x List.mem_cons_self, Bool.false_eq_true, if_false]
    rw [runLanes_refused (fun y hy => hp y (List.mem_cons_of_mem _ hy)) (fun y hy => hl y (List.mem_cons_of_mem _ hy))]
    rfl

/-- A word whose operands are refused in every active thread (R237, R238). -/
theorem refusedWord_of {f : Form} {fs : List Form} {kind : Nat} {mem : Bool} {i : Instr}
    (hi : ∃ lane, ∀ s, exec i s = laneWord (f :: fs) mem kind lane s) (hlead : (f :: fs).any Form.leader = false) :
    RefusedWord i (f :: fs) mem kind := by
  obtain ⟨lane, hi⟩ := hi
  intro s g b why hc hu hne hmid hp
  change Unhindered s b (f :: fs) mem kind (actives f.guard g b) at hu
  change actives f.guard g b ≠ [] at hne
  change ∀ x ∈ actives f.guard g b, x.mid = false at hmid
  change ∀ x ∈ actives f.guard g b, checkAll x (f :: fs) = some (.trap (why x).1 (why x).2) at hp
  have hany : ((actives f.guard g b).any fun x => ((f :: fs).any fun f => s.hazard b.uid x.tid f)
      || (mem && s.acquiring b.uid x.tid) || s.awaiting b.uid x.tid) = false := by
    rw [List.any_eq_false]
    intro x hx
    obtain ⟨ha, hb, hcc⟩ := hu.1 x hx
    have h1 : ((f :: fs).any fun f => s.hazard b.uid x.tid f) = false := by
      rw [List.any_eq_false]; intro f hf; simp [ha f hf]
    have h2 : (mem && s.acquiring b.uid x.tid) = false := by
      cases hm : mem with
      | false => rfl
      | true => simpa using hb hm
    rw [h1, h2, hcc]; simp
  rw [hi]
  unfold laneWord
  rw [hc]
  change (if ((actives f.guard g b).any fun x => ((f :: fs).any fun f => s.hazard b.uid x.tid f)
      || (mem && s.acquiring b.uid x.tid) || s.awaiting b.uid x.tid) = true then _ else _) = _
  rw [hany, if_neg Bool.false_ne_true]
  change (match s.glitchOf b (actives f.guard g b) kind with
    | some (l, special) => _
    | none => _) = _
  rw [hu.2]
  change (runLanes (f :: fs) lane b (actives f.guard g b) (actives f.guard g b) s).1.combine _ g b _
    (runLanes (f :: fs) lane b (actives f.guard g b) (actives f.guard g b) s).2 _ = _
  rw [runLanes_refused hp fun x hx => by rw [hmid x hx, hlead]; rfl]
  exact combine_allTraps hne

/-- A commit-class word whose operands are refused in every active thread. -/
theorem refusedCommit_of {f : Form} {i : Instr}
    (hi : ∃ drain lane perform, ∀ s, exec i s = commitWord [f] drain lane perform s) (hlead : f.leader = false) :
    RefusedCommit i f := by
  obtain ⟨drain, lane, perform, hi⟩ := hi
  intro s g b why hc hm hp ts t
  rw [hi]
  have hact : ((g.issuers b).filter fun x => x.mid || x.active f.guard) = actives f.guard g b :=
    List.filter_congr fun x hx => by rw [hm.1 x hx]; rfl
  have hout : ((actives f.guard g b).any fun x => s.outstanding b.uid x.tid) = false := by
    rw [List.any_eq_false]; intro x hx; simp [hm.2.1 x hx]
  unfold commitWord
  rw [hc]
  simp only [hact, hout, Bool.false_eq_true, if_false]
  rw [compared_clear hm.2.2.1]
  have hmid : ∀ x ∈ actives f.guard g b, x.mid = false := fun x hx => hm.1 x (List.mem_filter.1 hx).1
  have hl1 : ([f] : List Form).any Form.leader = false := by simp [hlead]
  rw [runLanes_refused hp fun x hx => by rw [hmid x hx, hl1]; rfl]
  simp only
  have hne := hm.2.2.2
  unfold State.combine
  change (match firstNoMem (allTraps (actives f.guard g b) why) with
    | some a => _
    | none => _) = _
  have e1 : firstNoMem (allTraps (actives f.guard g b) why) = none := firstNoMem_allTraps _ _
  have e2 : firstPoison (allTraps (actives f.guard g b) why) = none := firstPoison_allTraps _ _
  have e3 : anyWait (allTraps (actives f.guard g b) why) = false := anyWait_allTraps _ _
  have e4 : trapsOf (allTraps (actives f.guard g b) why) = ts := trapsOf_allTraps _ _
  have e5 : faultsOf (allTraps (actives f.guard g b) why) = [] := faultsOf_allTraps _ _
  have e6 : oksOf (allTraps (actives f.guard g b) why) = [] := oksOf_allTraps _ _
  have e : ((actives f.guard g b).map fun x => (x, (LaneRes.trap (why x).1 (why x).2 : LaneRes Eff))) = allTraps (actives f.guard g b) why := rfl
  rw [e1]
  simp only [e]
  rw [e2, e3, e4, e5, e6]
  simp only [Bool.false_eq_true, if_false]
  have hn : alignedTraps ts ≠ [] := by simpa [ts] using hne
  have hf : ∀ x : Thread, ((alignedTraps ts).any fun t => t.1 == x.tid) = ts.any fun t => t.1 == x.tid := fun x => alignedTraps_any _ _
  have ht : (s.dropAsks s.sched.cur).tmode b.ctx = s.tmode b.ctx := rfl
  have hT : (s.dropAsks s.sched.cur).takeTraps g.gid (alignedTraps ts) g.pc = t := rfl
  generalize alignedTraps ts = al at hn hf hT ⊢
  cases al with
  | nil => exact absurd rfl hn
  | cons z zs =>
    simp only [ht, hf, hT, hl1, ne_eq, not_true_eq_false, if_false, List.isEmpty_nil, if_true, Bool.not_false, Bool.and_true]
    cases s.tmode b.ctx <;> simp
    split <;> simp_all

end Sys2Proof.Machine
end

