-- ==== Sys2Proof/Tests/Slice0.lean ====
section
/-!
SUPPORT. Tests of one step each, words written out from the encoding tables of the manual, the smoke test of WellFormed, and
for every statement with hypotheses a state and operands that meet them together.
-/

namespace Sys2Proof.Tests

open Sys2Proof Sys2Proof.Machine

-- one theorem is checked after another: the checks of many at once take too many threads
set_option Elab.async false

/-! ### A small machine -/

/-- A vector register. -/
def vr (t : Tag) (x : Nat) : VReg := { val := BitVec.ofNat 64 x, tag := t }

/-- A thread with some vector registers written. -/
def holding (vs : List (Nat × VReg)) (x : Thread) : Thread := vs.foldl (fun x v => x.setV v.1 v.2) x

/-- A group of threads on the first home lanes of partition 0, each changed by a function of its own, whose next word
is w: the step that follows runs it. -/
def bench (w : Nat) (ts : List (Thread → Thread)) : State :=
  let s := State.reset.placeWord w
  { s with
    blocks := s.blocks.map fun b => { b with threads := b.threads.flatMap fun x => ts.mapIdx fun k f => f { x with tid := 8 * k } }
    groups := s.groups.map fun g => { g with tids := ts.mapIdx fun k _ => 8 * k } }

/-- The state after one step. -/
def after (s : State) : State := match step s with
  | .next t => t
  | _ => State.reset

/-- The thread on a home lane of the small machine. -/
def lane (s : State) (k : Nat) : Thread := (s.thread? 1 (8 * k)).getD { tid := 0 }

/-- A lone thread after one word. -/
def ran (w : Nat) (vs : List (Nat × VReg)) : Thread := lane (after (bench w [holding vs])) 0

/-- Register d of each lane after one word, where v5 of the lanes holds given values. -/
def acrossLanes (w : Nat) (ins : List VReg) (d : Nat) : List VReg :=
  let s := after (bench w (ins.map fun v => holding [(5, v)]))
  (List.range ins.length).map fun k => (lane s k).vreg d
theorem test_words_integer : ∀ p ∈ ([
    (0x1C100000000, .mov ⟨.always, 7, 8, 0, 0, .raw, .rn, false, 0⟩),
    (0x400100A0600108, .add ⟨.always, 4, 5, 6, 0, .s32x2, .rn, true, 0⟩),
    (0x800100A0600188, .sub ⟨.always, 4, 5, 6, 0, .s16x4, .rn, true, 0⟩),
    (0xC0004040300040, .mul ⟨.always, 1, 2, 3, 0, .u64, .rn, false, 0⟩),
    (0x1000241007000C0, .mulhi ⟨.always, 9, 8, 7, 0, .u32x2, .rn, false, 0⟩),
    (0x140008060402948, .mad ⟨.always, 2, 3, 4, 5, .u16x4, .rn, true, 0⟩),
    (0x180004040300200, .min ⟨.always, 1, 2, 3, 0, .s8x8, .rn, false, 0⟩),
    (0x1C04FC0403001C0, .max ⟨.always, 319, 2, 3, 0, .u8x8, .rn, false, 0⟩),
    (0x200004040000188, .abs ⟨.always, 1, 2, 0, 0, .s16x4, .rn, true, 0⟩),
    (0x271004040000080, .neg ⟨.ifFalse 2, 1, 2, 0, 0, .s64, .rn, false, 0⟩)] : List (Nat × Instr)), (decode p.1).toOption = some p.2 := by decide +kernel

theorem test_words_bits : ∀ p ∈ ([
    (0x280004040300040, .and ⟨.always, 1, 2, 3, 0, .u64, .rn, false, 0⟩),
    (0x2C0004040300000, .or ⟨.always, 1, 2, 3, 0, .raw, .rn, false, 0⟩),
    (0x300004040300100, .xor ⟨.always, 1, 2, 3, 0, .s32x2, .rn, false, 0⟩),
    (0x340004040000000, .not ⟨.always, 1, 2, 0, 0, .raw, .rn, false, 0⟩),
    (0x380004040300000, .andn ⟨.always, 1, 2, 3, 0, .raw, .rn, false, 0⟩),
    (0x3C000C0609000C0, .shl ⟨.always, 3, 3, 9, 0, .u32x2, .rn, false, 0⟩),
    (0x400004040300200, .shr ⟨.always, 1, 2, 3, 0, .s8x8, .rn, false, 0⟩),
    (0x440004040300200, .sar ⟨.always, 1, 2, 3, 0, .s8x8, .rn, false, 0⟩),
    (0x480004040300140, .rot ⟨.always, 1, 2, 3, 0, .u16x4, .rn, false, 0⟩),
    (0x4C0004040000040, .clz ⟨.always, 1, 2, 0, 0, .u64, .rn, false, 0⟩),
    (0x5000080E0000000, .popc ⟨.always, 2, 7, 0, 0, .raw, .rn, false, 0⟩),
    (0x5400040400001C0, .brev ⟨.always, 1, 2, 0, 0, .u8x8, .rn, false, 0⟩)] : List (Nat × Instr)), (decode p.1).toOption = some p.2 := by decide +kernel

theorem test_words_fields : ∀ p ∈ ([
    (0x5800100A0600100, .bfx ⟨.always, 4, 5, 6, 0, .s32x2, .rn, false, 0⟩),
    (0x5C00100A06038C0, .bfi ⟨.always, 4, 5, 6, 7, .u32x2, .rn, false, 0⟩),
    (0x600060381A02040, .sel ⟨.always, 24, 28, 26, 4, .u64, .rn, false, 0⟩),
    (0x66101C100900082, .cmp ⟨.ifTrue 2, 7, 8, 9, 0, .s64, .rn, false, 2⟩),
    (0x98000C080000208, .cvtI ⟨.always, 3, 4, 0, 0, .s8x8, .rn, true, 0⟩),
    (0x9C000C080500240, .pack ⟨.always, 3, 4, 5, 0, .m8x8, 0⟩),
    (0xA0000C0E0000181, .unpack ⟨.always, 3, 7, 0, 0, .s16x4, 1⟩),
    (0xA40020100000000, .retag ⟨.always, 8, 8, 0, 0, .raw, 0⟩)] : List (Nat × Instr)), (decode p.1).toOption = some p.2 := by decide +kernel

theorem test_words_predicates : ∀ p ∈ ([
    (0x800004040300000, .pand ⟨.always, 1, 2, 3, 0, .raw, 0⟩),
    (0x840004040300000, .por ⟨.always, 1, 2, 3, 0, .raw, 0⟩),
    (0x880004040300000, .pxor ⟨.always, 1, 2, 3, 0, .raw, 0⟩),
    (0x8C0004040000000, .pnot ⟨.always, 1, 2, 0, 0, .raw, 0⟩),
    (0x9000080A0000051, .pmask ⟨.always, 2, 5, 0, 0, .u64, 17⟩),
    (0x940010000000001, .pset ⟨.always, 4, 0, 0, 0, .raw, 1⟩)] : List (Nat × Instr)), (decode p.1).toOption = some p.2 := by decide +kernel

theorem test_words_capabilities : ∀ p ∈ ([
    (0xC0000C020000000, .cmov ⟨.always, 3, 1, 0, 0, .raw, 0⟩),
    (0xC4000C060400080, .cincoff ⟨.always, 3, 3, 4, 0, .s64, 0⟩),
    (0xC8000C020400040, .csetoff ⟨.always, 3, 1, 4, 0, .u64, 0⟩),
    (0xCC0014040A05840, .csetbnd ⟨.always, 5, 2, 10, 11, .u64, 0⟩),
    (0xD0000C020400000, .candperm ⟨.always, 3, 1, 4, 0, .raw, 0⟩),
    (0xD40030080000005, .cget ⟨.always, 12, 4, 0, 0, .raw, 5⟩),
    (0xD80004040600042, .ctest ⟨.always, 1, 2, 6, 0, .u64, 2⟩)] : List (Nat × Instr)), (decode p.1).toOption = some p.2 := by decide +kernel

theorem test_words_immediates : ∀ p ∈ ([
    (0x8000024789ABCDEF, .movi ⟨.always, 9, 60, 0x9abcdef⟩),
    (0x80400241202468AC, .movhi ⟨.always, 9, 9, 0x2468ac⟩),
    (0x808000405FFFFFFF, .addi ⟨.always, 1, 2, 0x1fffffff⟩),
    (0x80C00040400000FF, .andi ⟨.always, 1, 2, 0xff⟩),
    (0x8121010080000100, .ori ⟨.ifTrue 2, 4, 4, 0x100⟩),
    (0x814000C097FFFFFF, .cmpi ⟨.always, 3, 4, 0x17ffffff⟩)] : List (Nat × Instr)), (decode p.1).toOption = some p.2 := by decide +kernel

theorem test_words_control : ∀ p ∈ ([
    (0x840000001FFFFFF9, .bra ⟨.always, 0, 0, 0x1ffffff9⟩),
    (0x84400A0000000002, .call ⟨.always, 40, 0, 2⟩),
    (0x8480000500000000, .ret ⟨.always, 0, 40, 0⟩),
    (0x84C0000520000002, .jmpr ⟨.always, 0, 41, 2⟩),
    (0x85000180BFFFFFFF, .loop ⟨.always, 6, 5, 0x1fffffff⟩),
    (0x86A0800000000000, .nop ⟨.ifTrue 1, 0, 0, 0⟩)] : List (Nat × Instr)), (decode p.1).toOption = some p.2 := by decide +kernel

theorem test_words_floats : ∀ p ∈ ([
    (0x1021824081400310, .fadd ⟨.ifTrue 3, 9, 4, 20, 0, .f32x2, .rz, false, 0⟩),
    (0x10400040403002E0, .fsub ⟨.always, 1, 2, 3, 0, .f64, .ru, false, 0⟩),
    (0x1080004040300370, .fmul ⟨.always, 1, 2, 3, 0, .f16x4, .rd, false, 0⟩),
    (0x10C00300805032D0, .fma ⟨.always, 12, 4, 5, 6, .f64, .rz, false, 0⟩),
    (0x1100004040302380, .fms ⟨.always, 1, 2, 3, 4, .b16x4, .rn, false, 0⟩),
    (0x1140004040302300, .fnma ⟨.always, 1, 2, 3, 4, .f32x2, .rn, false, 0⟩),
    (0x11800040403002C0, .fmin ⟨.always, 1, 2, 3, 0, .f64, .rn, false, 0⟩),
    (0x11C0004040300300, .fmax ⟨.always, 1, 2, 3, 0, .f32x2, .rn, false, 0⟩),
    (0x12000040400002C0, .fabs ⟨.always, 1, 2, 0, 0, .f64, .rn, false, 0⟩),
    (0x1240004040000340, .fneg ⟨.always, 1, 2, 0, 0, .f16x4, .rn, false, 0⟩),
    (0x13800040403002C0, .fscale ⟨.always, 1, 2, 3, 0, .f64, .rn, false, 0⟩),
    (0x13C0004040000311, .frint ⟨.always, 1, 2, 0, 0, .f32x2, .rz, false, 1⟩)] : List (Nat × Instr)), (decode p.1).toOption = some p.2 := by decide +kernel

theorem test_words_floats_other : ∀ p ∈ ([
    (0x1280008100900302, .fcmp ⟨.always, 2, 8, 9, 0, .f32x2, .rn, false, 2⟩),
    (0x12C00040400002C0, .fclass ⟨.always, 1, 2, 0, 0, .f64, .rn, false, 0⟩),
    (0x1300004040302301, .dot2 ⟨.always, 1, 2, 3, 4, .f32x2, .rn, false, 1⟩),
    (0x1340004040300340, .dot4 ⟨.always, 1, 2, 3, 0, .f16x4, .rn, false, 0⟩),
    (0x18000200800002C1, .cvtF ⟨.always, 8, 4, 0, 0, .f64, .rn, false, 1⟩),
    (0x1840004040000090, .cvtFi ⟨.always, 1, 2, 0, 0, .s64, .rz, false, 0⟩),
    (0x1880004040000300, .cvtIf ⟨.always, 1, 2, 0, 0, .f32x2, .rn, false, 0⟩),
    (0x18C00500805003C3, .cvtQ ⟨.always, 20, 4, 5, 0, .q8x8, .rn, false, 3⟩),
    (0x19000300A0000240, .cvtM ⟨.always, 12, 5, 0, 0, .m8x8, .rn, false, 0⟩)] : List (Nat × Instr)), (decode p.1).toOption = some p.2 := by decide +kernel

theorem test_words_special : ∀ p ∈ ([
    (0x1C00004040000300, .rcp ⟨.always, 1, 2, 0, 0, .f32x2, .rn, false, 0⟩),
    (0x1C40004040000300, .rsqrt ⟨.always, 1, 2, 0, 0, .f32x2, .rn, false, 0⟩),
    (0x1C80004040000300, .sqrt ⟨.always, 1, 2, 0, 0, .f32x2, .rn, false, 0⟩),
    (0x1CC0004040300300, .div ⟨.always, 1, 2, 3, 0, .f32x2, .rn, false, 0⟩),
    (0x1D00004040000300, .exp2 ⟨.always, 1, 2, 0, 0, .f32x2, .rn, false, 0⟩),
    (0x1D40004040000300, .log2 ⟨.always, 1, 2, 0, 0, .f32x2, .rn, false, 0⟩),
    (0x1D80004040000300, .sin ⟨.always, 1, 2, 0, 0, .f32x2, .rn, false, 0⟩),
    (0x1DC0004040000300, .cos ⟨.always, 1, 2, 0, 0, .f32x2, .rn, false, 0⟩),
    (0x1E00004040000300, .tanh ⟨.always, 1, 2, 0, 0, .f32x2, .rn, false, 0⟩)] : List (Nat × Instr)), (decode p.1).toOption = some p.2 := by decide +kernel

theorem test_words_lanes : ∀ p ∈ ([
    (0x20000040403000C1, .shfl ⟨.always, 1, 2, 3, 0, .u32x2, 1⟩),
    (0x20400100A0700300, .bcast ⟨.always, 4, 5, 7, 0, .f32x2, 0⟩),
    (0x2080004040000000, .ballot ⟨.always, 1, 2, 0, 0, .raw, 0⟩),
    (0x20C0004040000002, .vote ⟨.always, 1, 2, 0, 0, .raw, 2⟩),
    (0x2100004040000000, .matchLanes ⟨.always, 1, 2, 0, 0, .raw, 0⟩),
    (0x21400180A0000310, .scan ⟨.always, 6, 5, 0, 0, .f32x2, 16⟩),
    (0x21800180A0000110, .reduce ⟨.always, 6, 5, 0, 0, .s32x2, 16⟩),
    (0x21C00180A00000D1, .sort ⟨.always, 6, 5, 0, 0, .u32x2, 17⟩),
    (0x220001C0A00000D0, .rank ⟨.always, 7, 5, 0, 0, .u32x2, 16⟩)] : List (Nat × Instr)), (decode p.1).toOption = some p.2 := by decide +kernel

theorem test_words_matrices : ∀ p ∈ ([
    (0x28000A01000002C3, .mset ⟨.always, 40, 8, 0, 0, .f64, 0, 3⟩),
    (0x28400A00810002C3, .madd ⟨.always, 40, 4, 16, 0, .f64, 0, 3⟩),
    (0x28800A00810002C3, .mmul ⟨.always, 40, 4, 16, 0, .f64, 0, 3⟩),
    (0x28C00A008100E2C3, .mmad ⟨.always, 40, 4, 16, 28, .f64, 0, 3⟩),
    (0x29000A0080000304, .mtrans ⟨.always, 40, 4, 0, 0, .f32x2, 0, 4⟩),
    (0x29401405078002C6, .mvmul ⟨.always, 80, 40, 120, 0, .f64, 0, 6⟩),
    (0x29800A00805002C6, .mchol ⟨.always, 40, 4, 5, 0, .f64, 0, 6⟩),
    (0x29C0050083C01303, .mlu ⟨.always, 20, 4, 60, 2, .f32x2, 0, 3⟩),
    (0x2A0014050781E2CC, .msolve ⟨.always, 80, 40, 120, 60, .f64, 1, 4⟩)] : List (Nat × Instr)), (decode p.1).toOption = some p.2 := by decide +kernel

theorem test_words_engines : ∀ p ∈ ([
    (0x3000004000000000, .pacq ⟨.always, 1, 0, 0, 0, .raw, 0⟩),
    (0x3040000000000000, .prel ⟨.always, 0, 0, 0, 0, .raw, 0⟩),
    (0x3080000120000000, .ppass ⟨.always, 0, 9, 0, 0, .raw, 0⟩),
    (0x30C005002020A800, .cpy ⟨.always, 20, 1, 2, 21, .raw, 0⟩),
    (0x3100058121C0D008, .cpyg ⟨.always, 22, 9, 28, 26, .raw, 8⟩),
    (0x314005008170A809, .cpym ⟨.always, 20, 4, 23, 21, .raw, 9⟩),
    (0x3180050020203800, .rack ⟨.always, 20, 1, 2, 7, .raw, 0⟩),
    (0x31C0000000000012, .qfence ⟨.always, 0, 0, 0, 0, .raw, 18⟩),
    (0x3200000020200000, .lbarm ⟨.always, 0, 1, 2, 0, .raw, 0⟩),
    (0x3240000020200000, .ecntAdd ⟨.always, 0, 1, 2, 0, .raw, 0⟩),
    (0x324000C020000001, .ecntRd ⟨.always, 3, 1, 0, 0, .raw, 1⟩),
    (0x3280028080300000, .exlook ⟨.always, 10, 4, 3, 0, .raw, 0⟩)] : List (Nat × Instr)), (decode p.1).toOption = some p.2 := by decide +kernel

theorem test_words_system : ∀ p ∈ ([
    (0x3800008000000002, .rbacq ⟨.always, 2, 0, 0, 0, .raw, 2⟩),
    (0x3840000000000002, .rbrel ⟨.always, 0, 0, 0, 0, .raw, 2⟩),
    (0x3880000000000000, .bar ⟨.always, 0, 0, 0, 0, .raw, 0⟩),
    (0x38C0000000000000, .gbar ⟨.always, 0, 0, 0, 0, .raw, 0⟩),
    (0x3900000040A00000, .mon ⟨.always, 0, 2, 10, 0, .raw, 0⟩),
    (0x3940000000000000, .mwait ⟨.always, 0, 0, 0, 0, .raw, 0⟩),
    (0x398002400000000E, .getsr ⟨.always, 9, 0, 0, 0, .raw, 14⟩),
    (0x39C0000060000014, .setsr ⟨.always, 0, 3, 0, 0, .raw, 20⟩),
    (0x3A000040A0600000, .launch ⟨.always, 1, 5, 6, 0, .raw, 0⟩),
    (0x3A40000080500000, .waitc ⟨.always, 0, 4, 5, 0, .raw, 0⟩),
    (0x3A80000000000000, .yield ⟨.always, 0, 0, 0, 0, .raw, 0⟩),
    (0x3AC0028060200003, .fpop ⟨.always, 10, 3, 2, 0, .raw, 3⟩),
    (0x3B000000E0000001, .cancel ⟨.always, 0, 7, 0, 0, .raw, 1⟩),
    (0x3B40000000000000, .brk ⟨.always, 0, 0, 0, 0, .raw, 0⟩),
    (0x3B80030500300000, .xget ⟨.always, 12, 40, 3, 0, .raw, 0⟩),
    (0x3BC0000500304800, .xput ⟨.always, 0, 40, 3, 9, .raw, 0⟩)] : List (Nat × Instr)), (decode p.1).toOption = some p.2 := by decide +kernel

theorem test_words_regions : ∀ p ∈ ([
    (0x8540000000000000, .reform ⟨.always, 0, 0, 0⟩),
    (0x8580000000000001, .rgn ⟨.always, 0, 0, 1⟩),
    (0x85E0800000000000, .exit ⟨.ifTrue 1, 0, 0, 0⟩),
    (0x8600000000000042, .trap ⟨.always, 0, 0, 0x42⟩),
    (0x8640010000000007, .assert ⟨.always, 4, 0, 7⟩),
    (0x86C0000000000000, .rte ⟨.always, 0, 0, 0⟩)] : List (Nat × Instr)), (decode p.1).toOption = some p.2 := by decide +kernel

theorem test_words_memory : ∀ p ∈ ([
    (0xC062040C19262080, .ld ⟨.ifFalse 2, 8, 3, 12, 2, false, 2, .f32x2, 1, 16, .block⟩),
    (0xC08001040001A042, .ldacq ⟨.always, 2, 1, 0, 0, false, 0, .u32x2, 1, 8, .device⟩),
    (0xC100048409310000, .st ⟨.always, 9, 1, 4, 2, false, 3, .s64, 0, 0, .block⟩),
    (0xC18001840001A042, .strel ⟨.always, 3, 1, 0, 0, false, 0, .u32x2, 1, 8, .device⟩),
    (0xC200028005320000, .lds ⟨.always, 5, 0, 2, 2, false, 3, .s32x2, 0, 0, .block⟩),
    (0xC280030003C3FFF8, .sts ⟨.always, 6, 0, 1, 3, true, 0, .u8x8, 3, 1023, .block⟩),
    (0xD8000A0C00058102, .wsum ⟨.always, 20, 3, 0, 0, false, 0, .f64, 0, 32, .device⟩),
    (0xD8800EA835058002, .wrd ⟨.always, 29, 10, 26, 2, false, 0, .f64, 0, 0, .device⟩),
    (0xD900140411B58000, .mld ⟨.always, 40, 1, 8, 3, false, 3, .f64, 0, 0, .block⟩),
    (0xD980140410F58000, .mst ⟨.always, 40, 1, 8, 1, true, 3, .f64, 0, 0, .block⟩),
    (0xDA00028400000080, .ldcap ⟨.always, 5, 1, 0, 0, false, 0, .raw, 0, 16, .block⟩),
    (0xDA80028400000080, .stcap ⟨.always, 5, 1, 0, 0, false, 0, .raw, 0, 16, .block⟩),
    (0xDC00000000002002, .fence ⟨.always, 0, 0, 0, 0, false, 0, .raw, 1, 0, .device⟩),
    (0xDC80000400000008, .prefetch ⟨.always, 0, 1, 0, 0, false, 0, .raw, 0, 1, .block⟩),
    (0xDD00000400000004, .cachectlWb ⟨.always, 0, 1, 0, 0, false, 0, .raw, 0, 0, .pool⟩),
    (0xDD00000400002002, .cachectlEvict ⟨.always, 0, 1, 0, 0, false, 0, .raw, 1, 0, .device⟩),
    (0xDD00000400004000, .cachectlL1drop ⟨.always, 0, 1, 0, 0, false, 0, .raw, 2, 0, .block⟩)] : List (Nat × Instr)), (decode p.1).toOption = some p.2 := by decide +kernel

theorem test_words_atomics : ∀ p ∈ ([
    (0xC800030809308002, .atomAdd ⟨.always, 6, 2, 4, 2, false, 3, .u64, 0, 0, .device⟩),
    (0xC880030809308002, .atomMin ⟨.always, 6, 2, 4, 2, false, 3, .u64, 0, 0, .device⟩),
    (0xC900030809308002, .atomMax ⟨.always, 6, 2, 4, 2, false, 3, .u64, 0, 0, .device⟩),
    (0xC980030809308002, .atomAnd ⟨.always, 6, 2, 4, 2, false, 3, .u64, 0, 0, .device⟩),
    (0xCA00030809308002, .atomOr ⟨.always, 6, 2, 4, 2, false, 3, .u64, 0, 0, .device⟩),
    (0xCA80030809308002, .atomXor ⟨.always, 6, 2, 4, 2, false, 3, .u64, 0, 0, .device⟩),
    (0xCB00030809308002, .atomXchg ⟨.always, 6, 2, 4, 2, false, 3, .u64, 0, 0, .device⟩),
    (0xCB80030809308002, .atomCas ⟨.always, 6, 2, 4, 2, false, 3, .u64, 0, 0, .device⟩),
    (0xCC0006041321A003, .redAdd ⟨.always, 12, 1, 9, 2, false, 2, .u32x2, 1, 0, .system⟩),
    (0xCC8006041321A003, .redMin ⟨.always, 12, 1, 9, 2, false, 2, .u32x2, 1, 0, .system⟩),
    (0xCD0006041321A003, .redMax ⟨.always, 12, 1, 9, 2, false, 2, .u32x2, 1, 0, .system⟩),
    (0xCD8006041321A003, .redAnd ⟨.always, 12, 1, 9, 2, false, 2, .u32x2, 1, 0, .system⟩),
    (0xCE0006041321A003, .redOr ⟨.always, 12, 1, 9, 2, false, 2, .u32x2, 1, 0, .system⟩),
    (0xCE8006041321A003, .redXor ⟨.always, 12, 1, 9, 2, false, 2, .u32x2, 1, 0, .system⟩)] : List (Nat × Instr)), (decode p.1).toOption = some p.2 := by decide +kernel

theorem test_words_atomics_scratch : ∀ p ∈ ([
    (0xD40002840721A000, .atomsAdd ⟨.always, 5, 1, 3, 2, false, 2, .u32x2, 1, 0, .block⟩),
    (0xD48002840721A000, .atomsMin ⟨.always, 5, 1, 3, 2, false, 2, .u32x2, 1, 0, .block⟩),
    (0xD50002840721A000, .atomsMax ⟨.always, 5, 1, 3, 2, false, 2, .u32x2, 1, 0, .block⟩),
    (0xD58002840721A000, .atomsAnd ⟨.always, 5, 1, 3, 2, false, 2, .u32x2, 1, 0, .block⟩),
    (0xD60002840721A000, .atomsOr ⟨.always, 5, 1, 3, 2, false, 2, .u32x2, 1, 0, .block⟩),
    (0xD68002840721A000, .atomsXor ⟨.always, 5, 1, 3, 2, false, 2, .u32x2, 1, 0, .block⟩),
    (0xD70002800721A000, .atomsXchg ⟨.always, 5, 0, 3, 2, false, 2, .u32x2, 1, 0, .block⟩),
    (0xD78002800721A000, .atomsCas ⟨.always, 5, 0, 3, 2, false, 2, .u32x2, 1, 0, .block⟩)] : List (Nat × Instr)), (decode p.1).toOption = some p.2 := by decide +kernel

theorem test_words_paired : ∀ p ∈ ([
    (0x4082029042090A60, .addPaired ⟨4, 5, .s32x2, .rn, false⟩ .fmul ⟨9, 10, .f32x2, .rn, false⟩),
    (0x6002043101090529, .faddPaired ⟨4, 8, .f32x2, .rz, false⟩ .add ⟨9, 5, .u16x4, .rn, true⟩),
    (0x4000008006030640, .movPaired ⟨0, 1, .raw, .rn, false⟩ .min ⟨3, 6, .s8x8, .rn, false⟩),
    (0x4100008C06030640, .subPaired ⟨0, 1, .u32x2, .rn, false⟩ .min ⟨3, 6, .s8x8, .rn, false⟩),
    (0x4180008C06030640, .mulPaired ⟨0, 1, .u32x2, .rn, false⟩ .min ⟨3, 6, .s8x8, .rn, false⟩),
    (0x4300008C06030640, .minPaired ⟨0, 1, .u32x2, .rn, false⟩ .min ⟨3, 6, .s8x8, .rn, false⟩),
    (0x4380008C06030640, .maxPaired ⟨0, 1, .u32x2, .rn, false⟩ .min ⟨3, 6, .s8x8, .rn, false⟩),
    (0x4400008C06030640, .absPaired ⟨0, 1, .u32x2, .rn, false⟩ .min ⟨3, 6, .s8x8, .rn, false⟩),
    (0x4480008C06030640, .negPaired ⟨0, 1, .u32x2, .rn, false⟩ .min ⟨3, 6, .s8x8, .rn, false⟩),
    (0x4500008C06030640, .andPaired ⟨0, 1, .u32x2, .rn, false⟩ .min ⟨3, 6, .s8x8, .rn, false⟩),
    (0x4580008C06030640, .orPaired ⟨0, 1, .u32x2, .rn, false⟩ .min ⟨3, 6, .s8x8, .rn, false⟩),
    (0x4600008C06030640, .xorPaired ⟨0, 1, .u32x2, .rn, false⟩ .min ⟨3, 6, .s8x8, .rn, false⟩),
    (0x4680008C06030640, .notPaired ⟨0, 1, .u32x2, .rn, false⟩ .min ⟨3, 6, .s8x8, .rn, false⟩),
    (0x4700008C06030640, .andnPaired ⟨0, 1, .u32x2, .rn, false⟩ .min ⟨3, 6, .s8x8, .rn, false⟩),
    (0x4780008C06030640, .shlPaired ⟨0, 1, .u32x2, .rn, false⟩ .min ⟨3, 6, .s8x8, .rn, false⟩),
    (0x4800008C06030640, .shrPaired ⟨0, 1, .u32x2, .rn, false⟩ .min ⟨3, 6, .s8x8, .rn, false⟩),
    (0x4880008C06030640, .sarPaired ⟨0, 1, .u32x2, .rn, false⟩ .min ⟨3, 6, .s8x8, .rn, false⟩),
    (0x608000AC06030640, .fsubPaired ⟨0, 1, .f64, .rn, false⟩ .min ⟨3, 6, .s8x8, .rn, false⟩),
    (0x610000AC06030640, .fmulPaired ⟨0, 1, .f64, .rn, false⟩ .min ⟨3, 6, .s8x8, .rn, false⟩),
    (0x630000AC06030640, .fminPaired ⟨0, 1, .f64, .rn, false⟩ .min ⟨3, 6, .s8x8, .rn, false⟩),
    (0x638000AC06030640, .fmaxPaired ⟨0, 1, .f64, .rn, false⟩ .min ⟨3, 6, .s8x8, .rn, false⟩),
    (0x640000AC06030640, .fabsPaired ⟨0, 1, .f64, .rn, false⟩ .min ⟨3, 6, .s8x8, .rn, false⟩),
    (0x648000AC06030640, .fnegPaired ⟨0, 1, .f64, .rn, false⟩ .min ⟨3, 6, .s8x8, .rn, false⟩)] : List (Nat × Instr)), (decode p.1).toOption = some p.2 := by decide +kernel

theorem test_words_commands : ∀ p ∈ ([
    (0x30001, .ctxload ⟨0, 3, 0, 0x0, 0x0, 0x0, 0, 0, 0, 0⟩),
    (0x1234000000000000000500000000000030002, .objcreate ⟨0, 3, 0, 0x50, 0x12340, 0x0, 0, 0, 0, 0⟩),
    (0x10000000000000004000000000000000200000000000000500000000000030003, .objinv ⟨0, 3, 0, 0x50, 0x2, 0x4, 1, 0, 0, 0⟩),
    (0x100000000000000070000000000030004, .faultans ⟨0, 3, 0, 0x7, 0x1, 0x0, 0, 0, 0, 0⟩),
    (0x30005, .preempt ⟨0, 3, 0, 0x0, 0x0, 0x0, 0, 0, 0, 0⟩),
    (0x30006, .resume ⟨0, 3, 0, 0x0, 0x0, 0x0, 0, 0, 0, 0⟩),
    (0x70000000000000FFF000000000000003F0000000000000007, .slotbind ⟨0, 0, 0, 0x3f, 0xfff, 0x7, 0, 0, 0, 0⟩),
    (0x3F0000000000000008, .slotunbind ⟨0, 0, 0, 0x3f, 0x0, 0x0, 0, 0, 0, 0⟩),
    (0x30000000000003FFFFFFF0000000000000009, .pgm ⟨0, 0, 0, 0x3fffffff, 0x30000, 0x0, 0, 0, 0, 0⟩),
    (0xFFFF0000000000000005000000000000000A, .erase ⟨0, 0, 0, 0x5, 0xffff, 0x0, 0, 0, 0, 0⟩),
    (0x8000000000000000510000000000000009000000000003000B, .feedmap ⟨0, 3, 0, 0x9, 0x51, 0x80, 0, 0, 0, 0⟩),
    (0x40000000000000000040000000000000000C, .pgread ⟨0, 0, 0, 0x40, 0x4000, 0x0, 0, 0, 0, 0⟩)] : List (Nat × Instr)), decodeCommand p.1 = some p.2 := by decide +kernel
/-- The results that file 13 gives after R307, and those of `mov` and `neg` by R303. -/
theorem test_integer_results : ∀ c ∈ ([
    (0x100A0000000, [(5, vr .f64 0x7)], 4, vr .f64 0x7),
    (0x400100A06001C0, [(5, vr .u8x8 0xF0), (6, vr .u8x8 0x20)], 4, vr .u8x8 0x10),
    (0x400100A06001C8, [(5, vr .u8x8 0xF0), (6, vr .u8x8 0x20)], 4, vr .u8x8 0xFF),
    (0x800100A0600188, [(5, vr .s16x4 0x8000), (6, vr .s16x4 0x1)], 4, vr .s16x4 0x8000),
    (0xC00100A0600140, [(5, vr .u16x4 0x3FFFF), (6, vr .u16x4 0x50002)], 4, vr .u16x4 0xFFFFE),
    (0x1000100A06000C0, [(5, vr .u32x2 0xFFFFFFFF), (6, vr .u32x2 0xFFFFFFFF)], 4, vr .u32x2 0xFFFFFFFE),
    (0x1000100A0600100, [(5, vr .s32x2 0xFFFFFFFF), (6, vr .s32x2 0xFFFFFFFF)], 4, vr .s32x2 0x0),
    (0x1400100A0603A08, [(5, vr .s8x8 0x7F), (6, vr .s8x8 0x2), (7, vr .s8x8 0x80)], 4, vr .s8x8 0x7E),
    (0x1800100A0600200, [(5, vr .s8x8 0x80), (6, vr .s8x8 0x1)], 4, vr .s8x8 0x80),
    (0x1C00100A06001C0, [(5, vr .u8x8 0x80), (6, vr .u8x8 0x1)], 4, vr .u8x8 0x80),
    (0x2000100A0000180, [(5, vr .s16x4 0x8000)], 4, vr .s16x4 0x8000),
    (0x2000100A0000188, [(5, vr .s16x4 0x8000)], 4, vr .s16x4 0x7FFF),
    (0x2400140A00001C0, [(5, vr .u8x8 0x1)], 5, vr .u8x8 0xFF)] : List (Nat × List (Nat × VReg) × Nat × VReg)), (ran c.1 c.2.1).vreg c.2.2.1 = c.2.2.2 := by decide +kernel

/-- R304 and the table after R307. -/
theorem test_bit_results : ∀ c ∈ ([
    (0x2800100A0600040, [(5, vr .u64 0xC), (6, vr .u64 0xA)], 4, vr .u64 0x8),
    (0x2C00100A0600040, [(5, vr .u64 0xC), (6, vr .u64 0xA)], 4, vr .u64 0xE),
    (0x3000100A0600040, [(5, vr .u64 0xC), (6, vr .u64 0xA)], 4, vr .u64 0x6),
    (0x3400100A0000000, [(5, vr .raw 0xF)], 4, vr .raw 0xFFFFFFFFFFFFFFF0),
    (0x3800100A0600000, [(5, vr .raw 0xC), (6, vr .raw 0xA)], 4, vr .raw 0x4),
    (0x3C00100A06000C0, [(5, vr .u32x2 0x8000000100000003), (6, vr .u32x2 0x200000001F)], 4, vr .u32x2 0x80000000),
    (0x4000100A0600200, [(5, vr .s8x8 0x80), (6, vr .s8x8 0x9)], 4, vr .s8x8 0x0),
    (0x4400100A0600200, [(5, vr .s8x8 0x80), (6, vr .s8x8 0x9)], 4, vr .s8x8 0xFF),
    (0x4800100A06001C0, [(5, vr .u8x8 0x81), (6, vr .u8x8 0x9)], 4, vr .u8x8 0x3),
    (0x4C00100A00000C0, [(5, vr .u32x2 0x1)], 4, vr .u32x2 0x200000001F),
    (0x5000100A0000000, [(5, vr .raw 0xFF00)], 4, vr .raw 0x8),
    (0x5400100A00001C0, [(5, vr .u8x8 0x103)], 4, vr .u8x8 0x80C0)] : List (Nat × List (Nat × VReg) × Nat × VReg)), (ran c.1 c.2.1).vreg c.2.2.1 = c.2.2.2 := by decide +kernel

/-- The table after R307, and the examples of R306, R310 to R312. -/
theorem test_field_results : ∀ c ∈ ([
    (0x5800100A0600100, [(5, vr .s32x2 0xF00), (6, vr .s32x2 0x40008)], 4, vr .s32x2 0xFFFFFFFF),
    (0x5C00100A06038C0, [(5, vr .u32x2 0xA), (6, vr .u32x2 0x40008), (7, vr .u32x2 0x12345678)], 4, vr .u32x2 0x12345A78),
    (0x6000100A0601040, [(5, vr .u64 0x1), (6, vr .u64 0x2)], 4, vr .u64 0x2),
    (0x98000C080000208, [(4, vr .s32x2 0xFFFFFFFB0000012C)], 3, vr .s8x8 0xFB7F),
    (0x98000C080000200, [(4, vr .s32x2 0xFFFFFFFB0000012C)], 3, vr .s8x8 0xFB2C),
    (0x9C000C080500240, [(4, vr .m8x8 0x1111111122222222), (5, vr .m8x8 0x3333333344444444)], 3, vr .m8x8 0x4444444422222222),
    (0xA0000C0E0000181, [(7, vr .s16x4 0x1111111122222222)], 3, vr .s16x4 0x11111111),
    (0xA400201000002C0, [(8, vr .u8x8 0x9)], 8, vr .f64 0x9)] : List (Nat × List (Nat × VReg) × Nat × VReg)), (ran c.1 c.2.1).vreg c.2.2.1 = c.2.2.2 := by decide +kernel

/-- R316 with its example, and R317. -/
theorem test_immediate_results : ∀ c ∈ ([
    (0x8000024789ABCDEF, [], 9, vr .raw 0xFFFFFFFF89ABCDEF),
    (0x80400241202468AC, [(9, vr .raw 0xFFFFFFFF89ABCDEF)], 9, vr .raw 0x123456789ABCDEF),
    (0x80800100BFFFFFFF, [(5, vr .s64 0x0)], 4, vr .s64 0xFFFFFFFFFFFFFFFF),
    (0x80C00100BFFFFFF0, [(5, vr .u64 0xFFFFFFFFFFFFFFFF)], 4, vr .u64 0xFFFFFFFFFFFFFFF0),
    (0x81000100A0000100, [(5, vr .u64 0x11)], 4, vr .u64 0x111),
    (0x84400A0000000002, [], 40, vr .u64 0x8),
    (0x85000180BFFFFFFF, [(5, vr .u64 0x0)], 6, vr .u64 0xFFFFFFFFFFFFFFFF)] : List (Nat × List (Nat × VReg) × Nat × VReg)), (ran c.1 c.2.1).vreg c.2.2.1 = c.2.2.2 := by decide +kernel

/-- The examples of R267, R332 and R333, and ties and signs by R262 and R326. -/
theorem test_float_results : ∀ c ∈ ([
    (0x10000100A0600300, [(5, vr .f32x2 0x3F800000), (6, vr .f32x2 0x33800000)], 4, vr .f32x2 0x3F800000),
    (0x10000100A0600320, [(5, vr .f32x2 0x3F800000), (6, vr .f32x2 0x33800000)], 4, vr .f32x2 0x3F800001),
    (0x10400100A06002F0, [(5, vr .f64 0x3FF0000000000000), (6, vr .f64 0x3FF0000000000000)], 4, vr .f64 0x8000000000000000),
    (0x10800100A0600340, [(5, vr .f16x4 0x3E00), (6, vr .f16x4 0xC000)], 4, vr .f16x4 0xC200),
    (0x10C00100A0603AC0, [(5, vr .f64 0x4008000000000000), (6, vr .f64 0x4000000000000000), (7, vr .f64 0xBFF0000000000000)], 4, vr .f64 0x4014000000000000),
    (0x11000100A0603AC0, [(5, vr .f64 0x4008000000000000), (6, vr .f64 0x4000000000000000), (7, vr .f64 0x3FF0000000000000)], 4, vr .f64 0x4014000000000000),
    (0x11400100A0603AC0, [(5, vr .f64 0x4008000000000000), (6, vr .f64 0x4000000000000000), (7, vr .f64 0x3FF0000000000000)], 4, vr .f64 0xC014000000000000),
    (0x11800100A06002C0, [(5, vr .f64 0x0), (6, vr .f64 0x8000000000000000)], 4, vr .f64 0x8000000000000000),
    (0x11C00100A06002C0, [(5, vr .f64 0x0), (6, vr .f64 0x8000000000000000)], 4, vr .f64 0x0),
    (0x12000100A00002C0, [(5, vr .f64 0xBFF0000000000000)], 4, vr .f64 0x3FF0000000000000),
    (0x12400100A0000300, [(5, vr .f32x2 0x3F80000000000000)], 4, vr .f32x2 0xBF80000080000000),
    (0x13800100A06002C0, [(5, vr .f64 0x3FF0000000000000), (6, vr .s64 0x3)], 4, vr .f64 0x4020000000000000),
    (0x13C00100A00002C0, [(5, vr .f64 0x4004000000000000)], 4, vr .f64 0x4000000000000000),
    (0x12C00100A00002C0, [(5, vr .f64 0x8000000000000001)], 4, vr .u64 0x4),
    (0x13000100A0600300, [(5, vr .f32x2 0x3F8000003F800800), (6, vr .f32x2 0xBF8010003F800800)], 4, vr .f32x2 0x33800000),
    (0x18000200800002C1, [(4, vr .f32x2 0x338000003F800000)], 8, vr .f64 0x3E70000000000000),
    (0x18000240C0000380, [(6, vr .f64 0x3FF0100000000000), (9, vr .b16x4 0x1111222233334444)], 9, vr .b16x4 0x1111222233333F80),
    (0x18400100A0000090, [(5, vr .f64 0xC004000000000000)], 4, vr .s64 0xFFFFFFFFFFFFFFFE),
    (0x18800100A00002C0, [(5, vr .s64 0xFFFFFFFFFFFFFFFE)], 4, vr .f64 0xC000000000000000),
    (0x18C00500805003C3, [(20, vr .q8x8 0x7777777777777777), (4, vr .f32x2 0xBF4000003E99999A), (5, vr .f32x2 0x3F8000003F800000)], 20, vr .q8x8 0x8224777777777777),
    (0x19000300A0000240, [(5, vr .f32x2 0xC02000004302999A), (12, vr .m8x8 0x0)], 12, vr .m8x8 0x827F)] : List (Nat × List (Nat × VReg) × Nat × VReg)), (ran c.1 c.2.1).vreg c.2.2.1 = c.2.2.2 := by decide +kernel

/-- The exact cases of R334. -/
theorem test_special_results : ∀ c ∈ ([
    (0x1C000100A00002C0, [(5, vr .f64 0x4010000000000000)], 4, vr .f64 0x3FD0000000000000),
    (0x1C400100A00002C0, [(5, vr .f64 0x4010000000000000)], 4, vr .f64 0x3FE0000000000000),
    (0x1C800100A00002C0, [(5, vr .f64 0x4010000000000000)], 4, vr .f64 0x4000000000000000),
    (0x1CC00100A0600300, [(5, vr .f32x2 0x404000003F800000), (6, vr .f32x2 0x4000000000000000)], 4, vr .f32x2 0x3FC000007F800000),
    (0x1D000100A00002C0, [(5, vr .f64 0x4008000000000000)], 4, vr .f64 0x4020000000000000),
    (0x1D400100A00002C0, [(5, vr .f64 0x4020000000000000)], 4, vr .f64 0x4008000000000000),
    (0x1D800100A00002C0, [(5, vr .f64 0x8000000000000000)], 4, vr .f64 0x8000000000000000),
    (0x1DC00100A00002C0, [(5, vr .f64 0x8000000000000000)], 4, vr .f64 0x3FF0000000000000),
    (0x1E000100A00002C0, [(5, vr .f64 0xFFF0000000000000)], 4, vr .f64 0xBFF0000000000000)] : List (Nat × List (Nat × VReg) × Nat × VReg)), (ran c.1 c.2.1).vreg c.2.2.1 = c.2.2.2 := by decide +kernel

/-- R286: `add.s32x2 v4, v5` beside `fmul.f32x2 v9, v10`, the half operating on d and a. -/
theorem test_paired_results : ∀ c ∈ ([
    (0x4082029042090A60, [(4, vr .s32x2 0x2), (5, vr .s32x2 0x3), (9, vr .f32x2 0x40000000), (10, vr .f32x2 0x40400000)], 4, vr .s32x2 0x5),
    (0x4082029042090A60, [(4, vr .s32x2 0x2), (5, vr .s32x2 0x3), (9, vr .f32x2 0x40000000), (10, vr .f32x2 0x40400000)], 9, vr .f32x2 0x40C00000)] : List (Nat × List (Nat × VReg) × Nat × VReg)), (ran c.1 c.2.1).vreg c.2.2.1 = c.2.2.2 := by decide +kernel

/-- The example of file 16: a factor and a solve of order 3, and the singular `mlu` of order 2. -/
theorem test_matrix_results : ∀ c ∈ ([
    (0x29800A00805002C3, [(4, vr .f64 0x4010000000000000), (5, vr .f64 0x4000000000000000), (6, vr .f64 0xC000000000000000), (7, vr .f64 0x4000000000000000), (8, vr .f64 0x4024000000000000), (9, vr .f64 0x4014000000000000), (10, vr .f64 0xC000000000000000), (11, vr .f64 0x4014000000000000), (12, vr .f64 0x4018000000000000)], 44, vr .f64 0x4008000000000000),
    (0x29800A00805002C3, [(4, vr .f64 0x4010000000000000), (5, vr .f64 0x4000000000000000), (6, vr .f64 0xC000000000000000), (7, vr .f64 0x4000000000000000), (8, vr .f64 0x4024000000000000), (9, vr .f64 0x4014000000000000), (10, vr .f64 0xC000000000000000), (11, vr .f64 0x4014000000000000), (12, vr .f64 0x4018000000000000)], 46, vr .f64 0xBFF0000000000000),
    (0x2A001405078002C3, [(40, vr .f64 0x4000000000000000), (41, vr .f64 0x0), (42, vr .f64 0x0), (43, vr .f64 0x3FF0000000000000), (44, vr .f64 0x4008000000000000), (45, vr .f64 0x0), (46, vr .f64 0xBFF0000000000000), (47, vr .f64 0x4000000000000000), (48, vr .f64 0x3FF0000000000000), (120, vr .f64 0x4010000000000000), (121, vr .f64 0x4031000000000000), (122, vr .f64 0x4022000000000000)], 82, vr .f64 0x3FF0000000000000),
    (0x28800A00810002C2, [(4, vr .f64 0x3FF0000000000000), (5, vr .f64 0x4000000000000000), (6, vr .f64 0x4008000000000000), (7, vr .f64 0x4010000000000000), (16, vr .f64 0x4014000000000000), (17, vr .f64 0x4018000000000000), (18, vr .f64 0x401C000000000000), (19, vr .f64 0x4020000000000000)], 41, vr .f64 0x4036000000000000),
    (0x29C00A0083C02AC2, [(4, vr .f64 0x0), (5, vr .f64 0x3FF0000000000000), (6, vr .f64 0x0), (7, vr .f64 0x4000000000000000)], 60, vr .u64 0x8)] : List (Nat × List (Nat × VReg) × Nat × VReg)), (ran c.1 c.2.1).vreg c.2.2.1 = c.2.2.2 := by decide +kernel

/-- The examples after R343, and `shfl` and `match` by R338 and R341; v5 holds the operands. -/
theorem test_lane_results : ∀ c ∈ ([
    (0x21400180A0000310, [vr .f32x2 0x338000003F800000, vr .f32x2 0x3F80000033800000, vr .f32x2 0xBF800000], 6, [vr .f32x2 0x3F8000003F800000, vr .f32x2 0x400000003F800000, vr .f32x2 0x3F8000003F800000]),
    (0x21400180A0000300, [vr .f32x2 0x338000003F800000, vr .f32x2 0x3F80000033800000, vr .f32x2 0xBF800000], 6, [vr .f32x2 0x338000003F800000, vr .f32x2 0x3F8000003F800000, vr .f32x2 0x3F80000000000000]),
    (0x21800180A0000310, [vr .f32x2 0x338000003F800000, vr .f32x2 0x3F80000033800000, vr .f32x2 0xBF800000], 6, [vr .f32x2 0x3F8000003F800000, vr .f32x2 0x3F8000003F800000, vr .f32x2 0x3F8000003F800000]),
    (0x21C00180A00000D0, [vr .u32x2 0x300000007, vr .u32x2 0x500000003], 6, [vr .u32x2 0x300000003, vr .u32x2 0x700000005]),
    (0x22000180A00000D0, [vr .u32x2 0x300000007, vr .u32x2 0x500000003], 6, [vr .u32x2 0x3, vr .u32x2 0x200000001]),
    (0x20000180A0500041, [vr .u64 0x1, vr .u64 0x1], 6, [vr .u64 0x1, vr .u64 0x1]),
    (0x20400180A03000C0, [vr .u32x2 0x100000002, vr .u32x2 0x300000004], 6, [vr .u32x2 0x300000003, vr .u32x2 0x300000003]),
    (0x21000180A0000000, [vr .u64 0x7, vr .s64 0x8, vr .raw 0x7], 6, [vr .u64 0x5, vr .u64 0x2, vr .u64 0x5]),
    (0x2080018000000000, [vr .u64 0x7, vr .s64 0x8], 6, [vr .u64 0x0, vr .u64 0x0])] : List (Nat × List VReg × Nat × List VReg)), acrossLanes c.1 c.2.1 c.2.2.1 = c.2.2.2 := by decide +kernel
/-! ### Predicates, capabilities, control -/

/-- A thread with some predicates true. -/
def marked (ps : List Nat) (x : Thread) : Thread := ps.foldl (fun x p => x.setP p true) x

/-- R307, R309, R327, R340: the predicate that a word writes, with p2 true. -/
theorem test_predicate_results : ∀ c ∈ ([
    (0x064001C100900082, [(8, vr .s64 0xFFFFFFFFFFFFFFFF), (9, vr .s64 0)], 7, true),
    (0x128001C1009002C6, [(8, vr .f64 0x7FF8000000000000), (9, vr .f64 0)], 7, true),
    (0x0800004040300000, [], 1, false), (0x0840004040300000, [], 1, true), (0x0880004040300000, [], 1, true),
    (0x08C0004040000000, [], 1, false), (0x090000410000003F, [(8, vr .raw 0x8000000000000000)], 1, true),
    (0x0940004000000001, [], 1, true), (0x20C0004040000001, [], 1, true)] : List (Nat × List (Nat × VReg) × Nat × Bool)),
    (lane (after (bench c.1 [fun x => marked [2] (holding c.2.1 x)])) 0).pred c.2.2.1 = c.2.2.2 := by decide +kernel

/-- The root of the example of file 01: object 0x123, load and store, bounds [0, 0x2_0000). -/
def rootOf123 : CapReg := capOf 0x123 0x03 9 0 256 0 true

/-- The capability of that example, and the one at which a tag is lost (file 13). -/
def buffer123 : CapReg := { bits := 0x00000123032241380000000000012000, tag := true }

/-- The example after R315. -/
theorem test_capability_results :
    (lane (after (bench 0x0CC0024100A05840 [fun x => holding [(10, vr .u64 0x12000), (11, vr .u64 0x1800)] (x.setC 8 rootOf123)])) 0).creg 9
      = buffer123
    ∧ (lane (after (bench 0x0D40030120000004 [fun x => x.setC 9 buffer123])) 0).vreg 12 = vr .u64 0x13800
    ∧ (lane (after (bench 0x0D80004100D00042 [fun x => holding [(13, vr .u64 0x1800)] (x.setC 8 buffer123)])) 0).pred 1 = true
    ∧ (lane (after (bench 0x0D80004100D00042 [fun x => holding [(13, vr .u64 0x1801)] (x.setC 8 buffer123)])) 0).pred 1 = false
    ∧ ((lane (after (bench 0x0C40028120E00080 [fun x => holding [(14, vr .s64 0xFFFFFFFFFFFEDFFF)] (x.setC 9 buffer123)])) 0).creg 10).tag
      = false := by decide +kernel

/-- R19: `cmov`, `csetoff` and `candperm`. -/
theorem test_capability_moves :
    (lane (after (bench 0x0C00024100000000 [fun x => x.setC 8 buffer123])) 0).creg 9 = buffer123
    ∧ ((lane (after (bench 0x0C80024100A00040 [fun x => holding [(10, vr .u64 5)] (x.setC 8 buffer123)])) 0).creg 9).cursor = 5
    ∧ ((lane (after (bench 0x0D00024100A00000 [fun x => holding [(10, vr .raw 2)] (x.setC 8 buffer123)])) 0).creg 9).rights = 2 := by
  decide +kernel

/-- R320: where each transfer goes, from the word at 0; the example of R318 is seven words back. -/
theorem test_control_results : ∀ c ∈ ([
    (0x840000001FFFFFF9, [], -56), (0x8400000000000003, [], 24), (0x8480000500000000, [(40, vr .u64 0x60)], 0x60),
    (0x84C0000520000002, [(41, vr .u64 0x60)], 0x70), (0x8680000000000000, [], 8)] : List (Nat × List (Nat × VReg) × Int)),
    (ran c.1 c.2.1).pc = c.2.2 := by decide +kernel

/-- R283: a guard that leaves the thread out, one that does not, and a word past which the thread goes either way. -/
theorem test_guards :
    (ran 0x8021024000000005 []).vreg 9 = {} ∧ (ran 0x8021024000000005 []).pc = 8
    ∧ (ran 0x8031024000000005 []).vreg 9 = vr .raw 5 := by decide +kernel

/-- R265, R369: an inexact conversion sets NX alone, and the singular factor of file 16 sets no flag but leaves its predicate
false and STEP 2, KIND NOTSPD and STICKY in %mstat. -/
theorem test_flags :
    (ran 0x18000240C0000380 [(6, vr .f64 0x3FF0100000000000), (9, vr .b16x4 0)]).fpflags = 0x10
    ∧ let x := ran 0x29800A00805002C3 [(4, vr .f64 0x4010000000000000), (5, vr .f64 0x4000000000000000),
        (6, vr .f64 0xC000000000000000), (7, vr .f64 0x4000000000000000), (8, vr .f64 0x3FF0000000000000), (9, vr .f64 0x4014000000000000),
        (10, vr .f64 0xC000000000000000), (11, vr .f64 0x4014000000000000), (12, vr .f64 0x4018000000000000)]
      x.mstat = 0x52 ∧ x.pred 5 = false ∧ x.fpflags = 0 ∧ x.vreg 46 = vr .f64 0xBFF0000000000000 := by decide +kernel

/-! ### Exceptions -/

/-- What a thread waits to tell its handler after one word, where no save slot is free (R247): cause and %trapaux. -/
def told (w : Nat) (f : Thread → Thread) : Option (Nat × Nat) :=
  (lane (after (bench w [f])) 0).pend.map fun t => (t.cause, t.aux)

/-- R14, R229, R237, R291, R474: the pair of file 12 whose destinations share a bank, a register beyond the allocation, a tag
that is refused, `trap 0x42`, a load through a null capability, and `rbrel` of every block. -/
theorem test_exceptions :
    told 0x4086829042090A60 id = some (0x01, 0x907) ∧ told 0x8000500000000000 id = some (0x01, 0x01400105)
    ∧ told 0x00400100A06001C0 (holding [(5, vr .f64 0)]) = some (0x02, 0x167) ∧ told 0x8600000000000042 id = some (0x09, 0x42)
    ∧ told 0xC00004A009310000 id = some (0x03, 0x01) ∧ told 0x3840000000000001 (fun x => { x with h := 1, v := x.v.take 32 }) = some (0x01, 0xA0C) := by decide +kernel

/-- R176, R283: a thread that its guard leaves out takes no exception. -/
theorem test_no_exception : told 0x8620800000000042 id = none := by decide +kernel
/-! ### Well-formed terms -/

/-- One term for each check of WellFormed that fails it: every field of each form beyond its width, the selectors that tell
two instructions of one opcode apart, and rules of R290. -/
def illFormed : List Instr := [
  .nop ⟨.ifTrue 32, 0, 0, 0⟩, .nop ⟨.ifFalse 32, 0, 0, 0⟩,
  .add ⟨.always, 512, 0, 0, 0, .u64, .rn, false, 0⟩, .add ⟨.always, 0, 512, 0, 0, .u64, .rn, false, 0⟩,
  .add ⟨.always, 0, 0, 512, 0, .u64, .rn, false, 0⟩, .mad ⟨.always, 0, 0, 0, 512, .u64, .rn, false, 0⟩,
  .cmp ⟨.always, 0, 0, 0, 0, .u64, .rn, false, 8⟩, .add ⟨.ifTrue 32, 0, 0, 0, 0, .u64, .rn, false, 0⟩,
  .mmad ⟨.always, 512, 4, 16, 28, .f64, 0, 3⟩, .mmad ⟨.always, 40, 512, 16, 28, .f64, 0, 3⟩, .mmad ⟨.always, 40, 4, 512, 28, .f64, 0, 3⟩,
  .mmad ⟨.always, 40, 4, 16, 512, .f64, 0, 3⟩, .msolve ⟨.always, 80, 40, 120, 0, .f64, 4, 3⟩, .mmad ⟨.always, 40, 4, 16, 28, .f64, 0, 8⟩,
  .mmad ⟨.ifFalse 32, 40, 4, 16, 28, .f64, 0, 3⟩,
  .getsr ⟨.ifTrue 32, 0, 0, 0, 0, .raw, 2⟩, .getsr ⟨.always, 512, 0, 0, 0, .raw, 2⟩, .setsr ⟨.always, 0, 512, 0, 0, .raw, 0x14⟩,
  .csetbnd ⟨.always, 1, 1, 512, 2, .u64, 0⟩, .csetbnd ⟨.always, 1, 1, 2, 512, .u64, 0⟩, .pmask ⟨.always, 0, 0, 0, 0, .u64, 64⟩,
  .movi ⟨.ifTrue 32, 0, 0, 0⟩, .movi ⟨.always, 512, 0, 0⟩, .movhi ⟨.always, 0, 512, 0⟩, .trap ⟨.always, 0, 0, 2 ^ 29⟩,
  .ld ⟨.ifTrue 32, 0, 0, 0, 0, false, 0, .raw, 0, 0, .block⟩, .ld ⟨.always, 512, 0, 0, 0, false, 0, .raw, 0, 0, .block⟩,
  .ld ⟨.always, 0, 32, 0, 0, false, 0, .raw, 0, 0, .block⟩, .ld ⟨.always, 0, 0, 512, 1, false, 0, .raw, 0, 0, .block⟩,
  .ld ⟨.always, 0, 0, 0, 4, false, 0, .raw, 0, 0, .block⟩, .ld ⟨.always, 0, 0, 0, 1, false, 4, .raw, 0, 0, .block⟩,
  .ld ⟨.always, 0, 0, 0, 0, false, 0, .raw, 4, 0, .block⟩, .ld ⟨.always, 0, 0, 0, 0, false, 0, .raw, 0, 1024, .block⟩,
  .movPaired ⟨256, 1, .raw, .rn, false⟩ .min ⟨3, 6, .s8x8, .rn, false⟩, .movPaired ⟨0, 256, .raw, .rn, false⟩ .min ⟨3, 6, .s8x8, .rn, false⟩,
  .movPaired ⟨0, 1, .raw, .rn, false⟩ .min ⟨256, 6, .s8x8, .rn, false⟩, .movPaired ⟨0, 1, .raw, .rn, false⟩ .min ⟨3, 256, .s8x8, .rn, false⟩,
  .preempt ⟨256, 0, 0, 0, 0, 0, 0, 0, 0, 0⟩, .preempt ⟨0, 65536, 0, 0, 0, 0, 0, 0, 0, 0⟩, .preempt ⟨0, 0, 2 ^ 32, 0, 0, 0, 0, 0, 0, 0⟩,
  .preempt ⟨0, 0, 0, 2 ^ 64, 0, 0, 0, 0, 0, 0⟩, .preempt ⟨0, 0, 0, 0, 2 ^ 64, 0, 0, 0, 0, 0⟩, .preempt ⟨0, 0, 0, 0, 0, 2 ^ 64, 0, 0, 0, 0⟩,
  .preempt ⟨0, 0, 0, 0, 0, 0, 2 ^ 64, 0, 0, 0⟩, .preempt ⟨0, 0, 0, 0, 0, 0, 0, 2 ^ 64, 0, 0⟩, .preempt ⟨0, 0, 0, 0, 0, 0, 0, 0, 2 ^ 64, 0⟩,
  .preempt ⟨0, 0, 0, 0, 0, 0, 0, 0, 0, 2 ^ 64⟩,
  .ecntAdd ⟨.always, 0, 1, 2, 0, .raw, 1⟩, .ecntRd ⟨.always, 3, 1, 0, 0, .raw, 0⟩,
  .cachectlWb ⟨.always, 0, 1, 0, 0, false, 0, .raw, 1, 0, .block⟩, .cachectlEvict ⟨.always, 0, 1, 0, 0, false, 0, .raw, 2, 0, .block⟩,
  .cachectlL1drop ⟨.always, 0, 1, 0, 0, false, 0, .raw, 0, 0, .block⟩,
  .add ⟨.always, 320, 0, 0, 0, .u64, .rn, false, 0⟩, .add ⟨.always, 0, 0, 0, 1, .u64, .rn, false, 0⟩, .fadd ⟨.always, 0, 0, 0, 0, .u64, .rn, false, 0⟩,
  .addPaired ⟨13, 5, .s32x2, .rn, false⟩ .fmul ⟨9, 10, .f32x2, .rn, false⟩, .mmad ⟨.always, 41, 4, 16, 28, .f64, 0, 3⟩]

/-- Each of them is refused, and the terms of words that the spec writes out are not. -/
theorem test_wellformed_smoke : (∀ i ∈ illFormed, i.wf = false)
    ∧ (Instr.add ⟨.always, 4, 5, 6, 0, .s32x2, .rn, true, 0⟩).wf = true ∧ (Instr.mmad ⟨.always, 40, 4, 16, 28, .f64, 0, 3⟩).wf = true
    ∧ (Instr.ld ⟨.ifFalse 2, 8, 3, 12, 2, false, 2, .f32x2, 1, 16, .block⟩).wf = true
    ∧ (Instr.addPaired ⟨4, 5, .s32x2, .rn, false⟩ .fmul ⟨9, 10, .f32x2, .rn, false⟩).wf = true
    ∧ (Instr.preempt ⟨0, 3, 0, 0, 0, 0, 0, 0, 0, 0⟩).wf = true := by decide +kernel
/-! ### Witnesses: states that meet the hypotheses of the statements about words

Each theorem below is named after the statement whose hypotheses it shows to be met, together, by a state and operands. -/

/-- The hypotheses about the group, with some thread active. -/
def Ready (s : State) (fs : List Form) (mem : Bool) (kind : Nat) : Prop :=
  ∃ g b, s.current = some (g, b) ∧ Unhindered s b fs mem kind (actives (guardOf fs) g b) ∧ Passes fs (actives (guardOf fs) g b)
    ∧ actives (guardOf fs) g b ≠ []

/-- The same as a computation. -/
def readyB (s : State) (fs : List Form) (mem : Bool) (kind : Nat) : Bool :=
  match s.current with
  | some (g, b) =>
    let act := actives (guardOf fs) g b
    (act.all fun x => (fs.all fun f => !s.hazard b.uid x.tid f) && (!mem || !s.acquiring b.uid x.tid) && !s.awaiting b.uid x.tid)
    && (s.glitchOf b act kind).isNone && (act.all fun x => (checkAll x fs).isNone) && !act.isEmpty
  | none => false

theorem readyB_ready {s : State} {fs : List Form} {mem : Bool} {kind : Nat} (h : readyB s fs mem kind = true) : Ready s fs mem kind := by
  unfold readyB at h
  split at h
  · rename_i g b hc
    simp only [Bool.and_eq_true, List.all_eq_true, Bool.not_eq_true', Bool.or_eq_true, Option.isNone_iff_eq_none, List.isEmpty_eq_false_iff] at h
    refine ⟨g, b, hc, ⟨fun x hx => ⟨fun f hf => (h.1.1.1 x hx).1.1 f hf, fun hm => ?_, (h.1.1.1 x hx).2⟩, h.1.1.2⟩, fun x hx => h.1.2 x hx, h.2⟩
    rcases (h.1.1.1 x hx).1.2 with h1 | h1
    · rw [hm] at h1; cases h1
    · exact h1
  · cases h

/-- Several forms, each ready in one state. -/
theorem all_ready {s : State} {fss : List (List Form)} {mem : Bool} {kind : Nat} (h : (fss.all fun fs => readyB s fs mem kind) = true) :
    ∀ fs ∈ fss, Ready s fs mem kind := fun fs hf => readyB_ready (List.all_eq_true.mp h fs hf)

/-- Registers of every format: v0 RAW, v1 U64, v2 S64, v3 U32x2, v4 to v21 F64, v24 F32x2, v25 M8x8, v26 F16x4; and c8 on the whole of object 1. -/
def rich (x : Thread) : Thread :=
  (holding ([(1, vr .u64 0), (2, vr .s64 0), (3, vr .u32x2 0), (24, vr .f32x2 0), (25, vr .m8x8 0), (26, vr .f16x4 0), (42, vr .u64 0x2001), (46, vr .u64 0x200001),
      (47, vr .u64 0x201000)]
    ++ (List.range 18).map fun i => (4 + i, vr .f64 0)) (holding [(32, vr .u64 0), (33, vr .f64 0)] x)).setC 8 (slateCap 0xFF)

/-- A state whose group of two threads can issue any word. -/
def ready : State := let s := bench 0 [rich, rich]; { s with sched := { s.sched with cur := 1 } }
/-- Operands of U64, F64 and other words; destination 30 is a vector register or a predicate. -/
def wu : Rounded := ⟨.always, 30, 1, 1, 1, .u64, .rn, false, 0⟩
def wf : Rounded := ⟨.always, 30, 4, 4, 4, .f64, .rn, false, 0⟩
def wp : Plain := ⟨.always, 30, 1, 1, 1, .u64, 0⟩
def wc : Plain := ⟨.always, 30, 8, 1, 1, .u64, 0⟩
def wm : MatrixW := ⟨.always, 32, 4, 8, 12, .f64, 0, 2⟩
def wi : Imm := ⟨.always, 30, 1, 0⟩

theorem witness_IntegerArithmetic : ∀ fs ∈ [[wu.form 0x00 [srcAny 0 wu.a]], [wu.form 0x01 (wu.rawSrcs 2)], [wu.form 0x02 (wu.rawSrcs 2)],
    [wu.form 0x03 (wu.rawSrcs 2)], [wu.form 0x04 (wu.rawSrcs 2)], [wu.form 0x05 (wu.rawSrcs 3)], [wu.form 0x06 (wu.rawSrcs 2)],
    [wu.form 0x07 (wu.rawSrcs 2)], [wu.form 0x08 (wu.rawSrcs 1)], [wu.form 0x09 (wu.rawSrcs 1)]], Ready ready fs false 1 :=
  all_ready (by decide +kernel)

theorem witness_BitwiseAndShifts : ∀ fs ∈ [[wu.form 0x0A (wu.rawSrcs 2)], [wu.form 0x0B (wu.rawSrcs 2)], [wu.form 0x0C (wu.rawSrcs 2)],
    [wu.form 0x0D (wu.rawSrcs 1)], [wu.form 0x0E (wu.rawSrcs 2)], [wu.form 0x0F (wu.rawSrcs 2)], [wu.form 0x10 (wu.rawSrcs 2)],
    [wu.form 0x11 (wu.rawSrcs 2)], [wu.form 0x12 (wu.rawSrcs 2)], [wu.form 0x13 (wu.rawSrcs 1)], [wu.form 0x14 (wu.rawSrcs 1)],
    [wu.form 0x15 (wu.rawSrcs 1)]], Ready ready fs false 1 := all_ready (by decide +kernel)

theorem witness_FieldsSelectCompare : ∀ fs ∈ [[wu.form 0x16 (wu.rawSrcs 2)], [wu.form 0x17 (wu.rawSrcs 3)],
    [wu.form 0x18 [srcExact 0 wu.a wu.tag, srcExact 1 wu.b wu.tag]], [{ wu.form 0x19 (wu.rawSrcs 2) with dV := [], dP := [wu.d] }],
    [{ wu.form 0x26 [sourceOf wu (numTags ++ [.m8x8, .m4x16])] with late := cvtLate wu.a wu.tag wu.sub }],
    [wp.form 0x27 [srcRaw 0 wp.a wp.tag, srcRaw 1 wp.b wp.tag]], [wp.form 0x28 [srcRaw 0 wp.a wp.tag]], [wp.form 0x29 [srcAny 0 wp.a]]],
    Ready ready fs false 1 := all_ready (by decide +kernel)

theorem witness_Predicates : ∀ fs ∈ [[{ wp.form 0x20 [] with dV := [], dP := [wp.d] }], [{ wp.form 0x21 [] with dV := [], dP := [wp.d] }],
    [{ wp.form 0x22 [] with dV := [], dP := [wp.d] }], [{ wp.form 0x23 [] with dV := [], dP := [wp.d] }],
    [{ wp.form 0x24 [srcRaw 0 wp.a wp.tag] with dV := [], dP := [wp.d] }], [{ wp.form 0x25 [] with dV := [], dP := [wp.d] }]],
    Ready ready fs false 1 := all_ready (by decide +kernel)

theorem witness_CapabilityWords : ∀ fs ∈ [[{ wc.form 0x30 [] with dV := [], dC := [wc.d], caps := [wc.a] }],
    [{ wc.form 0x31 [srcRaw 1 wc.b wc.tag] with dV := [], dC := [wc.d], caps := [wc.a] }],
    [{ wc.form 0x32 [srcRaw 1 wc.b wc.tag] with dV := [], dC := [wc.d], caps := [wc.a] }],
    [{ wc.form 0x33 [srcRaw 1 wc.b wc.tag, srcRaw 2 wc.c wc.tag] with dV := [], dC := [wc.d], caps := [wc.a] }],
    [{ wc.form 0x34 [srcRaw 1 wc.b wc.tag] with dV := [], dC := [wc.d], caps := [wc.a] }], [{ wc.form 0x35 [] with caps := [wc.a] }],
    [{ wc.form 0x36 [srcRaw 1 wc.b wc.tag] with dV := [], dP := [wc.d], caps := [wc.a] }],
    [{ wc.form 0x36 [] with dV := [], dP := [wc.d], caps := [wc.a] }]], Ready ready fs false 1 := all_ready (by decide +kernel)

theorem witness_Immediates : wi.fits = true ∧ ∀ fs ∈ [[wi.form 0x00 []], [wi.form 0x01 [srcWord 0 wi.a]], [wi.form 0x02 [srcWord 0 wi.a]],
    [wi.form 0x03 [srcSome 0 wi.a intTags]], [wi.form 0x04 [srcSome 0 wi.a intTags]],
    [{ wi.form 0x05 [srcWord 0 wi.a] with dV := [], dP := [wi.d] }]], Ready ready fs false 1 :=
  ⟨by decide, all_ready (by decide +kernel)⟩

theorem witness_ControlTransfer : ∀ fs ∈ [[{ wi.form 0x10 [] with dV := [] }], [wi.form 0x11 []], [{ wi.form 0x12 [srcRaw 0 wi.a .u64] with dV := [] }],
    [{ wi.form 0x13 [srcRaw 0 wi.a .u64] with dV := [] }], [wi.form 0x14 [srcWord 0 wi.a]], [{ wi.form 0x1A [] with dV := [] }]],
    Ready ready fs false 1 := all_ready (by decide +kernel)

theorem witness_FloatArithmetic : wf.tag.isFloat = true ∧ ∀ fs ∈ [[wf.form 0x40 (exactSrcs wf 2)], [wf.form 0x41 (exactSrcs wf 2)],
    [wf.form 0x42 (exactSrcs wf 2)], [wf.form 0x43 (exactSrcs wf 3)], [wf.form 0x44 (exactSrcs wf 3)], [wf.form 0x45 (exactSrcs wf 3)],
    [wf.form 0x46 (exactSrcs wf 2)], [wf.form 0x47 (exactSrcs wf 2)], [wf.form 0x48 (exactSrcs wf 1)], [wf.form 0x49 (exactSrcs wf 1)],
    [{ wf with b := 2 }.form 0x4E [srcExact 0 wf.a wf.tag, srcRaw 1 2 (signedOf wf.tag.width)]], [wf.form 0x4F (exactSrcs wf 1)]],
    Ready ready fs false 1 := ⟨by decide, all_ready (by decide +kernel)⟩

/-- Operands of the dot products, with and without an accumulator, and of the conversions. -/
def wd2 : Rounded := ⟨.always, 30, 24, 24, 24, .f32x2, .rn, false, 1⟩
def wd4 : Rounded := ⟨.always, 30, 26, 26, 0, .f16x4, .rn, false, 0⟩
def wfi : Rounded := ⟨.always, 30, 4, 0, 0, .s64, .rz, false, 0⟩
def wif : Rounded := ⟨.always, 30, 2, 0, 0, .f64, .rn, false, 0⟩
def wq : Rounded := ⟨.always, 30, 24, 24, 0, .q8x8, .rn, false, 3⟩
def wfm : Rounded := ⟨.always, 30, 24, 0, 0, .m8x8, .rn, false, 0⟩

theorem witness_FloatOther : ∀ fs ∈ [[{ wf.form 0x4A (exactSrcs wf 2) with dV := [], dP := [wf.d] }], [wf.form 0x4B (exactSrcs wf 1)],
    [wd2.form 0x4C ([srcExact 0 wd2.a wd2.tag, srcExact 1 wd2.b wd2.tag] ++ [srcExact 2 wd2.c .f32x2])],
    [wd4.form 0x4D ([srcExact 0 wd4.a wd4.tag, srcExact 1 wd4.b wd4.tag] ++ [])], [convForm 0x60 wf floatTags (fun _ => [])],
    [convForm 0x61 wfi floatTags (fun _ => [])], [convForm 0x62 wif numTags (fun _ => [])],
    [convForm 0x63 wq floatTags (fun x => [srcExact 1 wq.b (x.vreg wq.a).tag])], [convForm 0x64 wfm floatTags (fun _ => [])]],
    Ready ready fs false 1 := all_ready (by decide +kernel)

theorem witness_SpecialFunctions : ∀ fs ∈ [[wf.form 0x70 (exactSrcs wf 1)], [wf.form 0x71 (exactSrcs wf 1)], [wf.form 0x72 (exactSrcs wf 1)],
    [wf.form 0x73 (exactSrcs wf 2)], [wf.form 0x74 (exactSrcs wf 1)], [wf.form 0x75 (exactSrcs wf 1)], [wf.form 0x76 (exactSrcs wf 1)],
    [wf.form 0x77 (exactSrcs wf 1)], [wf.form 0x78 (exactSrcs wf 1)]], Ready ready fs false 2 := all_ready (by decide +kernel)

theorem witness_LaneWords : ∀ fs ∈ [[wp.form 0x80 [srcExact 0 wp.a wp.tag, srcRaw 1 wp.b (unsignedOf wp.tag.width)]],
    [wp.form 0x81 [srcExact 0 wp.a wp.tag]], [wp.form 0x82 []], [{ wp.form 0x83 [] with dV := [], dP := [wp.d] }], [wp.form 0x84 [srcAny 0 wp.a]],
    [wp.form 0x85 [spanSrc wp]], [wp.form 0x86 [spanSrc wp]], [wp.form 0x87 [spanSrc wp]], [wp.form 0x88 [spanSrc wp]]],
    Ready ready fs false 1 := all_ready (by decide +kernel)

theorem witness_Matrices : ∀ fs ∈ [[matForm 0xA0 wm [srcExact 0 wm.a wm.tag] (runNums wm.d (mRun wm)) []],
    [matForm 0xA1 wm (srcsAB wm) (runNums wm.d (mRun wm)) []], [matForm 0xA2 wm (srcsAB wm) (runNums wm.d (mRun wm)) []],
    [matForm 0xA3 wm (srcsABC wm) (runNums wm.d (mRun wm)) []], [matForm 0xA4 wm (srcsA wm) (runNums wm.d (mRun wm)) []],
    [matForm 0xA5 wm (srcsA wm ++ runSrcs wm.tag 1 wm.b (vRun wm)) (runNums wm.d (vRun wm)) []],
    [matForm 0xA6 wm (srcsA wm) (runNums wm.d (mRun wm)) [wm.b]], [matForm 0xA7 wm (srcsA wm) (runNums wm.d (mRun wm) ++ [wm.b]) [wm.c]],
    [matForm 0xA8 wm (srcsA wm ++ runSrcs wm.tag 1 wm.b (vRun wm) ++ []) (runNums wm.d (vRun wm)) []],
    [matForm 0xA8 { wm with mode := 1, c := 1 } (srcsA wm ++ runSrcs wm.tag 1 wm.b (vRun wm) ++ [srcRaw 2 1 .u64]) (runNums wm.d (vRun wm)) []]],
    Ready ready fs false 3 := all_ready (by decide +kernel)

/-- The two halves of a paired word: of class A, and of class B. -/
def ha (op : PairOp) : Half := ⟨32, 1, if op = .mov then .raw else .u64, .rn, false⟩
def hb : Half := ⟨33, 4, .f64, .rn, false⟩

theorem witness_PairedWords : ∀ fs ∈ ([.mov, .add, .sub, .mul, .min, .max, .abs, .neg, .and, .or, .xor, .not, .andn, .shl, .shr, .sar].map fun op =>
      [pairForm op [(8, (ha op).d), (8, (ha op).a), (9, hb.d), (9, hb.a)] (ha op), pairForm .fmin [] hb])
    ++ ([.fadd, .fsub, .fmul, .fmin, .fmax, .fabs, .fneg].map fun op =>
      [pairForm op [(8, hb.d), (8, hb.a), (9, (ha .add).d), (9, (ha .add).a)] hb, pairForm .add [] (ha .add)]),
    Ready ready fs false 1 := all_ready (by decide +kernel)
/-! ### Witnesses: words that reach outside the registers -/

/-- PortTakes as a computation. -/
def portDec (t : State) (core part : Nat) (pinned : Bool) (oks : List (Thread × Eff)) : Decidable (PortTakes t core part pinned oks) := by
  unfold PortTakes; infer_instance

/-- RoomFor as a computation. -/
def roomDec (s : State) (g : Group) (b : Block) (oks : List (Thread × Eff)) : Decidable (RoomFor s g b oks) := by
  unfold RoomFor PortTakes; infer_instance

/-- The hypotheses of a PlainWord. -/
def Roomy (s : State) (f : Form) (mem : Bool) (e : State → Block → Thread → Eff) : Prop :=
  Ready s [f] mem 1 ∧ ∀ g b, s.current = some (g, b) → RoomFor s g b (each (actives f.guard g b) (e s b))

theorem roomy {s : State} {f : Form} {mem : Bool} {e : State → Block → Thread → Eff}
    (h : (readyB s [f] mem 1 && s.current.all fun gb => @decide _ (roomDec s gb.1 gb.2 (each (actives f.guard gb.1 gb.2) (e s gb.2)))) = true) :
    Roomy s f mem e := by
  simp only [Bool.and_eq_true] at h
  refine ⟨readyB_ready h.1, fun g b hc => ?_⟩
  have h2 := h.2
  rw [hc] at h2
  exact @of_decide_eq_true _ (roomDec ..) h2

/-- The hypotheses of a MemoryWord. -/
def Reaches (s : State) (f : Form) (mem : Bool) (op : Thread → AccOp) (at1 : Thread → CapReg × Int × Nat × Nat)
    (e : Thread → State → List Piece → Eff) : Prop :=
  Ready s [f] mem 1 ∧ ∃ g b s' qs, s.current = some (g, b) ∧ accessesPass op at1 b (actives f.guard g b) s = some (s', qs)
    ∧ RoomFor s' g b (withPieces qs e)

/-- The same as a computation. -/
def reachesB (s : State) (f : Form) (mem : Bool) (op : Thread → AccOp) (at1 : Thread → CapReg × Int × Nat × Nat)
    (e : Thread → State → List Piece → Eff) : Bool :=
  readyB s [f] mem 1 && match s.current with
    | some (g, b) => match accessesPass op at1 b (actives f.guard g b) s with
      | some (s', qs) => @decide _ (roomDec s' g b (withPieces qs e))
      | none => false
    | none => false

theorem reaches {s : State} {f : Form} {mem : Bool} {op : Thread → AccOp} {at1 : Thread → CapReg × Int × Nat × Nat}
    {e : Thread → State → List Piece → Eff} (h : reachesB s f mem op at1 e = true) : Reaches s f mem op at1 e := by
  simp only [reachesB, Bool.and_eq_true] at h
  obtain ⟨h1, h2⟩ := h
  split at h2
  · rename_i g b hc
    split at h2
    · rename_i s' qs ha
      exact ⟨readyB_ready h1, g, b, s', qs, hc, ha, @of_decide_eq_true _ (roomDec ..) h2⟩
    · cases h2
  · cases h2

/-- The place of a thread in scratch, where its access is not refused. -/
def placeOf (s : State) (b : Block) (a : Int × Nat × Nat) : Option Piece := match s.scratchAccess b a.1 a.2.1 a.2.2 with
  | .ok q => q
  | _ => none

/-- Whether the access is not refused. -/
def placed (s : State) (b : Block) (a : Int × Nat × Nat) : Bool := match s.scratchAccess b a.1 a.2.1 a.2.2 with
  | .ok _ => true
  | _ => false

theorem placeOf_eq {s : State} {b : Block} {a : Int × Nat × Nat} (h : placed s b a = true) :
    s.scratchAccess b a.1 a.2.1 a.2.2 = .ok (placeOf s b a) := by
  unfold placed at h; unfold placeOf
  split at h
  · rename_i q hq; rw [hq]
  · cases h

/-- The hypotheses of a ScratchWord. -/
def ReachesScratch (s : State) (f : Form) (at1 : Thread → Int × Nat × Nat) (e : Thread → Piece → Eff) : Prop :=
  Ready s [f] true 1 ∧ ∃ (g : Group) (b : Block) (q : Thread → Option Piece), s.current = some (g, b)
    ∧ (∀ x ∈ actives f.guard g b, s.scratchAccess b (at1 x).1 (at1 x).2.1 (at1 x).2.2 = .ok (q x))
    ∧ RoomFor s g b (each (actives f.guard g b) (inScratch q e))

/-- The same as a computation. -/
def scratchB (s : State) (f : Form) (at1 : Thread → Int × Nat × Nat) (e : Thread → Piece → Eff) : Bool :=
  readyB s [f] true 1 && match s.current with
    | some (g, b) => ((actives f.guard g b).all fun x => placed s b (at1 x))
      && @decide _ (roomDec s g b (each (actives f.guard g b) (inScratch (fun x => placeOf s b (at1 x)) e)))
    | none => false

theorem reachesScratch {s : State} {f : Form} {at1 : Thread → Int × Nat × Nat} {e : Thread → Piece → Eff}
    (h : scratchB s f at1 e = true) : ReachesScratch s f at1 e := by
  simp only [scratchB, Bool.and_eq_true] at h
  obtain ⟨h1, h2⟩ := h
  split at h2
  · rename_i g b hc
    simp only [Bool.and_eq_true, List.all_eq_true] at h2
    exact ⟨readyB_ready h1, g, b, _, hc, fun x hx => placeOf_eq (h2.1 x hx), @of_decide_eq_true _ (roomDec ..) h2.2⟩
  · cases h2

/-- The hypotheses of a CommandWord. -/
def Commands (s : State) (f : Form) (checks : Block → Thread → List Check) (cmd : Block → Thread → Cmd) : Prop :=
  ∃ (s' : State) (g : Group) (b : Block) (x : Thread) (pre rest : List Thread) (go : Bool), s.current = some (g, b)
    ∧ actives f.guard g b = pre ++ x :: rest ∧ (∀ y ∈ pre ++ rest, x.tid < y.tid) ∧ Unhindered s b [f] true 1 (pre ++ x :: rest)
    ∧ checkAll x [f] = none ∧ runChecks (checks b x) s = (s', .ok go) ∧ RoomFor s' g b (commandOf b cmd x go pre rest)

/-- The same as a computation. -/
def commandB (s : State) (f : Form) (checks : Block → Thread → List Check) (cmd : Block → Thread → Cmd) : Bool :=
  readyB s [f] true 1 && match s.current with
    | some (g, b) => match actives f.guard g b with
      | x :: rest => (rest.all fun y => decide (x.tid < y.tid)) && match runChecks (checks b x) s with
        | (s', .ok go) => @decide _ (roomDec s' g b (commandOf b cmd x go [] rest))
        | _ => false
      | [] => false
    | none => false

theorem commands {s : State} {f : Form} {checks : Block → Thread → List Check} {cmd : Block → Thread → Cmd}
    (h : commandB s f checks cmd = true) : Commands s f checks cmd := by
  simp only [commandB, Bool.and_eq_true] at h
  obtain ⟨h1, h2⟩ := h
  obtain ⟨g, b, hc, hu, hp, -⟩ := readyB_ready h1
  simp only [hc] at h2
  simp only [guardOf] at hu hp
  split at h2
  · rename_i x rest ha
    simp only [Bool.and_eq_true, List.all_eq_true, decide_eq_true_eq] at h2
    obtain ⟨h2, h3⟩ := h2
    rw [ha] at hu hp
    split at h3
    · rename_i s' go hr
      exact ⟨s', g, b, x, [], rest, go, hc, ha, h2, hu, hp x (List.mem_cons_self ..), hr, @of_decide_eq_true _ (roomDec ..) h3⟩
    · cases h3
  · cases h2

/-- MayCommit as a computation. -/
def commitDec (s : State) (g : Group) (b : Block) (gd : Guard) : Decidable (MayCommit s g b gd) := by
  unfold MayCommit; infer_instance

/-- The hypotheses of a CommitWord that waits for what its threads have committed. -/
def Commits (s : State) (f : Form) : Prop :=
  ∃ g b b2, s.current = some (g, b) ∧ MayCommit s g b f.guard ∧ Passes [f] (actives f.guard g b)
    ∧ (∀ drain, Drained drain (s.onCommit g b (each (actives f.guard g b) fun _ => {})) b (each (actives f.guard g b) fun _ => {}))
    ∧ (s.onCommit g b (each (actives f.guard g b) fun _ => {})).block? b.uid = some b2

/-- The same as a computation. -/
def commitB (s : State) (f : Form) : Bool := match s.current with
  | some (g, b) => @decide _ (commitDec s g b f.guard) && ((actives f.guard g b).all fun x => (checkAll x [f]).isNone)
    && ((each (actives f.guard g b) fun _ => ({} : Eff)).all fun o =>
      !(s.onCommit g b (each (actives f.guard g b) fun _ => {})).pendingOf b.uid o.1.tid)
    && ((s.onCommit g b (each (actives f.guard g b) fun _ => {})).block? b.uid).isSome
  | none => false

/-- Where a thread has nothing committed to perform, it has nothing of any kind. -/
theorem pendingIn_of {s : State} {u t : Nat} (kinds : Item → Bool) (h : s.pendingOf u t = false) : s.pendingIn kinds u t = false := by
  unfold State.pendingIn
  rw [List.any_eq_false]
  intro i hi hk
  simp only [Bool.and_eq_true] at hk
  unfold State.pendingOf at h
  exact List.any_eq_false.mp h i hi (by simpa only [Bool.and_eq_true] using hk.1)

theorem commits {s : State} {f : Form} (h : commitB s f = true) : Commits s f := by
  unfold commitB at h
  split at h
  · rename_i g b hc
    simp only [Bool.and_eq_true, List.all_eq_true, Option.isNone_iff_eq_none, Bool.not_eq_true', Option.isSome_iff_exists] at h
    obtain ⟨⟨⟨h1, h2⟩, h3⟩, b2, h4⟩ := h
    exact ⟨g, b, b2, hc, @of_decide_eq_true _ (commitDec ..) h1, h2, fun d o ho => pendingIn_of d (h3 o ho), h4⟩
  · cases h

/-- The hypotheses of a CommitMemoryWord. -/
def CommitReaches (s : State) (f : Form) (op : Thread → AccOp) (at1 : Thread → CapReg × Int × Nat × Nat)
    (e : Thread → State → List Piece → Eff) : Prop :=
  ∃ (s' : State) (g : Group) (b b2 : Block) (qs : List (Thread × State × List Piece)), s.current = some (g, b)
    ∧ MayCommit s g b f.guard ∧ Passes [f] (actives f.guard g b) ∧ accessesPass op at1 b (actives f.guard g b) s = some (s', qs)
    ∧ (s'.onCommit g b (withPieces qs e)).block? b.uid = some b2
    ∧ PortTakes (s'.sentOut g b b2 (withPieces qs e)) b.core g.part false (withPieces qs e)

/-- The same as a computation. -/
def commitReachesB (s : State) (f : Form) (op : Thread → AccOp) (at1 : Thread → CapReg × Int × Nat × Nat)
    (e : Thread → State → List Piece → Eff) : Bool := match s.current with
  | some (g, b) => @decide _ (commitDec s g b f.guard) && ((actives f.guard g b).all fun x => (checkAll x [f]).isNone)
    && match accessesPass op at1 b (actives f.guard g b) s with
      | some (s', qs) => ((s'.onCommit g b (withPieces qs e)).block? b.uid).any fun b2 =>
        @decide _ (portDec (s'.sentOut g b b2 (withPieces qs e)) b.core g.part false (withPieces qs e))
      | none => false
  | none => false

theorem commitReaches {s : State} {f : Form} {op : Thread → AccOp} {at1 : Thread → CapReg × Int × Nat × Nat}
    {e : Thread → State → List Piece → Eff} (h : commitReachesB s f op at1 e = true) : CommitReaches s f op at1 e := by
  unfold commitReachesB at h
  split at h
  · rename_i g b hc
    simp only [Bool.and_eq_true, List.all_eq_true, Option.isNone_iff_eq_none] at h
    obtain ⟨⟨h1, h2⟩, h3⟩ := h
    split at h3
    · rename_i s' qs ha
      obtain ⟨b2, h4, h5⟩ := (Option.any_eq_true ..).mp h3
      exact ⟨s', g, b, b2, qs, hc, @of_decide_eq_true _ (commitDec ..) h1, h2, ha, h4, @of_decide_eq_true _ (portDec ..) h5⟩
    · cases h3
  · cases h

/-- The hypotheses of a CommitScratchWord. -/
def CommitScratch (s : State) (f : Form) (at1 : Thread → Int × Nat × Nat) (e : Thread → Piece → Eff) : Prop :=
  ∃ (g : Group) (b b2 : Block) (q : Thread → Option Piece), s.current = some (g, b) ∧ MayCommit s g b f.guard
    ∧ Passes [f] (actives f.guard g b)
    ∧ (∀ x ∈ actives f.guard g b, s.scratchAccess b (at1 x).1 (at1 x).2.1 (at1 x).2.2 = .ok (q x))
    ∧ (s.onCommit g b (each (actives f.guard g b) (inScratch q e))).block? b.uid = some b2
    ∧ PortTakes (s.sentOut g b b2 (each (actives f.guard g b) (inScratch q e))) b.core g.part false (each (actives f.guard g b) (inScratch q e))

/-- The same as a computation. -/
def commitScratchB (s : State) (f : Form) (at1 : Thread → Int × Nat × Nat) (e : Thread → Piece → Eff) : Bool := match s.current with
  | some (g, b) => @decide _ (commitDec s g b f.guard) && ((actives f.guard g b).all fun x => (checkAll x [f]).isNone)
    && ((actives f.guard g b).all fun x => placed s b (at1 x))
    && let oks := each (actives f.guard g b) (inScratch (fun x => placeOf s b (at1 x)) e)
      ((s.onCommit g b oks).block? b.uid).any fun b2 => @decide _ (portDec (s.sentOut g b b2 oks) b.core g.part false oks)
  | none => false

theorem commitScratch {s : State} {f : Form} {at1 : Thread → Int × Nat × Nat} {e : Thread → Piece → Eff}
    (h : commitScratchB s f at1 e = true) : CommitScratch s f at1 e := by
  unfold commitScratchB at h
  split at h
  · rename_i g b hc
    simp only [Bool.and_eq_true, List.all_eq_true, Option.isNone_iff_eq_none] at h
    obtain ⟨⟨⟨h1, h2⟩, h3⟩, h4⟩ := h
    obtain ⟨b2, h4, h5⟩ := (Option.any_eq_true ..).mp h4
    exact ⟨g, b, b2, _, hc, @of_decide_eq_true _ (commitDec ..) h1, h2, fun x hx => placeOf_eq (h3 x hx), h4,
      @of_decide_eq_true _ (portDec ..) h5⟩
  · cases h

/-- The state of these witnesses: one thread, and scratch of 4 KiB. -/
def roomySt : State :=
  let s := bench 0 [rich]
  { s with sched := { s.sched with cur := 1 }, blocks := s.blocks.map fun b => { b with scrSize := 4096 } }

/-- Memory words at the cursor of c8, with v1 as data: 64-bit U64. `wx` has a scratch offset of −8, out of range. -/
def wl : MemW := ⟨.always, 1, 8, 0, 0, false, 0, .u64, 0, 0, .device⟩
def ws : MemW := { wl with cap := 0, scope := .block }
def wx : MemW := { ws with off := 1016 }

theorem witness_LoadsAndStores :
    Reaches roomySt (wl.form 0x00 false true [] [wl.data]) true (fun _ => opLoad) (throughCap wl 8)
      (fun _ _ ps => { req := some (.load wl.data wl.type 8 false, wl.scope, ps) })
    ∧ Reaches roomySt (wl.form 0x01 false true [] [wl.data]) true (fun _ => opLoad) (throughCap wl 8)
      (fun _ _ ps => { req := some (.load wl.data wl.type 8 (ps.all fun p => p.ord != 2), wl.scope, ps) })
    ∧ Reaches roomySt (wl.form 0x02 false true [srcAny 3 wl.data] []) true (fun _ => opStore) (throughCap wl 8)
      (fun x _ ps => { effects := [.store ps (lowBytes x wl.data 8)] })
    ∧ (∀ w ∈ [ws, wx], ReachesScratch roomySt (w.form 0x04 false false [] [w.data]) (throughScratch w 8)
      (fun _ p => { req := some (.load w.data w.type 8 false, w.scope, [p]) })
      ∧ ReachesScratch roomySt (w.form 0x05 false false [srcAny 3 w.data] []) (throughScratch w 8)
        (fun x p => { effects := [.store [p] (lowBytes x w.data 8)] })) :=
  ⟨reaches (by decide +kernel), reaches (by decide +kernel), reaches (by decide +kernel), fun w hw => by
    simp only [List.mem_cons, List.not_mem_nil, or_false] at hw
    rcases hw with rfl | rfl <;> exact ⟨reachesScratch (by decide +kernel), reachesScratch (by decide +kernel)⟩⟩
/-- Matrix words of order 2 (index register v1), words on capability registers, and the words on cells of F64. -/
def wlane : MemW := ⟨.always, 32, 8, 1, 1, false, 0, .f64, 0, 0, .device⟩
def wcap : MemW := ⟨.always, 9, 8, 0, 0, false, 0, .raw, 0, 0, .device⟩
def wcell : MemW := ⟨.always, 4, 8, 0, 0, false, 0, .f64, 0, 0, .device⟩
def wscell : MemW := { wcell with cap := 0, size := 1 }

theorem witness_MatrixAndCapabilityTransfers :
    Reaches roomySt (wlane.form 0x32 true true [] (span wlane.data (laneRun wlane))) true (fun _ => opLoad)
      (fun x => (x.creg wlane.cap, laneOffset wlane x, laneBytes wlane, 8))
      (fun _ _ ps => { req := some (.lane wlane.data wlane.type (laneRun wlane), wlane.scope,
          ((List.range (laneRun wlane)).map fun k => slice ps (8 * k) (laneChunk wlane k)).flatten) })
    ∧ Reaches roomySt (wlane.form 0x33 true true ((span wlane.data (laneRun wlane)).map fun r => srcAny 3 r) []) true (fun _ => opStore)
      (fun x => (x.creg wlane.cap, laneOffset wlane x, laneBytes wlane, 8)) (fun x _ ps =>
        { effects := (List.range (laneRun wlane)).map fun k =>
            .store (slice ps (8 * k) (laneChunk wlane k)) (lowBytes x (wlane.data + k) (laneChunk wlane k)) })
    ∧ Reaches roomySt { wcap.form 0x34 false true [] [] with dC := [wcap.data] } true (fun _ => opLoad) (throughCap wcap 16)
      (fun x _ ps => { req := some (.cap wcap.data (bitAt (x.creg wcap.cap).rights 3), wcap.scope, ps) })
    ∧ (∀ d ∈ [8, 9], Reaches roomySt { ({ wcap with data := d }).form 0x35 false true [] [] with caps := [8, d] } true
      (fun x => opStcap (x.creg d).tag) (throughCap wcap 16)
      (fun x _ ps => { effects := (ps.take 1).map fun p => .cap p (x.creg d).nat (x.creg d).tag })) :=
  ⟨reaches (by decide +kernel), reaches (by decide +kernel), reaches (by decide +kernel), fun d hd => by
    simp only [List.mem_cons, List.not_mem_nil, or_false] at hd
    rcases hd with rfl | rfl <;> exact reaches (by decide +kernel)⟩

theorem witness_ReductionsAndWideSums :
    (∀ k ∈ [0, 1, 2, 3, 4, 5], Reaches roomySt (wl.form (0x18 + k) false true (atomSrcs k wl) []) true (fun _ => opAtomic) (throughCap wl 8)
      (fun x _ ps => { effects := (ps.take 1).map fun p => .red p k wl.type (lowBytes x wl.data 8) }))
    ∧ Reaches roomySt (wcell.form 0x30 false true [srcExact 3 wcell.data wcell.type] []) true (fun _ => opAtomic) (throughCap wcell 16)
      (fun x _ ps => wsumEff wcell x ps)
    ∧ ReachesScratch roomySt (wscell.form 0x30 false false [srcExact 3 wscell.data wscell.type] []) (throughScratch wscell 16)
      (fun x p => wsumEff wscell x [p])
    ∧ Reaches roomySt (wcell.form 0x31 false true [] [wcell.data]) true (fun _ => opLoad) (throughCap wcell 16)
      (fun _ _ ps => { req := some (.wide wcell.data wcell.type, wcell.scope, ps) })
    ∧ ReachesScratch roomySt (wscell.form 0x31 false false [] [wscell.data]) (throughScratch wscell 16)
      (fun _ p => { req := some (.wide wscell.data wscell.type, wscell.scope, [p]) }) :=
  ⟨fun k hk => by
    simp only [List.mem_cons, List.not_mem_nil, or_false] at hk
    rcases hk with rfl | rfl | rfl | rfl | rfl | rfl <;> exact reaches (by decide +kernel),
  reaches (by decide +kernel), reachesScratch (by decide +kernel), reaches (by decide +kernel), reachesScratch (by decide +kernel)⟩

/-- The request of an atomic that returns. -/
def atomReq (w : MemW) (k : Nat) (x : Thread) : ReqKind :=
  .atom w.data k w.type (sizeBytes w.size) (lowBytes x w.data (sizeBytes w.size)) (if k = 7 then lowBytes x (w.data + 1) (sizeBytes w.size) else 0)

/-- An `atoms` word that returns nothing. -/
def wnr : MemW := { ws with cap := 1 }

theorem witness_AtomicsAndReleases :
    CommitReaches roomySt (wl.form 0x03 false true [srcAny 3 wl.data] []) (fun _ => opStore) (throughCap wl 8)
      (fun x _ ps => { effects := [if ps.all fun p => p.ord == 2 then .store ps (lowBytes x wl.data 8)
        else .release ps (lowBytes x wl.data 8) wl.scope] })
    ∧ (∀ k ∈ List.range 8, CommitReaches roomySt (wl.form (0x10 + k) false true (atomSrcs k wl) []) (fun _ => opAtomic) (throughCap wl 8)
      (fun x _ ps => { req := some (atomReq wl k x, wl.scope, ps) }))
    ∧ (∀ k ∈ List.range 8, CommitScratch roomySt (ws.form (0x28 + k) false false (atomSrcs k ws) []) (throughScratch ws 8)
      (fun x p => { req := some (atomReq ws k x, ws.scope, [p]) })
      ∧ CommitScratch roomySt (wx.form (0x28 + k) false false (atomSrcs k wx) []) (throughScratch wx 8)
      (fun x p => { req := some (atomReq wx k x, wx.scope, [p]) }))
    ∧ (∀ k ∈ List.range 6, ReachesScratch roomySt (wnr.form (0x28 + k) false false (atomSrcs k wnr) []) (throughScratch wnr 8)
      (fun x p => { effects := [.red p k wnr.type (lowBytes x wnr.data 8)] })) := by
  refine ⟨commitReaches (by decide +kernel), fun k hk => commitReaches ?_, fun k hk => ⟨commitScratch ?_, commitScratch ?_⟩,
    fun k hk => reachesScratch ?_⟩ <;> revert k <;> decide +kernel

/-- A capability that no access passes, a `prefetch` through it, and a watch of each target. -/
def wnull : MemW := { wl with cap := 9, data := 0, type := .raw }
def wpre : MemW := { wl with data := 0, type := .raw }
def wmon : Plain := ⟨.always, 0, 8, 1, 0, .raw, 0⟩
def wmons : Plain := ⟨.always, 0, 0, 1, 0, .raw, 1⟩

theorem witness_CachesAndWatches :
    Reaches roomySt (wpre.form 0x39 false true [] []) false (fun _ => opLoad) (throughCap wpre 1)
      (fun _ _ ps => { acts := (ps.filter Piece.cached).map fun p => .fill wpre.scope p.line })
    ∧ Ready roomySt [wnull.form 0x39 false true [] []] false 1
    ∧ (∃ g b, roomySt.current = some (g, b) ∧ ∀ x ∈ actives wnull.guard g b,
      let r := (roomySt.access b (x.creg wnull.cap) (MemW.offset wnull x true) 1 1 opLoad).2
      (∀ ps, r ≠ .ok ps) ∧ r ≠ .wait)
    ∧ Reaches roomySt (wpre.form 0x3A false true [] []) true (fun _ => opCachectl) (throughCap wpre 1) (fun _ t ps =>
      { acts := if (ps.flatMap fun p => t.copies p).isEmpty then [] else [.cache 0 (ps.flatMap fun p => t.copies p)] })
    ∧ (∃ g b r, roomySt.current = some (g, b)
      ∧ accessesPass (fun _ => opCachectl) (throughCap wpre 1) b (actives wpre.guard g b) roomySt = some r
      ∧ ∀ q ∈ r.2, q.2.1.storesTo b.uid q.1.tid (q.2.2.flatMap fun p => q.2.1.copies p) = false)
    ∧ wmon.opx = 0 ∧ Reaches roomySt { guard := wmon.guard, regs := (wmon.view 0xE4).regs, srcs := [srcWord 1 wmon.b], caps := [wmon.a] } true
      (fun _ => opLoad) (fun x => (x.creg wmon.a, ((x.creg wmon.a).cursor : Int) + (x.vreg wmon.b).val.toInt, 1, 1))
      (fun _ _ ps => { acts := (ps.take 1).map fun p => .watch none (watchPlace p) })
    ∧ wmons.opx ≠ 0 ∧ ReachesScratch roomySt { guard := wmons.guard, regs := (wmons.view 0xE4).regs, srcs := [srcWord 1 wmons.b] }
      (fun x => (((x.vreg wmons.b).val.toNat : Nat), 4, 4)) (fun _ p => { acts := [.watch p.scratch p.addr] })
    ∧ Commits roomySt (({ wl with data := 0, cap := 0, type := .raw }).form 0x38 false false [] [])
    ∧ Commits roomySt { guard := wmons.guard, regs := (wmons.view 0xE5).regs } := by
  refine ⟨reaches (by decide +kernel), readyB_ready (by decide +kernel), ?_, reaches (by decide +kernel), ?_, rfl, reaches (by decide +kernel),
    by decide, reachesScratch (by decide +kernel), commits (by decide +kernel), commits (by decide +kernel)⟩
  · have h : (roomySt.current.all fun gb => (actives wnull.guard gb.1 gb.2).all fun x =>
      match (roomySt.access gb.2 (x.creg wnull.cap) (MemW.offset wnull x true) 1 1 opLoad).2 with
        | .ok _ => false
        | .wait => false
        | _ => true) = true := by decide +kernel
    have hs : roomySt.current.isSome = true := by decide +kernel
    obtain ⟨gb, hc⟩ := Option.isSome_iff_exists.mp hs
    rw [hc] at h
    refine ⟨gb.1, gb.2, hc, fun x hx => ?_⟩
    have := List.all_eq_true.mp h x hx
    split at this
    · cases this
    · cases this
    · rename_i h1 h2
      exact ⟨h1, h2⟩
  · have h : (roomySt.current.any fun gb =>
      (accessesPass (fun _ => opCachectl) (throughCap wpre 1) gb.2 (actives wpre.guard gb.1 gb.2) roomySt).any fun r =>
        r.2.all fun q => !(q.2.1.storesTo gb.2.uid q.1.tid (q.2.2.flatMap fun p => q.2.1.copies p))) = true := by decide +kernel
    simp only [Option.any_eq_true, List.all_eq_true, Bool.not_eq_true'] at h
    obtain ⟨gb, hc, r, hr, hq⟩ := h
    exact ⟨gb.1, gb.2, r, hc, hr, hq⟩
/-! ### Witnesses: commands, counters, launches, commits, traps -/

/-- The same with counter 0 granted to the context at every level, slot 0 bound to its ring, a launch record at offset 0x1000
of object 1 and a feed header at 0x2000, which hold 32 bytes of scratch and one record of one register, and a descriptor
table at 0x8000. -/
def fullSt : State :=
  let s := roomySt
  let code := slateRecord.take 8 ++ [(capOf 1 0xFF 16 0 1 0x8000 true).nat % 2 ^ 64, (capOf 1 0xFF 16 0 1 0x8000 true).nat / 2 ^ 64]
    ++ List.replicate 22 0
  let m := (s.mem.write 0x11000 (slateRecord.flatMap fun d => natToBytes 8 d)).store 0x12080 8 1
  let m := ((m.store 0x120C0 8 0x100).store 0x120C8 8 0x3000).store 0x13000 8 77
  let count : Counter := { owner := 1, granted := true }
  { s with
    mem := m
    ctxs := [{ n := 1, otn := 2, saveobj := 1 }]
    launches := s.launches.map fun l => { l with record := code, tags := [false, false, false, true, true] ++ List.replicate 11 false }
    tables := { s.tables with launch := [(0, count)], graph := [(0, count)], phase := [(0, count)], job := [(0, count)] }
    queues := { s.queues with slots := s.queues.slots.set 0 { bound := true, ctx := 1, log2n := 4, ring := 0x40000 } }
    link := { s.link with qcbbase := 0x30000 } }

/-- Its threads changed. -/
def State.threads (s : State) (f : Thread → Thread) : State :=
  { s with blocks := s.blocks.map fun b => { b with threads := b.threads.map f } }

/-- Copies of nothing through c8, of one row, with a pass at scratch 0, with a landing barrier out of range, and `rack`. -/
def kc : Plain := ⟨.always, 40, 8, 8, 41, .raw, 0⟩
def kg : Plain := ⟨.always, 40, 8, 8, 42, .raw, 2⟩
def kout : Plain := ⟨.always, 47, 8, 8, 41, .raw, 0⟩
def kr : Plain := ⟨.always, 40, 8, 8, 46, .raw, 3⟩
def kbad : Plain := ⟨.always, 40, 8, 8, 41, .raw, 3⟩
def kp : Plain := ⟨.always, 0, 1, 0, 0, .raw, 0⟩
def kq : Plain := ⟨.always, 0, 0, 0, 0, .raw, 0x1F⟩

theorem witness_EngineCommands :
    (∀ w ∈ [kc, kout], Commands fullSt (copyForm 0xC3 w [w.c] (lenViols w))
      (fun b x => copyChecks w b x (some (regNat x w.c)) (some (regNat x w.c)) [] [])
      (fun b x => { copyCmd .cpy w b x with len := regNat x w.c, keepTags := keepsTags w x }))
    ∧ Commands fullSt (copyForm 0xC4 kg [kg.c, kg.c + 1] (gatherViols kg))
      (fun b x => copyChecks kg b x none (some (gatherCount kg x * gatherSize kg x))
        [(bits (regNat x (kg.c + 1)) 0 21, 4 * gatherCount kg x)] [(bits (regNat x (kg.c + 1)) 0 21, 4)])
      (fun b x => { copyCmd .cpyg kg b x with
        rows := gatherCount kg x, len := gatherSize kg x, stride := gatherStride kg x, idx := bits (regNat x (kg.c + 1)) 0 21 })
    ∧ Commands fullSt (copyForm 0xC5 kc [kc.c, kc.c + 1] fun x => lenViols kc x ++ tooWide x (kc.c + 1) 21 4 ++ [])
      (fun b x => copyChecks kc b x (some (regNat x kc.c)) (some (regNat x kc.c)) [(0, 64)] [(0, 64)])
      (fun b x => { copyCmd .cpym kc b x with len := regNat x kc.c, pdesc := bits (regNat x (kc.c + 1)) 0 21 })
    ∧ (∀ w ∈ [kr, kbad], Commands fullSt (copyForm 0xC6 w [w.c] fun _ => [])
      (fun b x => if rackValid w x then
          copyChecks w b x (some (8 * rackN w x)) (some (4 * (rackE w x + 1 + rackN w x))) []
            [((copySrc w b x).place, 8), ((copyDst w b x).place, 4)]
        else rangeChecks b [] [] (((copyLbar w x).toList.map fun a => (a, 16)) ++ (copyNotify w b x).toList.map fun p => (p.place, 4)))
      (fun b x => { copyCmd .rack w b x with
        notify := (copyNotify w b x).filter fun p => rackValid w x || p.notifiable
        len := rackN w x, experts := rackE w x, cbase := rackBase w x, failed := !(rackValid w x), invalid := !(rackValid w x) }))
    ∧ Commands fullSt { guard := kp.guard, regs := (kp.view 0xC2).regs, srcs := [srcWord 0 kp.a], values := fun x => tooWide x kp.a 21 2 }
      (fun b x => rangeChecks b [] [(regNat x kp.a, 64)] [(regNat x kp.a, 64)])
      (fun _ x => { kind := .ppass, queue := 16, pdesc := regNat x kp.a })
    ∧ Commands fullSt { guard := kq.guard, regs := (kq.view 0xC7).regs } (fun _ _ => []) (fun _ _ => { kind := .qfence, queue := kq.opx }) := by
  refine ⟨fun w hw => ?_, commands (by decide +kernel), commands (by decide +kernel), fun w hw => ?_, commands (by decide +kernel),
    commands (by decide +kernel)⟩
  all_goals
    simp only [List.mem_cons, List.not_mem_nil, or_false] at hw
    rcases hw with rfl | rfl <;> exact commands (by decide +kernel)

/-- Words on counters: v1 as index, amount, address and expected count; pair 32 and predicate 2 as results. -/
def kn : Plain := ⟨.always, 32, 1, 1, 0, .raw, 0⟩
def kx : Plain := ⟨.always, 32, 1, 2, 0, .raw, 0⟩

theorem witness_CountersAndLookups :
    ReachesScratch fullSt { guard := kn.guard, regs := (kn.view 0xC8).regs, srcs := [srcWord 0 kn.a, srcWord 1 kn.b], values := fun x => tooWide x kn.a 21 2 ++ tooWide x kn.b 32 3 }
      (fun x => ((regNat x kn.a : Nat), 16, 16)) (fun x p => { effects := [.arm p (regNat x kn.b)] })
    ∧ Roomy fullSt { guard := kn.guard, regs := (kn.view 0xC9).regs, srcs := [srcWord 0 kn.a, srcWord 1 kn.b], values := fun x => tooWide x kn.a 16 2 }
      true (fun _ _ x => { effects := [.count (regNat x kn.a) (regNat x kn.b)] })
    ∧ Roomy fullSt { kn.form 0xC9 [srcWord 0 kn.a] with values := fun x => tooWide x kn.a 16 2 } true (fun s _ x =>
      Eff.vec kn.d .u64 (BitVec.ofNat 64 (lookupD 0 (regNat x kn.a) s.tables.act)))
    ∧ Roomy fullSt { kx.form 0xCA [srcWord 0 kx.a] with dV := [kx.d, kx.d + 1], dP := [kx.b], values := fun x => tooWide x kx.a 16 2 } true
      (fun s _ x => let e := lookupD (0, 0) (regNat x kx.a) s.tables.exres
        { v := [(kx.d, { val := BitVec.ofNat 64 e.1, tag := .u64 }), (kx.d + 1, { val := BitVec.ofNat 64 e.2, tag := .u64 })],
          p := [(kx.b, 1 ≤ bits e.1 0 3 && bits e.1 0 3 ≤ 3)] })
    ∧ Roomy fullSt { guard := kn.guard, regs := (kn.view 0xEC).regs, srcs := [srcWord 0 kn.a], values := handleViols fullSt kn } false
      (fun _ _ x => { acts := [.cancel (kn.opx % 4) (regNat x kn.a)] }) :=
  ⟨reachesScratch (by decide +kernel), roomy (by decide +kernel), roomy (by decide +kernel), roomy (by decide +kernel), roomy (by decide +kernel)⟩

theorem witness_StatusRegisters :
    (∀ n ∈ [0x00, 0x0F, 0x11, 0x1D], n ≠ 0x10 ∧ Roomy fullSt (({ kn with opx := n }).form 0xE6 []) false (fun s b x =>
      Eff.vec kn.d .u64 (BitVec.ofNat 64 (s.statusReg b x n))))
    ∧ Roomy fullSt (({ kn with opx := 0x10 }).form 0xE6 []) false (fun s b _ => Eff.vec kn.d .u64 (s.cycle b.core))
    ∧ (∀ d ∈ [0, 7], d < fullSt.power.beats.length)
    ∧ Roomy fullSt { ({ kn with opx := 0x14 }).form 0xE7 [srcWord 0 kn.a] with dV := [] } false (fun _ _ x => { set := some (0x14, (x.vreg kn.a).val) }) := by
  refine ⟨fun n hn => ⟨by rintro rfl; revert hn; decide, roomy ?_⟩, roomy (by decide +kernel), by decide +kernel,
    roomy (by decide +kernel)⟩
  revert n; decide +kernel

theorem witness_ReservationsWaitsAndEnds : ∀ f ∈ ([{ guard := kn.guard, regs := (kx.view 0xC0).regs }, { guard := kn.guard, regs := (kn.view 0xC1).regs },
    { guard := kn.guard }, { guard := kn.guard, values := fun x => if 1 ≥ x.h then [rangeViol 10] else [] },
    { guard := kn.guard, regs := (kn.view 0xE9).regs, srcs := [srcWord 0 kn.a, srcWord 1 kn.b], values := fun x => inHandler x ++ handleViols fullSt kn x ++ if numOf x kn.b ≥ 2 ^ 32 then [rangeViol 3] else [] },
    { guard := kn.guard, values := inHandler }, { guard := wi.guard }] : List Form), Commits fullSt f := by
  have h : (([{ guard := kn.guard, regs := (kx.view 0xC0).regs }, { guard := kn.guard, regs := (kn.view 0xC1).regs },
    { guard := kn.guard }, { guard := kn.guard, values := fun x => if 1 ≥ x.h then [rangeViol 10] else [] },
    { guard := kn.guard, regs := (kn.view 0xE9).regs, srcs := [srcWord 0 kn.a, srcWord 1 kn.b], values := fun x => inHandler x ++ handleViols fullSt kn x ++ if numOf x kn.b ≥ 2 ^ 32 then [rangeViol 3] else [] },
    { guard := kn.guard, values := inHandler }, { guard := wi.guard }] : List Form).all fun f => commitB fullSt f) = true := by decide +kernel
  exact fun f hf => commits (List.all_eq_true.mp h f hf)

/-- The same with the block as one of a gang of two. -/
def gangSt : State := { fullSt with blocks := fullSt.blocks.map fun b => { b with gangSize := 2 } }

theorem witness_Barriers : ∀ c ∈ [(fullSt, false), (gangSt, true)],
    Commits c.1 { guard := .always } ∧ ∀ g b, c.1.current = some (g, b) → (∀ x ∈ actives .always g b, x.handler = none)
      ∧ (c.2 = true → b.gangSize > 1) := by
  have h : ([(fullSt, false), (gangSt, true)].all fun c => commitB c.1 { guard := .always } && c.1.current.all fun gb =>
    ((actives .always gb.1 gb.2).all fun x => x.handler.isNone) && (!c.2 || decide (gb.2.gangSize > 1))) = true := by decide +kernel
  intro c hc
  have := List.all_eq_true.mp h c hc
  simp only [Bool.and_eq_true] at this
  refine ⟨commits this.1, fun g b hg => ?_⟩
  have h2 := this.2
  rw [hg] at h2
  simp only [Option.all_some, Bool.and_eq_true, List.all_eq_true, Option.isNone_iff_eq_none, Bool.or_eq_true, Bool.not_eq_true',
    decide_eq_true_eq] at h2
  exact ⟨h2.1, fun hc => h2.2.resolve_left (by rw [hc]; decide)⟩
/-- `launch p2, c8 at 0x1000, v1` (slot 0), and `fpop v32, c8 at 0x2000, p2` at device scope and beyond it. -/
def kl : Plain := ⟨.always, 2, 8, 1, 0, .raw, 0⟩
def kf : Plain := ⟨.always, 32, 8, 2, 0, .raw, 2⟩
def atRecord : State := State.threads fullSt fun x => x.setC 8 (capOf 1 0xFF 16 0 1 0x1000 true)

/-- At the feed header, in an object of two frames with its record in the second. -/
def atFeed : State :=
  let s := State.threads fullSt fun x => x.setC 8 (capOf 1 0xFF 16 0 2 0x2000 true)
  { s with mem := (((s.mem.store 0x20 8 (1 + 0xFF * 16 + 131071 * 2 ^ 16)).store 0x48 8 (1 + 2 * 2 ^ 16)).store 0x120C8 8 0x10000).store 0x20000 8 77 }

/-- The hypotheses of LaunchWord as a computation. -/
def launchB (w : Plain) (s : State) : Bool := match s.current with
  | some (g, b) => @decide _ (commitDec s g b w.guard) && match actives w.guard g b with
    | x :: rest => (rest.all fun y => decide (x.tid < y.tid))
      && (checkAll x [{ guard := w.guard, regs := (w.view 0xE8).regs, srcs := [srcWord 1 w.b], caps := [w.a], leader := true, values := fun x => if numOf x w.b ≥ 64 then [rangeViol 3] else [] }]).isNone
      && match s.access b (x.creg w.a) ((x.creg w.a).cursor : Nat) 256 16 opLoad with
        | (s', .ok ps) =>
          let e := s'.readRecord b x (x.creg w.a) ps
          let oks := (x, ({ kept := { nums := numOf x w.b :: e.dwords ++ e.tags.map bit } } : Eff)) :: each rest fun _ => {}
          (ps.all fun p => p.peer.isNone)
          && (s'.refusal { id := 0, ctx := b.ctx, slot := numOf x w.b, prio := 0, record := e.dwords, tags := e.tags }).isNone
          && (s'.badRing b.ctx (numOf x w.b)).isNone && e.dwords.length == 32
          && (oks.all fun o => !((s'.onCommit g b oks).pendingOf b.uid o.1.tid)) && ((s'.onCommit g b oks).block? b.uid).isSome
          -- and the ring takes the record
          && ((s'.onCommit g b oks).queueLaunch b.ctx (numOf x w.b) { dwords := e.dwords, tags := e.tags }).2
        | _ => false
    | [] => false
  | none => false

theorem witness_LaunchWord : ∃ (s s' : State) (g : Group) (b b2 : Block) (x : Thread) (pre rest : List Thread) (ps : List Piece),
    s.current = some (g, b) ∧ MayCommit s g b kl.guard ∧ actives kl.guard g b = pre ++ x :: rest ∧ (∀ y ∈ pre ++ rest, x.tid < y.tid)
    ∧ checkAll x [{ guard := kl.guard, regs := (kl.view 0xE8).regs, srcs := [srcWord 1 kl.b], caps := [kl.a], leader := true, values := fun x => if numOf x kl.b ≥ 64 then [rangeViol 3] else [] }] = none
    ∧ s.access b (x.creg kl.a) ((x.creg kl.a).cursor : Nat) 256 16 opLoad = (s', .ok ps) ∧ (∀ p ∈ ps, p.peer = none)
    ∧ let e := s'.readRecord b x (x.creg kl.a) ps
      let oks := each pre (fun _ => {}) ++ (x, ({ kept := { nums := numOf x kl.b :: e.dwords ++ e.tags.map bit } } : Eff)) :: each rest fun _ => {}
      s'.refusal { id := 0, ctx := b.ctx, slot := numOf x kl.b, prio := 0, record := e.dwords, tags := e.tags } = none
      ∧ s'.badRing b.ctx (numOf x kl.b) = none ∧ e.dwords.length = 32 ∧ Drained drainAll (s'.onCommit g b oks) b oks
      ∧ (s'.onCommit g b oks).block? b.uid = some b2 := by
  have h : launchB kl atRecord = true := by decide +kernel
  unfold launchB at h
  split at h
  · rename_i g b hc
    simp only [Bool.and_eq_true] at h
    obtain ⟨h1, h2⟩ := h
    split at h2
    · rename_i x rest ha
      simp only [Bool.and_eq_true, List.all_eq_true, decide_eq_true_eq, Option.isNone_iff_eq_none] at h2
      obtain ⟨⟨h2, h3⟩, h4⟩ := h2
      split at h4
      · rename_i s' ps hs
        simp only [Bool.and_eq_true, beq_iff_eq] at h4
        obtain ⟨⟨⟨⟨⟨⟨h4, h5⟩, h6⟩, h7⟩, h8⟩, h9⟩, -⟩ := h4
        obtain ⟨b2, h9⟩ := Option.isSome_iff_exists.mp h9
        exact ⟨atRecord, s', g, b, b2, x, [], rest, ps, hc, @of_decide_eq_true _ (commitDec ..) h1, ha, h2, h3, hs,
          fun p hp => Option.isNone_iff_eq_none.mp (List.all_eq_true.mp h4 p hp), Option.isNone_iff_eq_none.mp h5, Option.isNone_iff_eq_none.mp h6, h7,
          fun o ho => pendingIn_of _ (by have := List.all_eq_true.mp h8 o ho; simp only [Bool.not_eq_true'] at this; exact this), h9⟩
      · cases h4
    · cases h2
  · cases h

/-- The hypotheses of FeedPop as a computation. -/
def feedB (w : Plain) (s : State) : Bool := match s.current with
  | some (g, b) => @decide _ (commitDec s g b w.guard)
    && ((actives w.guard g b).all fun x => (checkAll x [{ guard := w.guard, regs := (w.view 0xEB).regs, caps := [w.a] }]).isNone)
    && match accessesPass (fun _ => opFeed) (fun x => (x.creg w.a, ((x.creg w.a).cursor : Nat), 256, 128)) b (actives w.guard g b) s with
      | some (s', qs) =>
        let oks := withPieces qs fun _ _ ps => { kept := { pieces := ps } }
        (oks.all fun o => !((s'.onCommit g b oks).pendingOf b.uid o.1.tid))
        && match (s'.onCommit g b oks).block? b.uid with
          | some b2 => match State.serveFeed w b2 (standing b2 oks) (s'.onCommit g b oks) with
            | (_, _, [], none) => true
            | _ => false
          | none => false
      | none => false
  | none => false

theorem witness_FeedPop : ∀ w ∈ [kf, { kf with opx := 3 }, { kf with opx := 4 }], ∃ (s s' t : State) (g : Group) (b b2 : Block) (qs : List (Thread × State × List Piece))
    (ks : List (Nat × Kept)), s.current = some (g, b) ∧ MayCommit s g b w.guard
    ∧ Passes [{ guard := w.guard, regs := (w.view 0xEB).regs, caps := [w.a] }] (actives w.guard g b)
    ∧ accessesPass (fun _ => opFeed) (fun x => (x.creg w.a, ((x.creg w.a).cursor : Nat), 256, 128)) b (actives w.guard g b) s = some (s', qs)
    ∧ let oks := withPieces qs fun _ _ ps => ({ kept := { pieces := ps } } : Eff)
      Drained drainAll (s'.onCommit g b oks) b oks ∧ (s'.onCommit g b oks).block? b.uid = some b2
      ∧ State.serveFeed w b2 (standing b2 oks) (s'.onCommit g b oks) = (t, ks, [], none) := by
  have hw : ([kf, { kf with opx := 3 }, { kf with opx := 4 }].all fun w => feedB w atFeed) = true := by decide +kernel
  intro w hm
  have h := List.all_eq_true.mp hw w hm
  unfold feedB at h
  split at h
  · rename_i g b hc
    simp only [Bool.and_eq_true, List.all_eq_true, Option.isNone_iff_eq_none] at h
    obtain ⟨⟨h1, h2⟩, h3⟩ := h
    split at h3
    · rename_i s' qs ha
      simp only [Bool.and_eq_true] at h3
      obtain ⟨h4, h5⟩ := h3
      split at h5
      · rename_i b2 hb
        split at h5
        · rename_i t ks hk
          exact ⟨atFeed, s', t, g, b, b2, qs, ks, hc, @of_decide_eq_true _ (commitDec ..) h1, h2, ha,
            fun o ho => pendingIn_of _ (by have := List.all_eq_true.mp h4 o ho; simp only [Bool.not_eq_true'] at this; exact this), hb, hk⟩
        · cases h5
      · cases h5
    · cases h3
  · cases h

/-- The group that issues in a small state, and its block. -/
def gb (s : State) : Group × Block := s.current.getD ({ gid := 0, blk := 0, core := 0, part := 0, space := .kernel, pc := 0, tids := [] },
  { uid := 0, launch := 0, ctx := 0, blk := 0 })

theorem current_gb {s : State} (h : s.current.isSome = true) : s.current = some ((gb s).1, (gb s).2) := by
  obtain ⟨x, hx⟩ := Option.isSome_iff_exists.mp h
  simp [gb, hx]

theorem witness_GuardedOffCommits : ∃ g b, fullSt.current = some (g, b) ∧ (∀ x ∈ g.issuers b, x.mid = false)
    ∧ actives (.ifTrue 5) g b = [] ∧ (wl.cap % 2 = 0 ∧ ws.cap % 2 = 0) :=
  ⟨(gb fullSt).1, (gb fullSt).2, current_gb (by decide +kernel), by decide +kernel, by decide +kernel, by decide⟩

/-- A thread that issues at its %trappc with PASS set, a context with a debug unit, and a thread with p30 true. -/
def passSt : State := State.threads fullSt fun x => { x with pass := true }
def debugSt : State := { fullSt with dbg := { fullSt.dbg with dbgctl := 1 + 2 ^ 16 } }
def trueSt : State := State.threads fullSt (marked [30])

theorem witness_TrapAndBreak :
    (Ready fullSt [{ guard := .always }] false 1 ∧ ∃ g b, fullSt.current = some (g, b) ∧ fullSt.attached b.ctx = false
      ∧ ∀ x ∈ actives .always g b, x.passes = false)
    ∧ (Ready passSt [{ guard := .always }] false 1 ∧ ∃ g b, passSt.current = some (g, b) ∧ ∀ x ∈ actives .always g b, x.passes = true)
    ∧ (Ready passSt [{ guard := .always }] false 1 ∧ ∃ g b, passSt.current = some (g, b) ∧ passSt.attached b.ctx = false
      ∧ ∀ x ∈ actives .always g b, x.passes = true)
    ∧ (Ready debugSt [{ guard := .always }] false 1 ∧ ∃ g b, debugSt.current = some (g, b) ∧ debugSt.attached b.ctx = true
      ∧ actives .always g b ≠ []) :=
  ⟨⟨readyB_ready (by decide +kernel), (gb fullSt).1, (gb fullSt).2, current_gb (by decide +kernel), by decide +kernel, by decide +kernel⟩,
   ⟨readyB_ready (by decide +kernel), (gb passSt).1, (gb passSt).2, current_gb (by decide +kernel), by decide +kernel⟩,
   ⟨readyB_ready (by decide +kernel), (gb passSt).1, (gb passSt).2, current_gb (by decide +kernel), by decide +kernel, by decide +kernel⟩,
   ⟨readyB_ready (by decide +kernel), (gb debugSt).1, (gb debugSt).2, current_gb (by decide +kernel), by decide +kernel, by decide +kernel⟩⟩

theorem witness_Assertions :
    (Ready trueSt [{ guard := .always }] false 1 ∧ ∃ g b, trueSt.current = some (g, b) ∧ ∀ x ∈ actives .always g b, x.pred 30 = true)
    ∧ ∃ g b y, fullSt.current = some (g, b) ∧ Unhindered fullSt b [{ guard := .always }] false 1 (actives .always g b)
      ∧ y ∈ actives .always g b ∧ y.pred 30 = false ∧ ∀ z ∈ actives .always g b, z.pred 30 = false → y.tid ≤ z.tid := by
  refine ⟨⟨readyB_ready (by decide +kernel), (gb trueSt).1, (gb trueSt).2, current_gb (by decide +kernel), by decide +kernel⟩,
    (gb fullSt).1, (gb fullSt).2, (actives .always (gb fullSt).1 (gb fullSt).2).headD { tid := 0 }, current_gb (by decide +kernel), ?_,
    by decide +kernel, by decide +kernel, by decide +kernel⟩
  obtain ⟨g, b, hc, hu, -⟩ := readyB_ready (s := fullSt) (fs := [{ guard := .always }]) (mem := false) (kind := 1) (by decide +kernel)
  rw [current_gb (by decide +kernel)] at hc
  cases hc
  exact hu

/-- A thread in a handler with its frame at slot 0x4000, in a context of traps by thread. -/
def handlerSt : State := State.threads fullSt fun x => { x with handler := some 0x4000, space := .handler }

theorem witness_ReturnFromTrap : ∃ (t : State) (g : Group) (b : Block), handlerSt.current = some (g, b)
    ∧ (∀ x ∈ actives .always g b, x.mid = false ∧ x.handler ≠ none ∧ handlerSt.outstanding b.uid x.tid = false ∧ handlerSt.pendingOf b.uid x.tid = false)
    ∧ actives .always g b ≠ [] ∧ (g.runner ≠ none → ∀ u ∈ g.tids, handlerSt.pendingOf b.uid u = false)
    ∧ handlerSt.glitchOf b (actives .always g b) 1 = none
    ∧ let tids := (actives .always g b).map Thread.tid
      State.returnAll (((handlerSt.dropAsks handlerSt.sched.cur).stepPcs b ((g.issuers b).filter fun x => !(tids.contains x.tid)) []).retire
        b tids) g.gid b.uid tids = some t := by
  obtain ⟨t, ht⟩ := Option.isSome_iff_exists.mp (show (let g := (gb handlerSt).1
    let b := (gb handlerSt).2
    let tids := (actives .always g b).map Thread.tid
    State.returnAll (((handlerSt.dropAsks handlerSt.sched.cur).stepPcs b ((g.issuers b).filter fun x => !(tids.contains x.tid)) []).retire
      b tids) g.gid b.uid tids).isSome = true by decide +kernel)
  exact ⟨t, _, _, current_gb (by decide +kernel), by decide +kernel, by decide +kernel, by decide +kernel, by decide +kernel, ht⟩

/-- The runner of a frozen group of one. -/
def frozenSt : State := { handlerSt with groups := handlerSt.groups.map fun g => { g with st := .frozen, runner := some 0, tmask := 1, gmask := 1 } }

theorem witness_RegionsAndReform :
    (∃ g b r, fullSt.current = some (g, b) ∧ (∀ x ∈ g.issuers b, x.mid = false ∧ x.handler = none ∧ fullSt.outstanding b.uid x.tid = false)
      ∧ g.issuers b ≠ [] ∧ fullSt.glitchOf b (g.issuers b) 1 = none ∧ descsPass 1 b (g.issuers b) fullSt = some r)
    ∧ ∀ s ∈ [fullSt, frozenSt], ∃ g b b2, s.current = some (g, b) ∧ s.glitchOf b (g.issuers b) 1 = none ∧
      ((s.stepPcs b (g.issuers b) ((g.issuers b).map fun x => (x, {}))).dropGroup g.gid).block? b.uid = some b2 := by
  constructor
  · obtain ⟨r, hr⟩ := Option.isSome_iff_exists.mp (show (descsPass 1 (gb fullSt).2 ((gb fullSt).1.issuers (gb fullSt).2) fullSt).isSome = true by decide +kernel)
    exact ⟨_, _, r, current_gb (by decide +kernel), by decide +kernel, by decide +kernel, by decide +kernel, hr⟩
  · have h : ([fullSt, frozenSt].all fun s => s.current.isSome && (s.glitchOf (gb s).2 ((gb s).1.issuers (gb s).2) 1).isNone && ((s.stepPcs (gb s).2 ((gb s).1.issuers (gb s).2)
      (((gb s).1.issuers (gb s).2).map fun x => (x, {}))).dropGroup (gb s).1.gid |>.block? (gb s).2.uid).isSome) = true := by decide +kernel
    intro s hs
    have := List.all_eq_true.mp h s hs
    simp only [Bool.and_eq_true, Option.isNone_iff_eq_none] at this
    obtain ⟨b2, hb⟩ := Option.isSome_iff_exists.mp this.2
    exact ⟨_, _, b2, current_gb this.1.1, this.1.2, hb⟩

theorem witness_OtherLanes : ∀ n ∈ List.range 4,
    Roomy frozenSt { guard := kn.guard, regs := (({ kn with opx := n }).view 0xEE).regs, srcs := [srcWord 1 kn.b], values := reachViols frozenSt { kn with opx := n } } false
      (fun s _ x => match s.frozenOn (x.vreg kn.b).val.toNat with
        | some y => getOther { kn with opx := n } y
        | none => {})
    ∧ Roomy frozenSt { guard := kn.guard, regs := (({ kn with opx := n }).view 0xEF).regs, srcs := [srcWord 1 kn.b], values := reachViols frozenSt { kn with opx := n }, moved := if n = 1 ∨ n = 3 then [srcWord 2 kn.c] else [] } false
      (fun s _ x => match s.frozenOn (x.vreg kn.b).val.toNat with
        | some y => { acts := [putOther { kn with opx := n } x y 0] }
        | none => {})
    ∧ ∃ g b, frozenSt.current = some (g, b) ∧ (actives kn.guard g b).all (fun x => (frozenSt.frozenOn (x.vreg kn.b).val.toNat).all fun y =>
      !(frozenSt.dueOther b.uid { kn with opx := n } x y kn.d) && !(frozenSt.dueOther b.uid { kn with opx := n } x y kn.c)) = true := by
  intro n hn
  refine ⟨roomy ?_, roomy ?_, (gb frozenSt).1, (gb frozenSt).2, current_gb (by decide +kernel), ?_⟩ <;> revert n <;> decide +kernel

/-! ### Witnesses: what the device does between words -/

/-- A state with the arguments of its event. -/
def State.given (s : State) (a : EventArgs) : State := { s with sched := { s.sched with args := a } }

/-- Its block changed, as its threads are. -/
def State.block1 (s : State) (f : Block → Block) : State := { s with blocks := s.blocks.map f }

theorem some_of {α : Type} {o : Option α} (h : o.isSome = true) : ∃ x, o = some x := Option.isSome_iff_exists.mp h

/-- Eight bytes of object 1 at its start, loaded by thread 0, and stored. -/
def spot8 : Piece := { addr := 0x10000, len := 8, cached := true, ctx := 1, obj := 1 }
def load8 : Req := { id := 1, core := 0, blk := 1, tid := 0, gid := 1, inst := 0, issue := 1, kind := .load 5 .u64 8 false, scope := .device, pieces := [spot8] }
def atom8 : Req := { load8 with kind := .atom 5 0 .u64 8 1 0 }
def item8 (e : Effect) : Item := { id := 1, core := 0, blk := 1, tid := 0, gid := 1, inst := 0, issue := 1, committed := some 0, eff := e }
def fence0 : Cmd := { id := 1, kind := .qfence, blk := 1, ctx := 1, queue := 1 }

theorem witness_RequestsAndEntries :
    (let s := State.given { fullSt with reqs := [load8] } { id := 1 };
      (s.reqs.find? fun r => r.id == s.sched.args.id) = some load8 ∧ load8.isAtom = false ∧ s.pieceReady load8 s.sched.args.sub = true)
    ∧ (let s := State.given { fullSt with reqs := [atom8] } { id := 1 };
      (s.reqs.find? fun r => r.id == s.sched.args.id) = some atom8 ∧ atom8.isAtom = true ∧ s.atomReady atom8 = true
        ∧ (∀ q ∈ s.sameWord atom8, s.reqKey q = none) ∧ s.reqKey atom8 = none)
    ∧ (∀ alt ∈ [true, false], let s := State.given { fullSt with items := [item8 (.store [spot8] 7)] } { sub := 1, alt := alt };
      (if s.sched.args.alt then s.outOfTurn s.sched.args.id s.sched.args.sub else s.nextItem s.sched.args.id) = some (item8 (.store [spot8] 7))
        ∧ ∀ j ∈ s.itemsWith (item8 (.store [spot8] 7)), s.itemKey j = none)
    ∧ (let s := { fullSt with items := [item8 (.command fence0)] }
      s.nextCommand s.sched.args.id = some (item8 (.command fence0)) ∧ (item8 (.command fence0)).eff = .command fence0) := by
  decide +kernel

/-- Asleep on a watch. -/
def sleeper (w : Watch) (x : Thread) : Thread := { x with st := .asleep, watch := some w }

def bin0 : Bin := { core := 0, part := 0, idx := 0, blk := 1, space := .kernel, pc := 0, tids := [0], first := 0 }
def pend0 : PendTrap := { cause := 6, pc := 0, aux := 0, tmask := 0, gmask := 0, pinned := false }
def fault0 : FaultRec := { seq := 1, ctx := 1, obj := 1, unit := 0, off := 0, src := 0, write := false, host := false, unitNo := 0, written := false }

/-- The context's save object 1 has one free slot, at 0x4000; context descriptors stand at 0x50000, its fault ring at 0x60000. -/
def slotted : State :=
  { fullSt with
    ctxs := fullSt.ctxs.map fun c => { c with slotsz := 1, frbase := 0x60000 }
    mem := (fullSt.mem.store 0x10000 8 1).store 0x10080 8 0x4000
    link := { fullSt.link with ctxtb := 0x50000 } }

/-- Thread 0 with a trap that waits for a slot. -/
def trapped : State := State.given (State.threads slotted fun x => { x with st := .trapWait, pend := some pend0 }) { id := 1, tid := 0 }

theorem all_of {α : Type} {o : Option α} {p : α → Bool} (h : o.all p = true) {y : α} (hy : o = some y) : p y = true := by
  rw [hy] at h; exact h

theorem witness_SleepersBinsAndRecords :
    (let s := State.given (State.threads fullSt (sleeper ⟨none, 0, true, true⟩)) { id := 1, tid := 0 }
      ∃ x, s.thread? s.sched.args.id s.sched.args.tid = some x ∧ x.st = .asleep ∧ x.watch.any Watch.triggered = true)
    ∧ (let s := State.given (State.threads fullSt (sleeper ⟨none, 0, true, false⟩)) { id := 1, tid := 0, alt := true }
      ∃ x, s.thread? s.sched.args.id s.sched.args.tid = some x ∧ x.st = .asleep ∧ s.sched.args.alt = true
        ∧ x.watch.any Watch.hasEntry = true)
    ∧ (∀ e ∈ [true, false], let s := State.threads { fullSt with sched := { fullSt.sched with now := 2 ^ 20, args := { id := 1, tid := 0 } } } (sleeper ⟨none, 0, e, false⟩)
      ∃ x, s.thread? s.sched.args.id s.sched.args.tid = some x ∧ x.st = .asleep
        ∧ s.sched.now ≥ x.sleptAt + (if x.watch.any Watch.hasEntry then 2 ^ 20 else 1024))
    ∧ (let s := { fullSt with bins := [bin0], sched := { fullSt.sched with now := 100 } };
      (s.bins.find? fun b => b.core == s.sched.args.id && b.part == s.sched.args.tid && b.idx == s.sched.args.sub) = some bin0
      ∧ s.sched.now ≥ bin0.first + s.binAge bin0.blk ∧ s.heldBin bin0 = false)
    ∧ (let s := trapped
      ∃ x, s.thread? s.sched.args.id s.sched.args.tid = some x ∧ x.st = .trapWait ∧ x.pend = some pend0
        ∧ ∀ y, (s.enterHandler s.sched.args.id s.sched.args.tid pend0).thread? s.sched.args.id s.sched.args.tid = some y → y.st ≠ .trapWait)
    ∧ (let s := State.given { slotted with faults := [fault0] } { id := 1 }
      ∃ c, s.ctx? s.sched.args.id = some c ∧ (s.faults.find? fun r => r.ctx == s.sched.args.id && !r.written) = some fault0
        ∧ s.hbmHas (s.link.ctxtb + 256 * s.sched.args.id) 256 = true
        ∧ (s.mem.read (s.link.ctxtb + 256 * s.sched.args.id + 64) 8 + 2 ^ 64 - s.mem.read (s.link.ctxtb + 256 * s.sched.args.id + 72) 8) % 2 ^ 64 < 2 ^ (c.frlog2 + 4)
        ∧ s.hbmHas (c.frbase + 32 * (s.mem.read (s.link.ctxtb + 256 * s.sched.args.id + 64) 8 % 2 ^ (c.frlog2 + 4))) 32 = true) := by
  refine ⟨⟨lane (State.threads fullSt (sleeper ⟨none, 0, true, true⟩)) 0, by decide +kernel⟩,
    ⟨lane (State.threads fullSt (sleeper ⟨none, 0, true, false⟩)) 0, by decide +kernel⟩, fun e he => ⟨lane (State.threads fullSt (sleeper ⟨none, 0, e, false⟩)) 0, ?_⟩, by decide +kernel,
    ⟨lane trapped 0, by decide +kernel, by decide +kernel, by decide +kernel, fun y hy => ?_⟩,
    ⟨slotted.ctxs.headD { n := 0 }, by decide +kernel⟩⟩
  · revert e; decide +kernel
  · have h : ((trapped.enterHandler trapped.sched.args.id trapped.sched.args.tid pend0).thread? trapped.sched.args.id trapped.sched.args.tid).all
      (fun y => y.st != .trapWait) = true := by decide +kernel
    simpa using all_of h hy

/-- The block of a small state. -/
def block1 (s : State) : Block := s.blocks.headD { uid := 0, launch := 0, ctx := 0, blk := 0 }

/-- The outcomes of a walk and of a notify word as Bools. -/
def isReady : Prepared → Bool
  | .ready _ => true
  | _ => false
def isPlaced : Target → Bool
  | .ok _ => true
  | _ => false

def readyOf : Prepared → List Machine.Ready
  | .ready rs => rs
  | _ => []
def placesOf : Target → List Piece
  | .ok ps => ps
  | _ => []

theorem ready_of {f : State × Prepared} (h : isReady f.2 = true) : f = (f.1, .ready (readyOf f.2)) := by
  obtain ⟨t, r⟩ := f
  cases r <;> first | rfl | cases h

theorem placed_of {f : State × Target} (h : isPlaced f.2 = true) : f = (f.1, .ok (placesOf f.2)) := by
  obtain ⟨t, r⟩ := f
  cases r <;> first | rfl | cases h

/-- A copy of 16 bytes of object 1 into scratch, whose notify word lies behind it; one of nothing; and a `rack` with no pair. -/
def copy16 : Cmd := { id := 1, kind := .cpy, blk := 1, ctx := 1, queue := 1, src := .object (slateCap 0xFF) 0, dst := .spad 1 0, len := 16, notify := some (.spad 1 64) }
def copy0 : Cmd := { copy16 with len := 0 }
def rack0 : Cmd := { copy0 with kind := .rack, invalid := true }

/-- The head of the queues of quad 0 that is served next. -/
def nextHead (s : State) : Option (Nat × Cmd) :=
  ((List.range 16).map fun i => (lookupD 15 s.sched.args.id s.engines.rr + 1 + i) % 16).findSome? fun k =>
    (s.headOf s.sched.args.id k).map fun c => (k, c)

/-- A command alone in its queues. -/
def queued (s : State) (c : Cmd) : State := State.given { s with engines := { s.engines with cmds := [c] } } {}

/-- After the pointer of the engine moved to a command. -/
def turned (s : State) (k id : Nat) : State := { s with engines := { s.engines with rr := setAt s.sched.args.id k s.engines.rr } }.about id

/-- Object 3 of the context is object 7 of peer 3, which has granted what command 1 asked of it about n bytes at its start. -/
def farCap : CapReg := capOf 3 0xFF 16 0 1 0 true
def farSt (op : AccOp) (n : Nat) : State :=
  let d0 := 1 + 3 * 2 + 0xFF * 16 + 65535 * 2 ^ 16
  let d2 := 7 + 3 * 2 ^ 32
  { fullSt with
    mem := ((fullSt.mem.store 0x60 8 d0).store 0x70 8 d2).store 0x78 8 1
    ctxs := fullSt.ctxs.map fun c => { c with otn := 4 }
    routes := [(3, 0xFFF)]
    caches := { fullSt.caches with asks := [{ id := 9, peer := some 3, ctx := 1, obj := 3, off := 0, len := n, write := true, op := op.code, entry := [d0, 0, d2, 1],
                                              askers := [2 ^ 64 + 1], state := 1, agent := true }] } }
def copyFar : Cmd := { copy16 with dst := .object farCap 0, notify := none }
def tellFar : Cmd := { copy16 with notify := some (.object farCap 0), credited := true }

/-- What a unit of a copy has read, and what landing it leaves. -/
def unitOf (s : State) (c : Cmd) : State × Prepared :=
  prepare (dieOf c.core) c (block1 s) (c.rowOf ((turned s 0 c.id).unitList c (block1 s))) ((turned s 0 c.id).unitList c (block1 s)) (turned s 0 c.id)
def landed (s : State) (c : Cmd) : State :=
  (unitOf s c).1.tick.landAll ((unitOf s c).1.copied (block1 s) c (readyOf (unitOf s c).2))

/-- Commands that complete, one of them with its notify word at a peer. -/
def noticed : List (State × Cmd) := [(fullSt, { copy16 with credited := true }),
  (fullSt, { copy16 with kind := .cpym, credited := true, posted := true, failed := true }), (fullSt, fence0), (farSt opStore 4, tellFar)]

theorem witness_CopyUnits :
    (∀ f ∈ [(fullSt, copy16), (farSt opCopyDst 16, copyFar)], let s := queued f.1 f.2
      let c := f.2
      ∃ t rs, nextHead s = some (0, c) ∧ (turned s 0 c.id).cmdBlock c = some (block1 s) ∧ c.kind ≠ .rack ∧ c.units ≠ 0
        ∧ prepare (dieOf c.core) c (block1 s) (c.rowOf ((turned s 0 c.id).unitList c (block1 s))) ((turned s 0 c.id).unitList c (block1 s)) (turned s 0 c.id) = (t, .ready rs)
        ∧ min 128 (c.nominal - 128 * c.unit) ≠ 0
        ∧ ((t.tick.landAll (t.copied (block1 s) c rs)).sentSince t = [] ↔ c = copy16))
    ∧ (let s := queued fullSt copy0
      ∃ b, nextHead s = some (0, copy0) ∧ (turned s 0 1).cmdBlock copy0 = some b ∧ copy0.kind ≠ .rack ∧ copy0.units = 0)
    ∧ (let s := queued fullSt rack0
      ∃ b, nextHead s = some (0, rack0) ∧ (turned s 0 1).cmdBlock rack0 = some b ∧ rack0.kind = .rack ∧ rack0.unit ≥ rack0.units)
    ∧ (let c := { fence0 with blk := 7 }
      let s := State.given (queued fullSt c) { id := 1 }
      s.cmd? s.sched.args.id = some c ∧ s.mayStart c = true ∧ c.waits = [] ∧ c.acks = [] ∧ c.kind ≠ .ppass
        ∧ (c.kind = .qfence ∨ c.credited = true ∧ (c.kind = .cpym → c.posted = true)) ∧ s.cmdBlock c = none)
    ∧ (∀ f ∈ noticed, let c := f.2
      let s := State.given (queued f.1 c) { id := 1 }
      ∃ b t ps, s.cmd? s.sched.args.id = some c ∧ s.mayStart c = true ∧ c.waits = [] ∧ c.acks = [] ∧ c.kind ≠ .ppass
        ∧ (c.kind = .qfence ∨ c.credited = true ∧ (c.kind = .cpym → c.posted = true)) ∧ s.cmdBlock c = some b
        ∧ s.notifyCmd c b = (t, .ok ps)
        ∧ ((t.writePieces none ps (natToBytes 4 (if c.failed then c.value ||| 0x80000000 else c.value))).sentSince t = [] ↔ c ≠ tellFar)) := by
  have h : (noticed.all fun f => let c := f.2
      let s := State.given (queued f.1 c) { id := 1 }
      (s.cmd? s.sched.args.id == some c && s.mayStart c && c.waits.isEmpty && c.acks.isEmpty && decide (c.kind ≠ .ppass)
        && decide (c.kind = .qfence ∨ c.credited = true ∧ (c.kind = .cpym → c.posted = true)) && (s.cmdBlock c == some (block1 s))
        && isPlaced (s.notifyCmd c (block1 s)).2
        && decide (((s.notifyCmd c (block1 s)).1.writePieces none (placesOf (s.notifyCmd c (block1 s)).2)
            (natToBytes 4 (if c.failed then c.value ||| 0x80000000 else c.value))).sentSince (s.notifyCmd c (block1 s)).1 = [] ↔ c ≠ tellFar))) = true := by decide +kernel
  refine ⟨fun f hf => ?_, ⟨fullSt.blocks.headD { uid := 0, launch := 0, ctx := 0, blk := 0 }, by decide +kernel⟩,
    ⟨fullSt.blocks.headD { uid := 0, launch := 0, ctx := 0, blk := 0 }, by decide +kernel⟩, by decide +kernel, fun f hc => ?_⟩
  · have h : ([(fullSt, copy16), (farSt opCopyDst 16, copyFar)].all fun f => let s := queued f.1 f.2
      let c := f.2
      nextHead s == some (0, c) && ((turned s 0 c.id).cmdBlock c == some (block1 s)) && decide (c.kind ≠ .rack) && decide (c.units ≠ 0)
        && isReady (unitOf s c).2 && decide (min 128 (c.nominal - 128 * c.unit) ≠ 0)
        && decide ((landed s c).sentSince (unitOf s c).1 = [] ↔ c = copy16)) = true := by decide +kernel
    have h := List.all_eq_true.mp h f hf
    simp only [Bool.and_eq_true, beq_iff_eq, decide_eq_true_eq] at h
    obtain ⟨⟨⟨⟨⟨⟨h1, h2⟩, h3⟩, h4⟩, h5⟩, h6⟩, h7⟩ := h
    exact ⟨_, _, h1, h2, h3, h4, ready_of h5, h6, h7⟩
  · have h := List.all_eq_true.mp h f hc
    simp only [Bool.and_eq_true, beq_iff_eq, decide_eq_true_eq, List.isEmpty_iff] at h
    obtain ⟨⟨⟨⟨⟨⟨⟨⟨h1, h2⟩, h3⟩, h4⟩, h5⟩, h6⟩, h7⟩, h8⟩, h9⟩ := h
    exact ⟨_, _, _, h1, h2, h3, h4, h5, h6, h7, placed_of h8, h9⟩

/-- A pass at scratch 0, a copy that posts one, a reservation of block 1 and a pass in its list. -/
def pass0 : Cmd := { id := 1, kind := .ppass, blk := 1, ctx := 1, queue := 16 }
def copym : Cmd := { copy16 with kind := .cpym, credited := true }
def entry0 : Pass := { id := 1, blk := 1, tid := 0, core := 0, addr := 0 }
def resv0 : Resv := { quad := 0, idx := 0, owner := 1, prio := 0 }

/-- A state with reservations and granted passes. -/
def pressed (s : State) (rs : List Resv) (gs : List Pass) : State :=
  State.given { s with engines := { s.engines with resv := rs, granted := gs } } {}

theorem witness_PressPasses :
    (let s := queued (pressed fullSt [resv0] []) pass0
      ∃ t, (s.engines.cmds.find? fun c => c.core == s.sched.args.id && c.kind == .ppass && !c.posted) = some pass0
        ∧ s.mayStart pass0 = true ∧ s.postPass pass0 = some t)
    ∧ (∀ r ∈ [[resv0], []], let s := State.given (queued (pressed fullSt r []) copym) { id := 1 }
      ∃ t, s.cmd? s.sched.args.id = some copym ∧ copym.kind = .cpym ∧ copym.credited = true ∧ copym.posted = false
        ∧ s.postPass copym = some t)
    ∧ (let r := { resv0 with passes := [entry0] }
      let s := pressed fullSt [r] []
      bitAt s.rel.fencedPress s.sched.args.id = false ∧ s.granting s.sched.args.id = some r ∧ r.passes = entry0 :: [])
    ∧ (let s := pressed fullSt [resv0] [fullSt.readPass entry0]
      ∃ b, (s.engines.granted.find? fun p => quadOf p.core == s.sched.args.id) = some (fullSt.readPass entry0)
        ∧ s.diePowered (dieOf (4 * s.sched.args.id)) = true ∧ s.block? (fullSt.readPass entry0).blk = some b ∧ s.sched.args.alt = false)
    ∧ (let s := pressed fullSt [] [{ entry0 with blk := 7 }]
      (s.engines.granted.find? fun p => quadOf p.core == s.sched.args.id) = some { entry0 with blk := 7 }
        ∧ s.diePowered (dieOf (4 * s.sched.args.id)) = true ∧ s.block? 7 = none)
    ∧ (let r := { resv0 with marked := some 1 }
      let s := pressed fullSt [r] []
      (s.engines.resv.find? fun r => r.quad == s.sched.args.id && r.idx == s.sched.args.tid) = some r ∧ r.marked = some 1 ∧ r.passes = []
        ∧ s.posting r.owner 1 = false ∧ s.engines.granted = []) := by
  refine ⟨?_, fun r hr => ?_, by decide +kernel, ⟨fullSt.blocks.headD { uid := 0, launch := 0, ctx := 0, blk := 0 }, by decide +kernel⟩,
    by decide +kernel, by decide +kernel⟩
  · obtain ⟨t, h⟩ := some_of (o := (queued (pressed fullSt [resv0] []) pass0).postPass pass0) (by decide +kernel)
    exact ⟨t, by decide +kernel, by decide +kernel, h⟩
  · have h : ([[resv0], []].all fun r => let s := State.given (queued (pressed fullSt r []) copym) { id := 1 }
      s.cmd? s.sched.args.id == some copym && (s.postPass copym).isSome) = true := by decide +kernel
    have h := List.all_eq_true.mp h r hr
    simp only [Bool.and_eq_true, beq_iff_eq] at h
    obtain ⟨t, h2⟩ := some_of h.2
    exact ⟨t, h.1, by decide, by decide, by decide, h2⟩

/-! ### Witnesses: launches, saves, the cellar -/

/-- Slot 0 of `fullSt` with a record at the head of its ring, and with one that no launch may have. -/
def ringSt : State :=
  { fullSt with
    mem := fullSt.mem.write 0x40000 (slateRecord.flatMap fun d => natToBytes 8 d)
    queues := { fullSt.queues with slots := fullSt.queues.slots.map fun q => { q with tail := 1 } } }
def zeroRing : State := { ringSt with mem := fullSt.mem }

/-- The launch that the unit reads from slot 0. -/
def headLaunch (s : State) : Launch :=
  let q := s.queues.slots.getD 0 {}
  let e := s.readRing (q.ring + 256 * (q.head % 2 ^ q.log2n))
  { id := s.sched.nextId, ctx := q.ctx, slot := 0, prio := q.prio, record := e.dwords, tags := e.tags }

/-- The launch and the context of the block of a small state. -/
def ctx1 (s : State) : Ctx := s.ctxs.headD { n := 0 }
def launch1 (s : State) : Launch := s.launches.headD { id := 0, ctx := 0, slot := 0, prio := 0, record := [], tags := [] }

/-- A state of core 0 alone, whose block 1 is a candidate since clock 0; one whose core another block has filled; and one whose quad
is gated. -/
def pendSt : State :=
  { fullSt with
    presence := { fullSt.presence with cores := 1 }
    sched := { fullSt.sched with now := 2 ^ 20, args := { id := 1 } }
    blocks := fullSt.blocks.map fun b => { b with st := .pending, threads := [], arrived := true } }
def crowdSt : State := { pendSt with blocks := pendSt.blocks ++ pendSt.blocks.map fun b => { b with uid := 9, st := .clearing, quota := 2048 } }
def darkSt : State := { pendSt with power := { pendSt.power with qgate := 1 } }

/-- A block about to start, at its entry or from its record, and what the start leaves before its threads run. -/
def clearSt (slots : List Nat) : State :=
  { slotted with sched := { slotted.sched with args := { id := 1 } }, blocks := slotted.blocks.map fun b => { b with st := .clearing, slots := slots } }
def clearedTo (_s t : State) (b : Block) (l : Launch) (c : Ctx) (bs : List Byte) : State :=
  let ready (k : Block) : Block := { k.updThreads (fun x => { x with halted := k.halt.isSome && x.st != .exited }) with
    halt := k.halt.map fun h => (h.1, false), bphase := 0, gphase := 0, slots := [] }
  let u := (b.slots.foldl (fun (s : State) slot => s.pushSlot c slot) (t.tick.updBlock b.uid fun k =>
    ready (if b.slots.isEmpty then k else k.restored bs l.slots t.sched.fresh))).carry b
  if b.slots.isEmpty then u else u.dropL1 b.core [1, 2] (some b.ctx)

theorem witness_LaunchingAndPlacement :
    (∀ s ∈ [ringSt, zeroRing], let q := s.queues.slots.getD s.sched.args.id {}
      q.bound = true ∧ q.launch = none ∧ q.head ≠ q.tail ∧ s.hbmHas (q.ring + 256 * (q.head % 2 ^ q.log2n)) 256 = true)
    ∧ ringSt.refusal (headLaunch ringSt) = none ∧ (zeroRing.refusal (headLaunch zeroRing)).isSome = true
    ∧ (let s := State.given { fullSt with launches := fullSt.launches.map fun l => { l with st := .waiting } } { id := 1 }
      s.launch? s.sched.args.id = some (launch1 s) ∧ (launch1 s).st = .waiting ∧ ∀ c ∈ (launch1 s).deps, s.met c = true)
    ∧ (∃ places, pendSt.nextPlaced = some (block1 pendSt, places) ∧ pendSt.launchOf (block1 pendSt) = some (launch1 pendSt))
    ∧ (let s := crowdSt
      let b := block1 s
      s.block? s.sched.args.id = some b ∧ ∃ c, s.ctx? b.ctx = some c ∧ s.candidate b = true ∧ s.sched.now - b.pendSince > 2 ^ c.placewait
        ∧ s.placeFor b = none ∧ b.holds = none ∧ s.leaving b = false ∧ ((s.couldHold b).isEmpty = true ∨ (s.couldHold b).all s.gatedQuad = false)
        ∧ (let free (n : Nat) : List Nat := (coresAt (decide (b.gangSize > 1)) n).filter fun k => s.usable b k
          let places := (List.range (if b.gangSize > 1 then 256 else 1024)).filter fun n => (s.gangOf b).length ≤ (free n).length
          (places.findSome? fun n => (s.moving b (coresAt (decide (b.gangSize > 1)) n)).map fun r => (n, r)) = none
          ∧ leastBy (fun n => 2 ^ 40 - (free n).foldl (fun m k => m + s.freeRatio b.ctx k) 0)
            (places.filter fun n => (coresAt (decide (b.gangSize > 1)) n).all fun k => !(s.heldFrom b k)) = some 0))
    ∧ (let s := darkSt
      let b := block1 s
      s.block? s.sched.args.id = some b ∧ ∃ c, s.ctx? b.ctx = some c ∧ s.candidate b = true ∧ s.sched.now - b.pendSince > 2 ^ c.placewait
        ∧ s.placeFor b = none ∧ b.holds = none ∧ s.leaving b = false ∧ (s.couldHold b).isEmpty = false ∧ (s.couldHold b).all s.gatedQuad = true ∧ b.overdue = false)
    ∧ (∀ slots ∈ [[], [0x4000]], let s := clearSt slots
      let b := block1 s
      ∃ c t bs, s.block? s.sched.args.id = some b ∧ s.launchOf b = some (launch1 s) ∧ s.ctx? b.ctx = some c ∧ b.st = .clearing ∧ b.landed = true
        ∧ b.save = none ∧ b.slots = slots ∧ s.retake b = some t ∧ t.readSlots c c.room b.slots = some bs
        ∧ (clearedTo s t b (launch1 s) c bs).saveAtStart b = none) := by
  have h : ([[], [0x4000]].all fun slots => let s := clearSt slots
      let b := block1 s
      (s.block? s.sched.args.id == some b) && (s.launchOf b == some (launch1 s)) && (s.ctx? b.ctx == some (ctx1 s)) && decide (b.st = .clearing)
        && b.landed && (b.save == none) && decide (b.slots = slots) && (s.retake b).any fun t =>
          (t.readSlots (ctx1 s) (ctx1 s).room b.slots).any fun bs => ((clearedTo s t b (launch1 s) (ctx1 s) bs).saveAtStart b).isNone) = true := by decide +kernel
  refine ⟨by decide +kernel, by decide +kernel, by decide +kernel, by decide +kernel, ⟨[(1, 0, 0)], by decide +kernel⟩,
    ⟨by decide +kernel, crowdSt.ctxs.headD { n := 0 }, by decide +kernel⟩, ⟨by decide +kernel, darkSt.ctxs.headD { n := 0 }, by decide +kernel⟩,
    fun slots hs => ?_⟩
  have h := List.all_eq_true.mp h slots hs
  simp only [Bool.and_eq_true, beq_iff_eq, decide_eq_true_eq, Option.any_eq_true, Option.isNone_iff_eq_none] at h
  obtain ⟨⟨⟨⟨⟨⟨⟨h1, h2⟩, h3⟩, h4⟩, h5⟩, h6⟩, h7⟩, t, h8, bs, h9, h10⟩ := h
  exact ⟨_, t, bs, h1, h2, h3, h4, h5, h6, h7, h8, h9, h10⟩

/-- Block 1 with its thread in a state, and a save. -/
def saving (s : State) (st : BState) (x : TState) (why : Option SaveFor) : State :=
  State.block1 { s with sched := { s.sched with args := { id := 1 } } } fun b =>
    { b with st := st, save := why, threads := b.threads.map fun y => { y with st := x } }

/-- An exit record to write at the start of object 1, of a page launch whose list stands at 0x600 of object 1. Its cellar object is
object 2, mapped at 0x78000, whose page 0 is the physical page 5. -/
def exitSt : State :=
  let cap (r o : Nat) : List Nat := [(capOf o 0xFF 16 0 1 r true).nat % 2 ^ 64, (capOf o 0xFF 16 0 1 r true).nat / 2 ^ 64]
  let rec0 := (slateRecord.take 10 ++ cap 0x600 1 ++ cap 0 2 ++ cap 0 1).set 0 (slateRecord.getD 0 0 + 1)
  let m := ((slotted.mem.write 0x70020 slateEntry).write 0x70040 slateEntry).store 0x70040 8 (1 + 8 + 0xFF * 16 + 16383 * 2 ^ 16)
  { slotted with
    mem := (m.store 0x70048 8 0x78000).store 0x78000 8 (1 + 5 * 2 ^ 8)
    ctxs := slotted.ctxs.map fun c => { c with otb := 0x70000, otn := 3 }
    launches := slotted.launches.map fun l => { l with record := rec0 ++ List.replicate 16 0, tags := List.replicate 8 true ++ List.replicate 8 false } }

/-- The save of its block's record. -/
def toSave : State := saving slotted .resident .saved (some .preempt)
def setsOf (s : State) : State × SaveSets := s.savedSets (block1 s) (block1 s).threads
def recordOf (s : State) : List Byte := ((setsOf s).1.blockRecord (block1 s) .preempt (setsOf s).2.sets).1
def popped (s : State) : Option (State × List Nat) :=
  (setsOf s).1.popSlots (ctx1 s) (((recordOf s).length + (ctx1 s).room - 1) / (ctx1 s).room)
def written (s : State) : Option State := (popped s).bind fun p => p.1.writeSlots (ctx1 s) (ctx1 s).room p.2 (recordOf s)

def placedOut : LaneRes (List Piece) → Bool
  | .ok _ => true
  | _ => false

theorem access_of {f : State × LaneRes (List Piece)} (h : placedOut f.2 = true) : ∃ t ps, f = (t, .ok ps) := by
  obtain ⟨t, r⟩ := f
  cases r <;> first | exact ⟨_, _, rfl⟩ | cases h

/-- An exit record to write in object 3, which is object 7 of peer 3. -/
def farExit : State :=
  let s := farSt opStore 256
  let cap := [(capOf 3 0xFF 16 0 1 0 true).nat % 2 ^ 64, (capOf 3 0xFF 16 0 1 0 true).nat / 2 ^ 64]
  { s with
    caches := { s.caches with asks := s.caches.asks.map fun q => { q with askers := [s.sched.cur], agent := false } }
    launches := s.launches.map fun l => { l with record := slateRecord.take 14 ++ cap ++ List.replicate 16 0, tags := List.replicate 8 true ++ List.replicate 8 false } }

/-- A copy from object to object, which leaves scratch alone. -/
def copyOn : Cmd := { copy16 with dst := .object (slateCap 0xFF) 0x100, notify := none }

theorem witness_EndsAndSaves :
    (let s := saving fullSt .resident .exited none;
      s.block? s.sched.args.id = some (block1 s) ∧ s.launchOf (block1 s) = some (launch1 s) ∧ s.mayFinish (block1 s) = true
        ∧ (block1 s).exitWait = [] ∧ s.commandsEnded (block1 s) = true ∧ (block1 s).recSent = [] ∧ (launch1 s).exitrec.tag = false)
    ∧ (let s0 := saving fullSt .resident .exited none
      let s := { s0 with engines := { s0.engines with cmds := [copyOn] } };
      s.block? s.sched.args.id = some (block1 s) ∧ s.launchOf (block1 s) = some (launch1 s) ∧ s.mayFinish (block1 s) = true
        ∧ (block1 s).exitWait = [] ∧ s.commandsEnded (block1 s) = false ∧ (block1 s).vacated = false ∧ (block1 s).st = .resident)
    ∧ (let s := State.block1 (saving exitSt .resident .exited none) fun b => { b with lost := [0] };
      s.block? s.sched.args.id = some (block1 s) ∧ s.launchOf (block1 s) = some (launch1 s) ∧ s.mayFinish (block1 s) = true
        ∧ (block1 s).exitWait = [] ∧ s.commandsEnded (block1 s) = true ∧ (block1 s).recSent = [] ∧ (launch1 s).exitrec.tag = true
        ∧ (block1 s).lost ≠ [])
    ∧ (∀ far ∈ [true, false], let s := saving (if far then farExit else exitSt) .resident .exited none
      s.block? s.sched.args.id = some (block1 s) ∧ s.launchOf (block1 s) = some (launch1 s) ∧ s.mayFinish (block1 s) = true
        ∧ (block1 s).exitWait = [] ∧ s.commandsEnded (block1 s) = true ∧ (block1 s).recSent = [] ∧ (block1 s).lost = []
        ∧ (launch1 s).exitrec.tag = true
        ∧ ∃ t ps, s.access (block1 s) (launch1 s).exitrec ((launch1 s).exitrec.cursor + 256 * (block1 s).blk : Nat) 256 1 opStore = (t, .ok ps)
          ∧ ((t.writePieces none ps ((block1 s).exitRecord (launch1 s).paged (!(block1 s).threads.isEmpty))).sentSince t = [] ↔ far = false))
    ∧ (let s := State.block1 (saving exitSt .resident .exited none) fun b => { b with recSent := [7] };
      s.block? s.sched.args.id = some (block1 s) ∧ s.launchOf (block1 s) = some (launch1 s) ∧ s.mayFinish (block1 s) = true
        ∧ (block1 s).exitWait = [] ∧ s.commandsEnded (block1 s) = true ∧ (block1 s).recSent ≠ [] ∧ (block1 s).recSent.any s.awaited = false)
    ∧ (∀ size ∈ [1, 2], let s0 := State.block1 (saving fullSt .saved .saved none) fun b => { b with waits := [⟨0, 0, 0⟩], gangSize := size }
      let s := { s0 with blocks := s0.blocks ++ s0.blocks.map fun b => { b with uid := 9, waits := [], gangRank := 1 } }
      let bs := (s.gangOf (block1 s)).filter fun k => k.st == .saved
      s.block? s.sched.args.id = some (block1 s) ∧ (block1 s).st = .saved ∧ bs.length = size ∧ (∀ k ∈ bs, k.save = none) ∧ (∃ k ∈ bs, k.waits ≠ [])
        ∧ (∀ k ∈ bs, ∀ c ∈ k.waits, s.met c = true))
    ∧ (let s := toSave
      let b := block1 s
      s.block? s.sched.args.id = some b ∧ b.save = some .preempt ∧ s.ctx? b.ctx = some (ctx1 s) ∧ SaveFor.preempt.keeps = true ∧ b.st = .resident
        ∧ b.held = true ∧ b.ended = false ∧ b.exitWait = [] ∧ (∀ k ∈ s.gangOf b, s.quiet k = true)
        ∧ (setsOf s).2.noMem = none ∧ (setsOf s).2.faults.length = 0 ∧ (setsOf s).2.waiting = false ∧ (setsOf s).2.running = [] ∧ (popped s).isSome = true ∧ (written s).isSome = true)
    ∧ (let s := saving (State.threads { fullSt with sched := { fullSt.sched with now := 2 ^ 20 } } fun x => { x with pinned := true, perf := true }) .resident .running (some .preempt)
      let p := (block1 s, lane s 0)
      s.block? s.sched.args.id = some (block1 s) ∧ s.ctx? (block1 s).ctx = some (ctx1 s) ∧ p ∈ s.waitedOut (ctx1 s) ∧ p.1.uid = (block1 s).uid
        ∧ ∀ r ∈ s.waitedOut (ctx1 s), r = p ∨ stopsBefore p r = true)
    ∧ (let s0 := saving fullSt .resident .exited none
      let s := { s0 with ctxs := s0.ctxs.map fun c => { c with preempts := [0] } };
      s.ctx? s.sched.args.id = some (ctx1 s) ∧ (ctx1 s).preempts = [0]
        ∧ (∀ b ∈ s.blocks, b.ctx = (ctx1 s).n → b.st ≠ .clearing ∧ (b.st = .resident → b.ended = true ∧ s.quiet b = true))
        ∧ (s.updCtx (ctx1 s).n fun c => { c with preempts := [], saved := 0 }).cplRoom 0) := by
  have h : ([true, false].all fun far => let s := saving (if far then farExit else exitSt) .resident .exited none
      (s.block? s.sched.args.id == some (block1 s)) && (s.launchOf (block1 s) == some (launch1 s)) && s.mayFinish (block1 s)
        && (block1 s).exitWait.isEmpty && s.commandsEnded (block1 s) && (block1 s).recSent.isEmpty && (block1 s).lost.isEmpty
        && (launch1 s).exitrec.tag
        && match s.access (block1 s) (launch1 s).exitrec ((launch1 s).exitrec.cursor + 256 * (block1 s).blk : Nat) 256 1 opStore with
          | (t, .ok ps) => decide ((t.writePieces none ps ((block1 s).exitRecord (launch1 s).paged (!(block1 s).threads.isEmpty))).sentSince t = [] ↔ far = false)
          | _ => false) = true := by decide +kernel
  unfold State.cplRoom
  refine ⟨by decide +kernel, by decide +kernel, by decide +kernel, fun far hf => ?_, ?_⟩
  · have h := List.all_eq_true.mp h far hf
    simp only [Bool.and_eq_true, beq_iff_eq, List.isEmpty_iff] at h
    obtain ⟨⟨⟨⟨⟨⟨⟨⟨h1, h2⟩, h3⟩, h4⟩, h5⟩, h6⟩, h7⟩, h8⟩, h9⟩ := h
    split at h9
    · rename_i t ps ha
      exact ⟨h1, h2, h3, h4, h5, h6, h7, h8, t, ps, ha, of_decide_eq_true h9⟩
    · cases h9
  · and_intros <;> decide +kernel

/-- A page launch that reads its list, with block 1 as its entry 0; the same with a cellar capability that grants nothing. -/
def pageSt : State := { exitSt with sched := { exitSt.sched with args := { id := 1 } } }
def barePages : State := { pageSt with launches := pageSt.launches.map fun l => { l with tags := List.replicate 6 true ++ List.replicate 10 false } }

def isBytes : Got → Bool
  | .ok _ _ => true
  | _ => false

def gotBytes (g : Got) : List Byte := match g with
  | .ok bs _ => bs
  | _ => []

theorem bytes_of {f : State × Got} (h : isBytes f.2 = true) : ∃ psn, f = (f.1, .ok (gotBytes f.2) psn) := by
  obtain ⟨t, r⟩ := f
  cases r <;> first | exact ⟨_, rfl⟩ | cases h

def isCellar : WalkOut → Bool
  | .cellar _ _ => true
  | _ => false

def cellarEntry : WalkOut → List Nat × Nat
  | .cellar e m => (e, m)
  | _ => ([], 0)

theorem cellar_of {f : State × WalkOut} (h : isCellar f.2 = true) : f = (f.1, .cellar (cellarEntry f.2).1 (cellarEntry f.2).2) := by
  obtain ⟨t, r⟩ := f
  cases r <;> first | rfl | cases h

/-- What the unit reads of the list, and the walk that follows. -/
def listGot (s : State) : State × Got :=
  let l := launch1 s
  s.agentRead (s.sched.args.sub % 8) l.ctx l.list.obj (l.list.cursor + 4 * l.nextEntry) 4 opLoad
def pageNo (s : State) : Nat := bytesToNat (gotBytes (listGot s).2)
def pageWalk (s : State) : State × WalkOut :=
  walk ((listGot s).1.notePage (launch1 s).id (launch1 s).nextEntry (pageNo s)) none (s.sched.args.sub % 8) (launch1 s).ctx (launch1 s).cellar.obj
    (pageNo s * 16384) 16384 opCopySrc

/-- Its entry 0 was held and has been read, and goes on. -/
def resumedPages : State :=
  { pageSt with
    sched := { pageSt.sched with args := { id := 1, ok := true } }
    launches := pageSt.launches.map fun l => { l with held := [(0, 0)], read := [0], nextEntry := 1 } }

/-- A read of physical page 5 at a stage. -/
def read1 (st : RStage) : PageRead := { id := 1, page := 5, hint := 0, level := 0, stage := st, order := 0, users := [1] }
def page5 : CellarPage := { page := 5, readable := true, data := [] }
def State.reading (s : State) (r : PageRead) : State := { s with cellar := { s.cellar with reads := [r], pages := [page5] } }
def flash1 (program : Bool) : FlashOp := { id := 1, cmd := 0, program := program, target := 6, source := 0x80000, order := 0 }

theorem witness_CellarPages :
    (∀ s ∈ [pageSt, barePages], let l := launch1 s
      s.launch? s.sched.args.id = some l ∧ l.st = .released ∧ l.paged = true ∧ l.cancelled = false ∧ s.slotsUsed < 4096 ∧ s.sched.args.ok = false
        ∧ s.sched.args.alt = false ∧ l.nextEntry < l.nblk ∧ s.slotGoes l = true ∧ ∃ psn, listGot s = ((listGot s).1, .ok (gotBytes (listGot s).2) psn))
    ∧ ((launch1 barePages).cellar.check ((pageNo barePages * 16384 : Nat) : Int) 16384 [30]).isSome = true
    ∧ (let s := pageSt
      let e := cellarEntry (pageWalk s).2
      let u := (pageWalk s).1
      (launch1 s).cellar.check ((pageNo s * 16384 : Nat) : Int) 16384 [30] = none ∧ pageWalk s = (u, .cellar e.1 e.2) ∧ bitAt e.2 0 = true
        ∧ u.badMapEntry e.2 = false ∧ (u.entryBlock (launch1 s).id (launch1 s).nextEntry).isSome = true)
    ∧ (let s := resumedPages
      let l := launch1 s
      let i := s.sched.args.tid
      s.launch? s.sched.args.id = some l ∧ l.st = .released ∧ l.paged = true ∧ l.cancelled = false ∧ s.slotsUsed < 4096 ∧ s.slotGoes l = true
        ∧ s.sched.args.ok = true ∧ (l.held.filter fun h => h.1 == i) = [(i, 0)] ∧ l.read.contains i = true ∧ (s.entryBlock l.id i).isSome = true)
    ∧ (∀ f ∈ [(RStage.queued, true), (.queued, false), (.sensing, false)], let s := State.given (State.reading pageSt (read1 f.1)) { id := 1, alt := f.2 }
      let r := read1 f.1
      let free := r.stage = .queued ∧ s.dieReady r = true ∧ (s.inStage (pageChannel r.page) fun t => t == .buffered).length < 8
      s.read? s.sched.args.id = some r ∧ s.sched.args.alt = f.2 ∧ (f.1 = .queued → free) ∧ (f.1 = .queued ∨ r.stage = .sensing))
    ∧ (let s := State.reading pageSt (read1 .sensed)
      s.read? s.sched.args.id = some (read1 .sensed)
        ∧ (∀ q ∈ s.inStage (pageChannel 5) fun t => t == .sensed, (read1 .sensed).stamp ≤ q.stamp ∧ (q.stamp = (read1 .sensed).stamp → pageDie 5 ≤ pageDie q.page))
        ∧ (s.inStage (pageChannel 5) fun t => t == .transferred || t == .corrected).length < 4)
    ∧ (∀ ok ∈ [true, false], let s := State.given (State.reading pageSt (read1 .transferred)) { id := 1, ok := ok }
      s.read? s.sched.args.id = some (read1 .transferred) ∧ s.cellarPage 5 = some page5 ∧ page5.readable = true ∧ s.sched.args.ok = ok
        ∧ (read1 .transferred).tried < 8 ∧ (read1 .transferred).pgread = none)
    ∧ (let s := State.reading pageSt (read1 .corrected)
      s.read? s.sched.args.id = some (read1 .corrected) ∧ (s.inStage (pageChannel 5) fun t => t == .buffered).length < 8)
    ∧ (let s := State.block1 (State.given (State.reading pageSt (read1 .buffered)) { id := 1, tid := 1 }) fun b => { b with st := .clearing, landed := false };
      s.read? s.sched.args.id = some (read1 .buffered) ∧ s.block? s.sched.args.tid = some (block1 s) ∧ (read1 .buffered).users.contains (block1 s).uid = true
        ∧ (block1 s).st = .clearing ∧ (block1 s).landed = false)
    ∧ (∀ p ∈ [true, false], let s := { pageSt with cellar := { pageSt.cellar with ops := [flash1 p] } };
      (s.cellar.ops.find? fun f => f.id == s.sched.args.id) = some (flash1 p) ∧ s.opReady (flash1 p) = true ∧ s.hbmHas (flash1 p).source 16384 = true
        ∧ s.sched.args.alt = false ∧ s.hbmHas (s.link.cplbase + 16 * (0 % s.link.cmdCount)) 16 = true) := by
  have h : isBytes (listGot pageSt).2 = true := by decide +kernel
  have h2 : isBytes (listGot barePages).2 = true := by decide +kernel
  have h3 : isCellar (pageWalk pageSt).2 = true := by decide +kernel
  refine ⟨fun s hs => ?_, by decide +kernel, ⟨by decide +kernel, cellar_of h3, by decide +kernel⟩, ?_⟩
  · simp only [List.mem_cons, List.not_mem_nil, or_false] at hs
    rcases hs with rfl | rfl
    · and_intros <;> first | decide +kernel | exact bytes_of h
    · and_intros <;> first | decide +kernel | exact bytes_of h2
  · and_intros <;> decide +kernel

/-! ### Witnesses: the ring, links and firmware -/

/-- A command with its words. -/
def cmd (ctx w1 w2 w3 w4 : Nat) : Command := { byte1 := 0, ctx := ctx, upper := 0, w1 := w1, w2 := w2, w3 := w3, w4 := w4, w5 := 0, w6 := 0, w7 := 0 }

/-- The descriptor of context 1 in its table, and no block. -/
def ctxSt : State := { slotted with mem := (slotted.mem.store (0x50000 + 256 + 8) 8 2).store (0x50000 + 256 + 24) 8 0x100, blocks := [] }

/-- An invalidation under way, and a fault that is written. -/
def inv0 (ats : Bool) : ObjInv := { id := 1, cmd := 0, ctx := 1, obj := 1, first := 0, count := 1, flush := true, ats := ats, lines := [512] }
def fault1 : FaultRec := { fault0 with written := true }

theorem witness_HostCommands :
    (let s := ctxSt
      let c := cmd 1 0 0 0 0
      let d := (List.range 32).map fun i => s.mem.read (s.link.ctxtb + 256 * c.ctx + 8 * i) 8
      commandWithin c 1 1 1 1 = true ∧ (∀ b ∈ s.blocks, b.ctx = c.ctx → b.st ≠ .resident ∧ b.st ≠ .saved ∧ b.slots = [])
        ∧ s.hbmHas (s.link.ctxtb + 256 * c.ctx) 256 = true ∧ badContext d = false
        ∧ ({ s with ctxs := (s.ctxs.filter fun (k : Ctx) => k.n != c.ctx) ++ [loadContext c.ctx d (s.mem.tagAt (s.link.ctxtb + 256 * c.ctx + 32)) (s.ctx? c.ctx)] } : State).cplRoom s.cmdIdx)
    ∧ (∀ st ∈ [BState.resident, .saved], let s := saving fullSt st .running none
      commandWithin (cmd 1 0 0 0 0) 1 1 1 1 = true ∧ block1 s ∈ s.blocks ∧ (block1 s).ctx = (cmd 1 0 0 0 0).ctx
        ∧ ((block1 s).st = .resident ∨ (block1 s).st = .saved) ∧ s.cplRoom s.cmdIdx)
    ∧ (let s := fullSt
      let c := cmd 1 1 0x80000 0 0
      s.ctx? c.ctx = some (ctx1 s) ∧ commandWithin c (2 ^ 32) (2 ^ 52) 1 1 = true ∧ c.w1 ≠ 0 ∧ c.w2 % 16 = 0 ∧ s.hbmHas c.w2 16 = true ∧ c.w1 < (ctx1 s).otn
        ∧ s.hbmHas ((ctx1 s).otb + 32 * c.w1) 32 = true ∧ entryInvalid (readEntry s.mem ((ctx1 s).otb + 32 * c.w1)) = false
        ∧ (s.writePiece none (devPiece c.w2 16) (natToBytes 16 (rootCap c.w1 (entryRights (readEntry s.mem ((ctx1 s).otb + 32 * c.w1)))
            (entryLen (readEntry s.mem ((ctx1 s).otb + 32 * c.w1)))).nat) true).hbmHas 0 16 = true)
    ∧ (∀ c ∈ [cmd 1 1 0 1 0, cmd 1 0xFFFFFFFF 0xFFFFFFFF 0xFFFFFFFF 1], fullSt.ctx? c.ctx = some (ctx1 fullSt) ∧ commandWithin c (2 ^ 32) (2 ^ 32) (2 ^ 32) 2 = true)
    ∧ (∀ ats ∈ [true, false], ∀ flush ∈ [true, false], let v := { inv0 ats with flush := flush }
      let s := State.given { fullSt with invs := [v] } { id := 1 };
      (s.invs.find? fun v => v.id == s.sched.args.id) = some v ∧ s.invalidated v = true
        ∧ (let u := ({ s with invs := s.invs.filter fun w => w.id != v.id }.flushLines (if v.flush then distinct (v.lines ++ s.linesNamed v) else [])).dropNamed v
          ((if v.flush then u.dropWalked v else u).regained v).cplRoom v.cmd))
    ∧ (∀ w ∈ [0, 1], ∀ remote ∈ [[], [(3, 7, 0, 16)]], let r := { fault1 with remote := remote }
      let s := { fullSt with faults := [r] };
      commandWithin (cmd 1 1 w 0 0) (2 ^ 32) 2 1 1 = true ∧ (s.faults.find? fun r => r.ctx == 1 && r.seq == 1 && r.written) = some r
        ∧ (let t := s.answerGroups 1 1 1 (w == 1)
          let u := r.remote.foldl (fun s q =>
            s.send { peer := q.1, obj := q.2.1, off := q.2.2.1, len := q.2.2.2, op := if w == 1 then 12 else 11, data := 0 })
            (({ t with
              faults := t.faults.filter fun q => !(q.ctx == 1 && q.seq == 1)
              engines := { t.engines with cmds := t.engines.cmds.map fun (c : Cmd) => c.answered r (w == 1) }
              blocks := t.blocks.map fun (b : Block) => b.answered r (w == 1) } : State).answerEntries r (w == 1))
          u.hbmHas 0 16 = true))
    ∧ (commandWithin (cmd 1 0 0 0 0) 1 1 1 1 = true ∧ fullSt.ctx? (cmd 1 0 0 0 0).ctx = some (ctx1 fullSt))
    ∧ (let s0 := saving fullSt .saved .saved (some .preempt)
      let s := { s0 with ctxs := s0.ctxs.map fun c => { c with preempted := true } };
      commandWithin (cmd 1 0 0 0 0) 1 1 1 1 = true ∧ s.ctx? (cmd 1 0 0 0 0).ctx = some (ctx1 s)
        ∧ (let t := s.updCtx 1 fun c => { c with preempted := false }
          let bs := t.blocks.filter fun b => b.ctx == 1 && b.st == .saved && b.save == some .preempt && (t.gangOf b).all fun k => k.st == .saved || k.ended
          bs ≠ [] ∧ (bs.foldl (fun (s : State) b => s.toPending b.uid) { t with blocks := t.blocks.map fun (b : Block) =>
            if b.ctx = 1 ∧ b.st = BState.pending then { b with pendSince := s.sched.now } else b }).hbmHas 0 16 = true))
    ∧ (let s := { slotted with mem := slotted.mem.store (slotted.link.qcbbase + 64) 8 (4 * 2 ^ 52), fw := { slotted.fw with running := true } };
      let c := cmd 0 1 1 7 0
      s.fw.running = true ∧ commandWithin c 64 4096 8 1 = true ∧ (s.queues.slots.getD c.w1 {}).bound = false ∧ s.hbmHas (s.qcbAt c.w2) 64 = true ∧ (s.boundSlot c.w2 c.w3).log2n ≥ 4
        ∧ ((s.updSlot c.w1 fun _ => s.boundSlot c.w2 c.w3).setMap c.w2 c.w1).hbmHas 0 16 = true)
    ∧ (∀ w ∈ [0, 63], commandWithin (cmd 0 w 0 0 0) 64 1 1 1 = true
      ∧ (if (fullSt.queues.slots.getD w {}).bound then fullSt.unbindSlot w else fullSt).hbmHas 0 16 = true)
    ∧ (let c := cmd 0 5 0x80000 0 0
      commandWithin c (2 ^ 30) (2 ^ 52) 1 1 = true ∧ c.w2 % 65536 = 0 ∧ c.w2 % 16384 = 0 ∧ fullSt.hbmHas c.w2 16384 = true
        ∧ bitAt fullSt.presence.channels (c.w1 % 64) = true)
    ∧ (∀ w ∈ [0, 63], commandWithin (cmd 0 w 65535 0 0) 64 (2 ^ 16) 1 1 = true ∧ bitAt fullSt.presence.channels w = true)
    ∧ (let c := cmd 1 4095 1 0x2000 0
      commandWithin c 4096 (2 ^ 32) (2 ^ 48) 1 = true ∧ c.w3 % 128 = 0 ∧ fullSt.ctx? c.ctx = some (ctx1 fullSt) ∧ fullSt.hbmHas 0 16 = true) := by
  unfold State.cplRoom
  and_intros <;> decide +kernel

theorem witness_MalformedCommands : ∀ c ∈ [(cmd 1 1 0 0 0, 1, 1, 1, 1), (cmd 1 1 0 0 2, 2 ^ 32, 2 ^ 32, 2 ^ 32, 2), (cmd 1 1 2 0 0, 2 ^ 32, 2, 1, 1),
    (cmd 0 64 0 0 0, 64, 4096, 8, 1), (cmd 0 0 4096 0 0, 64, 4096, 8, 1), (cmd 0 (2 ^ 30) 0 0 0, 2 ^ 30, 2 ^ 52, 1, 1), (cmd 0 64 0 0 0, 64, 2 ^ 16, 1, 1),
    (cmd 0 4096 0 0 0, 4096, 2 ^ 32, 2 ^ 48, 1), ({ cmd 0 0 0 0 0 with byte1 := 1 }, 1, 1, 1, 1)],
    commandWithin c.1 c.2.1 c.2.2.1 c.2.2.2.1 c.2.2.2.2 = false
      ∧ (let s := { fullSt with fw := { fullSt.fw with running := true } }; s.fw.running = true ∧ s.cplRoom s.cmdIdx) := by
  unfold State.cplRoom
  decide +kernel

/-- A translation asked of the host, and a check asked of a peer. -/
def ask0 (peer : Option Nat) : Ask := { id := 1, peer := peer, ctx := 1, obj := 1, off := 0, write := false }

/-- Port 0 in a state of its link, with no salvage buffer or with one. -/
def State.port0 (s : State) (up left : Bool) (base : Nat) : State :=
  { s with ports := s.ports.set 0 { up := up, left := left, salvbase := base, salvlen := if base = 0 then 0 else 128 } }

/-- A read and a store of the pool of port 0, a read and an atomic of a peer, and what awaits the peer's acknowledgement. -/
def poolLoad : Req := { load8 with pieces := [{ spot8 with addr := 2 ^ 54 }] }
def poolStore : Item := item8 (.store [{ spot8 with addr := 2 ^ 54 }] 7)
def peerSpot : Piece := { spot8 with peer := some 3 }
def peerLoad : Req := { load8 with pieces := [peerSpot] }
def peerAtom : Req := { atom8 with pieces := [peerSpot] }
def sent0 : PeerMsg := { peer := 3, obj := 7, off := 0, len := 8, op := 2, data := 0, id := 5 }

/-- Eight bytes of object 1 that peer 3 asks for, in a table where the object gives some rights, and the walk. -/
def peerSt (sub rights : Nat) : State :=
  State.given { fullSt with mem := fullSt.mem.store 0x20 8 (1 + rights * 16 + 65535 * 2 ^ 16) } { id := 3 * 65536 + 1, tid := 1, value := 0, sub := sub, len := 8 }
def peerWalk (s : State) : State × AccOut := let a := s.sched.args
  translate s none 0 (a.id % 65536) a.tid a.value a.len (peerOp a.sub a.data)

def allowed : AccOut → Bool
  | .ok _ => true
  | _ => false
def piecesOf : AccOut → List Piece
  | .ok ps => ps
  | _ => []
def denied : AccOut → Bool
  | .trap c _ => c == cPermission
  | _ => false
def auxOf : AccOut → Nat
  | .trap _ a => a
  | _ => 0

theorem walk_of {f : State × AccOut} (h : allowed f.2 = true) : f = (f.1, .ok (piecesOf f.2)) := by
  obtain ⟨t, r⟩ := f
  cases r <;> first | rfl | cases h

theorem denied_of {f : State × AccOut} (h : denied f.2 = true) : f = (f.1, .trap cPermission (auxOf f.2)) := by
  obtain ⟨t, r⟩ := f
  cases r <;> first | (simp only [denied, beq_iff_eq] at h; rw [h]; rfl) | cases h

theorem witness_LinksAndPeers :
    (let s := State.given { fullSt with caches := { fullSt.caches with replicas := fullSt.caches.replicas.set 0 (List.replicate 8 1) } } { id := 0, tid := 7 };
      bitAt (s.replica s.sched.args.id s.sched.args.tid) 0 = true)
    ∧ (∀ f ∈ [(0, 3), (0, 0), (0, 2), (1, 3), (2, 0)], let s := State.given { fullSt with caches := { fullSt.caches with asks := [ask0 none] } } { id := 1, sub := f.1, value := f.2 };
      let a := s.sched.args
      (s.caches.asks.find? fun q => q.id == a.id && q.peer.isNone && q.state == 0) = some (ask0 none)
        ∧ (f = (0, 3) → a.sub = 0 ∧ hostGrants (AccOp.ofCode (ask0 none).op) (a.data % 2 ^ 64 / 4096 * 4096 + a.value % 4) = true)
        ∧ (f ≠ (0, 3) → a.sub ≠ 0 ∨ hostGrants (AccOp.ofCode (ask0 none).op) (a.data % 2 ^ 64 / 4096 * 4096 + a.value % 4) = false))
    ∧ (let s := State.given fullSt { data := 2 ^ 73 };
      128 * s.sched.args.data ≥ hostKey 0)
    ∧ (let s := State.given (State.port0 fullSt true false 0) { data := 2 ^ 47 };
      poolPort (128 * s.sched.args.data / 65536) = some 0 ∧ (s.ports.getD 0 {}).up = true)
    ∧ (∀ base ∈ [0, 0x80000], ∀ c ∈ [(true, false), (false, true)],
      let s0 := State.given { State.port0 fullSt c.1 c.2 base with reqs := [poolLoad], items := [poolStore] } {}
      let s := { s0 with sched := { s0.sched with now := 2 ^ 30 } };
      ∃ p, s.port? s.sched.args.id = some p ∧ p.lost = false ∧ (p.salvbase = 0 ∨ s.hbmHas p.salvbase p.salvlen = true) ∧ s.ports.getD s.sched.args.id {} = p
        ∧ p.left = c.2 ∧ p.up = c.1 ∧ p.leftAt + p.recLimit < s.sched.now
        ∧ (∃ r ∈ s.reqs, r.pieces.any (Gone.port s.sched.args.id).holds = true ∧ r.gateSince + p.cplLimit < s.sched.now)
        ∧ (∃ i ∈ s.items, i.committed ≠ none ∧ i.eff.pieces.any (Gone.port s.sched.args.id).holds = true ∧ i.gateSince + p.cplLimit < s.sched.now))
    ∧ (∀ up ∈ [true, false], let s := State.given (State.port0 fullSt up false 0) {};
      ∃ p, s.port? s.sched.args.id = some p ∧ p.up = up ∧ bitAt s.presence.ports s.sched.args.id = true)
    ∧ bitAt fullSt.linksUp fullSt.sched.args.id = true
    ∧ (∀ sub ∈ [0, 1], let s := peerSt sub 0xFF
      let a := s.sched.args
      let t := (peerWalk s).1
      let ps := piecesOf (peerWalk s).2
      peerForm a.sub a.value a.len = true ∧ a.sub ≠ 4 ∧ peerWalk s = (t, .ok ps) ∧ (a.sub = 0 ∨ ∀ p ∈ ps, t.lockedOut 0 p = false ∧ t.cutOff p = false))
    ∧ (let a := (peerSt 4 0xFF).sched.args
      peerForm a.sub a.value a.len = true ∧ a.sub = 4)
    ∧ (let s := peerSt 1 0
      let a := s.sched.args
      peerForm a.sub a.value a.len = true ∧ a.sub ≠ 4 ∧ peerWalk s = ((peerWalk s).1, .trap cPermission (auxOf (peerWalk s).2)))
    ∧ (∀ sub ∈ [1, 2, 3, 4], let s := State.given { fullSt with caches := { fullSt.caches with asks := [ask0 (some 3)] } } { id := 1, ok := true, sub := sub };
      s.sched.args.ok = true ∧ ask0 (some 3) ∈ s.caches.asks ∧ (ask0 (some 3)).id = s.sched.args.id ∧ (ask0 (some 3)).peer.isSome = true ∧ (ask0 (some 3)).state = 0
        ∧ 1 ≤ s.sched.args.sub ∧ s.sched.args.sub ≤ 4)
    ∧ (let s := State.given { fullSt with reqs := [peerLoad] } { id := 1 };
      s.sched.args.ok = false ∧ (s.reqs.find? fun r => r.id == s.sched.args.id) = some peerLoad ∧ peerLoad.isAtom = false
        ∧ peerLoad.due s.sched.args.sub = some peerSpot ∧ peerSpot.peer = some 3 ∧ s.respondable peerLoad = true)
    ∧ (let s := State.given { fullSt with reqs := [peerAtom] } { id := 1 };
      s.sched.args.ok = false ∧ (s.reqs.find? fun r => r.id == s.sched.args.id) = some peerAtom ∧ peerAtom.isAtom = true ∧ s.wordReady peerAtom = true
        ∧ (∀ p ∈ peerAtom.pieces, p.peer.isSome = true) ∧ s.reqKey peerAtom = none)
    ∧ (∀ fill ∈ [none, some 0], let m := { sent0 with fill := fill }
      let s := State.given { fullSt with caches := { fullSt.caches with peerOut := [m] } } { id := 5 };
      s.sched.args.ok = false ∧ s.sched.args.id ≠ 0 ∧ (∀ r ∈ s.reqs, r.id ≠ s.sched.args.id)
        ∧ (s.caches.peerOut.find? fun m => m.id == s.sched.args.id && m.op != 0 && m.op != 9) = some m ∧ m.fill = fill) := by
  have h0 : allowed (peerWalk (peerSt 0 0xFF)).2 = true := by decide +kernel
  have h1 : allowed (peerWalk (peerSt 1 0xFF)).2 = true := by decide +kernel
  have h2 : denied (peerWalk (peerSt 1 0)).2 = true := by decide +kernel
  refine ⟨by decide +kernel, by decide +kernel, by decide +kernel, by decide +kernel, fun base hb c hc => ⟨(State.port0 fullSt c.1 c.2 base).ports.getD 0 {}, ?_⟩,
    fun up hu => ⟨(State.port0 fullSt up false 0).ports.getD 0 {}, ?_⟩, ?_, fun sub hs => ?_, ?_, ⟨?_, ?_, denied_of h2⟩, ?_, ?_, ?_, ?_⟩
  · revert c base; decide +kernel
  · revert up; decide +kernel
  on_goal 2 =>
    simp only [List.mem_cons, List.not_mem_nil, or_false] at hs
    rcases hs with rfl | rfl
    · exact ⟨by decide +kernel, by decide, walk_of h0, Or.inl rfl⟩
    · exact ⟨by decide +kernel, by decide, walk_of h1, Or.inr (by decide +kernel)⟩
  all_goals decide +kernel

theorem witness_QueuesAndFirmware :
    (let s := State.given fullSt { id := 4095, value := 3 };
      s.sched.args.id < 4096 ∧ s.link.gated = false ∧ s.hbmHas (s.qcbAt s.sched.args.id + 12) 4 = true)
    ∧ (let s := State.given { fullSt with link := { fullSt.link with gated := true, catcher := [(0, 1)] } } {};
      ∃ t, s.link.gated = true ∧ kickAll s.link.catcher { s with link := { s.link with gated := false, catcher := [] } } = .next t)
    ∧ (let s := { fullSt with fw := { fullSt.fw with running := true, wdmin := 1, wdmax := 2 }, sched := { fullSt.sched with now := 3 * clkPerUs, args := { id := 15, data := 4 } } };
      s.fw.running = true ∧ s.fw.wdmax ≠ 0 ∧ s.sched.now - s.fw.wdlast > clkPerUs * s.fw.wdmax ∧ s.sched.args.id < 16 ∧ s.sched.args.id < 64)
    ∧ (let s := { fullSt with fw := { fullSt.fw with running := true }, link := { fullSt.link with evbase := 0x80000, events := [(2, 1, 0)] } };
      s.link.events = (2, 1, 0) :: [] ∧ s.fw.running = true ∧ s.link.evbase ≠ 0 ∧ (s.link.evprod + 2 ^ 64 - s.link.evcons) % 2 ^ 64 < 2 ^ (s.link.evlog2 + 4)
        ∧ s.memHas (s.link.evbase + 16 * (s.link.evprod % 2 ^ (s.link.evlog2 + 4))) 16 = true
        ∧ s.poolDown (s.link.evbase + 16 * (s.link.evprod % 2 ^ (s.link.evlog2 + 4))) 16 = false)
    ∧ (let s := State.given fullSt { id := 4095, value := 511 };
      s.sched.args.id < 4096 ∧ s.appendWaits s.sched.args.id s.sched.args.value = false) := by
  have next : ∀ {o : Host.Outcome State Fault Refusal}, (match o with
      | .next _ => true
      | _ => false) = true → ∃ t, o = .next t := by
    intro o h
    cases o <;> first | exact ⟨_, rfl⟩ | cases h
  obtain ⟨t, ht⟩ := next (o := kickAll [(0, 1)] { fullSt with link := { fullSt.link with gated := false, catcher := [] }, sched := { fullSt.sched with args := {} } })
    (by decide +kernel)
  exact ⟨by decide +kernel, ⟨t, rfl, ht⟩, by decide +kernel, by decide +kernel, by decide +kernel⟩

/-- A reduction of object 1 that waits in a replay, whose log at 0x90000 gives two atomics in a run to its thread; the count of its
words, and how far the replay is. -/
def replaySt (hash pos : Nat) : State :=
  let m := (((fullSt.mem.store 0x90000 8 (0x40 + 2 ^ 8 + 2 ^ 16)).store 0x90008 8 1).store 0x90028 8 (2 * 2 ^ 32))
  { fullSt with
    mem := m, items := [{ item8 (.red spot8 0 .u64 1) with hash := hash }], sched := { fullSt.sched with now := 2 ^ 21, args := { id := 1 } }
    dbg := { fullSt.dbg with dbgctl := 1 + 2 ^ 16 + 2 * 2 ^ 24, rrobj := [1, 0, 0, 0], rrbase := 0x90000, rrprod := 1, replayPos := [(1, pos)] } }
def key0 (hash : Nat) : LogKey := { ctx := 1, obj := 1, uid := 1, lord := 0, blk := 0, tid := 0, ret := 0, hash := hash }

/-- A block that halts, records in the buffer of quad 0 and a closed chunk. -/
def traceOf (stop : Bool) : TraceRec := { quad := 0, words := List.replicate (if stop then 40 else 8) 1, stop := stop }
def chunk0 : Chunk := { ctx := 1, obj := 1, first := 0, closed := true, entries := [(0, 0, 0, 1, 0, 0)] }
def State.traces (s : State) (lost cons : Nat) (stop : Bool) : State :=
  { s with dbg := { s.dbg with buffer := [traceOf stop], chunks := [chunk0], lost := if lost = 0 then [] else [(0, lost)], trcons := cons } }

theorem witness_DebugAndReplay :
    (∀ r ∈ [1, 3], let s := State.block1 (State.given fullSt { id := 1 }) fun b => { b with halt := some (r, false) };
      s.block? s.sched.args.id = some (block1 s) ∧ (block1 s).halt = some (r, false) ∧ (block1 s).st = .resident ∧ s.finishing (block1 s) = false)
    ∧ (∀ gate ∈ [0, 1], ∀ lost ∈ [1, 2 ^ 32 - 1], let s0 := State.traces fullSt lost 0 false
      let s := { s0 with power := { s0.power with qgate := gate }, dbg := { s0.dbg with buffer := if gate = 1 then s0.dbg.buffer else [] } }
      lookupD 0 s.sched.args.id s.dbg.lost ≠ 0 ∧ s.dbg.ringFree ≠ 0
        ∧ (bitAt s.power.qgate s.sched.args.id = false ∨ ∃ t ∈ s.dbg.buffer, t.quad = s.sched.args.id)
        ∧ s.hbmHas (s.dbg.trbase + 64 * (s.dbg.trprod % s.dbg.ringSize)) (8 * 8) = true)
    ∧ (∀ stop ∈ [true, false], ∀ lost ∈ [0], let s := State.traces fullSt lost 0 stop;
      takeRecord s.sched.args.id s.dbg.buffer = some (traceOf stop, []) ∧ s.dbg.ringFree ≥ 5 ∧ lookupD 0 s.sched.args.id s.dbg.lost = lost
        ∧ s.dbg.ringSize - s.dbg.trprod % s.dbg.ringSize ≥ 5 ∧ s.hbmHas (s.dbg.trbase + 64 * (s.dbg.trprod % s.dbg.ringSize)) (8 * 40) = true)
    ∧ (let s := State.traces fullSt 0 (2 ^ 64 - 64) false;
      takeRecord s.sched.args.id s.dbg.buffer = some (traceOf false, []) ∧ s.dbg.ringFree = 0)
    ∧ (let s := State.traces fullSt 0 0 false;
      takeChunk s.dbg.chunks = some (chunk0, []) ∧ s.dbg.full = false ∧ s.memHas (s.dbg.rrbase + 256 * (s.dbg.rrprod % 2 ^ (s.dbg.rrlog2 + 4))) 256 = true
        ∧ s.poolDown (s.dbg.rrbase + 256 * (s.dbg.rrprod % 2 ^ (s.dbg.rrlog2 + 4))) 256 = false)
    ∧ (∀ c ∈ [(0, 0), (7, 0), (7, 1)], let s := replaySt c.1 c.2;
      ∃ done, s.waitingAtom s.sched.args.id = some (key0 c.1, 0, done) ∧ s.gateHead (key0 c.1) = true
        ∧ s.logHead (key0 c.1).ctx (key0 c.1).obj = some (0, 0, 0, c.2, 0, 0) ∧ s.rrMode (key0 c.1).ctx = 2 ∧ s.gateHolds (key0 c.1) = true
        ∧ s.sched.now > 0 + 2 ^ s.dbg.rrwait) := by
  refine ⟨by decide +kernel, by decide +kernel, by decide +kernel, by decide +kernel, by decide +kernel, fun c hc => ?_⟩
  have h : ([(0, 0), (7, 0), (7, 1)].all fun c => let s := replaySt c.1 c.2
      ((s.waitingAtom s.sched.args.id).any fun r => decide (r.1 = key0 c.1 ∧ r.2.1 = 0)) && decide (s.gateHead (key0 c.1) = true
        ∧ s.logHead (key0 c.1).ctx (key0 c.1).obj = some (0, 0, 0, c.2, 0, 0) ∧ s.rrMode (key0 c.1).ctx = 2 ∧ s.gateHolds (key0 c.1) = true
        ∧ s.sched.now > 0 + 2 ^ s.dbg.rrwait)) = true := by decide +kernel
  have h := List.all_eq_true.mp h c hc
  simp only [Bool.and_eq_true, decide_eq_true_eq] at h
  obtain ⟨h1, h2⟩ := h
  cases hw : (replaySt c.1 c.2).waitingAtom (replaySt c.1 c.2).sched.args.id with
  | none => rw [hw] at h1; cases h1
  | some r =>
    obtain ⟨k, n, done⟩ := r
    rw [hw] at h1
    simp only [Option.any_some, decide_eq_true_eq] at h1
    obtain ⟨rfl, rfl⟩ := h1
    exact ⟨done, hw, h2⟩

theorem witness_PowerAndBoot :
    (let s := State.given fullSt { id := 7 };
      s.diePowered s.sched.args.id = true ∧ bitAt s.power.throttled s.sched.args.id = false ∧ s.power.tripped = false)
    ∧ (let s := State.given { fullSt with power := { fullSt.power with throttled := 2 ^ 7, ungating := [7] } } { id := 7 };
      bitAt s.power.throttled s.sched.args.id = true ∧ s.power.ungating.contains s.sched.args.id = true)
    ∧ (let s := State.given { fullSt with power := { fullSt.power with clkstep := 0x78888888 } } { id := 7 };
      s.diePowered 7 = true ∧ bitAt s.power.throttled 7 = false ∧ clockStep s.power.clkstep 7 < clockStep s.power.kmax 7)
    ∧ (∀ ok ∈ [true, false], ∀ alt ∈ [true, false], let s := State.given fullSt { ok := ok, alt := alt }
      let s1 := if s.sched.args.alt then s.deviceReset else s
      s1.fw.inReset = true ∧ (ok = true → s.sched.args.ok = true ∧ s1.fw.minVersion ≤ s.sched.args.value))
    ∧ (let s := { fullSt with fw := { fullSt.fw with running := true, attbusy := true, attbuf := 0x80000 } };
      s.fw.running = true ∧ s.fw.attbusy = true ∧ s.hbmHas s.fw.attbuf 224 = true) := by
  decide +kernel

theorem witness_ApertureAccesses :
    (∀ sub ∈ [0x1000000, 0x10FFFF0], let a : EventArgs := { id := 0, len := 16, sub := sub };
      a.id = 0 ∧ a.len = 16 ∧ a.sub % 16 = 0 ∧ 0x1000000 ≤ a.sub ∧ a.sub < 0x1100000)
    ∧ (let a : EventArgs := { id := 0, len := 8, sub := 0x18 };
      a.id = 0 ∧ a.len = 8 ∧ a.sub % 8 = 0)
    ∧ (let s := State.given { fullSt with link := { fullSt.link with gated := true } } { id := 2, len := 8, sub := 4095 * 4096 };
      s.sched.args.id = 2 ∧ s.sched.args.len = 8 ∧ s.sched.args.sub % 4096 = 0 ∧ s.sched.args.sub / 4096 < 4096 ∧ s.link.gated = true)
    ∧ (let a : EventArgs := { id := 4, len := 8, sub := 4095 * 4096 + 0x800 };
      a.id = 4 ∧ a.sub / 4096 < 4096 ∧ a.sub % 4096 = 0x800 ∧ a.len = 8 ∧ fullSt.appendWaits (a.sub / 4096) a.data = false)
    ∧ (∀ v ∈ [0, 63, 64], ∀ ok ∈ [true, false], let a : EventArgs := { value := v, len := 1, ok := ok };
      a.len ≠ 0 ∧ a.value % 64 + a.len ≤ 64 ∧ fullSt.hbmHas a.value a.len = true
        ∧ (a.ok = true → fullSt.lockedOut 0 (devPiece a.value a.len) = false)) := by
  decide +kernel

/-! ### Witnesses: encodings, steps, what stays, exceptions -/

/-- `add.s32x2.sat v4, v5, v6`, the first line of R308, its word, and a command. -/
def add308 : Rounded := { guard := .always, d := 4, a := 5, b := 6, c := 0, tag := .s32x2, rnd := .rn, sat := true, sub := 0 }

theorem witness_DecodeEncode : (Instr.add add308).wf = true ∧ (Instr.add add308).view ≠ none
    ∧ (Instr.preempt (cmd 1 0 0 0 0)).wf = true ∧ (Instr.preempt (cmd 1 0 0 0 0)).command ≠ none := by
  decide +kernel

theorem witness_EncodeDecode : (0x00400100A0600108 < 2 ^ 64 ∧ decode 0x00400100A0600108 = .ok (.add add308))
    ∧ 0x10005 < 2 ^ 512 ∧ decodeCommand 0x10005 = some (.preempt (cmd 1 0 0 0 0)) := by
  decide +kernel

def isNext : Host.Outcome State Fault Refusal → Bool
  | .next _ => true
  | _ => false

theorem next_of {o : Host.Outcome State Fault Refusal} (h : isNext o = true) : ∃ t, o = .next t := by
  cases o <;> first | exact ⟨_, rfl⟩ | cases h

/-- The parts of a step of the small machine: its turn, the group that its selector chooses, the state that issues, and the fetch. -/
def stepSt (w : Nat) : State := bench w [rich]
def chosen (s : State) : Group × Part := (s.nextTurn.2.select 0 0).getD ((gb s).1, { core := 0, part := 0 })
def issuing (s : State) : State :=
  let was := s.nextTurn.2.selector 0 0
  { s.nextTurn.2.setSelector (chosen s).2 with sched := { s.nextTurn.2.sched with cur := (chosen s).1.gid, before := some (was.cur, was.run, was.ovd) } }
def fetched (s : State) : State × LaneRes Nat := (issuing s).fetchWord (block1 s) (chosen s).1.space (chosen s).1.pc

def fetchedWord : LaneRes Nat → Nat
  | .ok w => w
  | _ => 0
def isWord : LaneRes Nat → Bool
  | .ok _ => true
  | _ => false
theorem word_of {f : State × LaneRes Nat} (h : isWord f.2 = true) : f = (f.1, .ok (fetchedWord f.2)) := by
  obtain ⟨t, r⟩ := f
  cases r <;> first | rfl | cases h

/-- An event and a command as turns. -/
def eventSt : State := { fullSt with sched := { fullSt.sched with agenda := [.event .powerWindow { value := 7 }] }, fw := { fullSt.fw with running := true } }
def commandSt : State := State.reset.placeCommand (encode (.preempt (cmd 1 0 0 0 0)))

theorem witness_StepRunsDecoded :
    (let s := stepSt 0x00400100A0600108;
      s.nextTurn = (.issue 0 0, s.nextTurn.2) ∧ s.nextTurn.2.select 0 0 = some (chosen s) ∧ s.nextTurn.2.block? (chosen s).1.blk = some (block1 s)
        ∧ fetched s = ((fetched s).1, .ok 0x00400100A0600108) ∧ decode 0x00400100A0600108 = .ok (.add add308)
        ∧ ∃ t, exec (.add add308) (((fetched s).1.unbindAt (block1 s) ((chosen s).1.issuers (block1 s))).occupy (chosen s).1 (block1 s) (.add add308)) = .next t)
    ∧ (let s := stepSt 0x8580000000000001;
      s.nextTurn = (.issue 0 0, s.nextTurn.2) ∧ s.nextTurn.2.select 0 0 = some (chosen s) ∧ s.nextTurn.2.block? (chosen s).1.blk = some (block1 s)
        ∧ fetched s = ((fetched s).1, .ok 0x8580000000000001) ∧ decode 0x8580000000000001 = .ok (.rgn ⟨.always, 0, 0, 1⟩)
        ∧ ∃ t, exec (.rgn ⟨.always, 0, 0, 1⟩) ((fetched s).1.occupy (chosen s).1 (block1 s) (.rgn ⟨.always, 0, 0, 1⟩)) = .next t)
    ∧ (eventSt.nextTurn = (.event .powerWindow { value := 7 }, eventSt.nextTurn.2)
      ∧ ∃ t, exec .powerWindow { eventSt.nextTurn.2 with sched := { eventSt.nextTurn.2.sched with args := { value := 7 } } } = .next t)
    ∧ (let s0 := commandSt.nextTurn.2
      commandSt.nextTurn = (.command, s0) ∧ s0.link.cmdhead ≠ s0.link.cmdtail ∧ s0.cellar.ops = [] ∧ (∀ r ∈ s0.cellar.reads, r.pgread = none)
        ∧ s0.memHas (s0.link.cmdbase + 64 * (s0.link.cmdhead % s0.link.cmdCount)) 64 = true
        ∧ s0.poolDown (s0.link.cmdbase + 64 * (s0.link.cmdhead % s0.link.cmdCount)) 64 = false
        ∧ decodeCommand (s0.mem.read (s0.link.cmdbase + 64 * (s0.link.cmdhead % s0.link.cmdCount)) 64) = some (.preempt (cmd 1 0 0 0 0))
        ∧ ∃ t, exec (.preempt (cmd 1 0 0 0 0)) { s0 with link := { s0.link with cmdhead := (s0.link.cmdhead + 1) % 2 ^ 64 },
                                                         sched := { s0.sched with args := { id := s0.link.cmdhead } } } = .next t) := by
  have h2 := word_of (f := fetched (stepSt 0x8580000000000001)) (by decide +kernel)
  have hw : fetchedWord (fetched (stepSt 0x8580000000000001)).2 = 0x8580000000000001 := by decide +kernel
  rw [hw] at h2
  have h := word_of (f := fetched (stepSt 0x00400100A0600108)) (by decide +kernel)
  have hw : fetchedWord (fetched (stepSt 0x00400100A0600108)).2 = 0x00400100A0600108 := by decide +kernel
  rw [hw] at h
  exact ⟨⟨by decide +kernel, by decide +kernel, by decide +kernel, h, by decide +kernel, next_of (by decide +kernel)⟩,
    ⟨by decide +kernel, by decide +kernel, by decide +kernel, h2, by decide +kernel, next_of (by decide +kernel)⟩, ⟨by decide +kernel, next_of (by decide +kernel)⟩,
    by and_intros <;> first | decide +kernel | exact next_of (by decide +kernel)⟩

/-- The block as the word leaves its threads that were at a boundary. -/
def unbound (s : State) : Block :=
  ((((fetched s).1.unbindAt (block1 s) ((chosen s).1.issuers (block1 s))).occupyFor (chosen s).1 (block1 s) 1).block? (block1 s).uid).getD (block1 s)

/-- Two words that are no instruction. -/
theorem witness_IllegalWords : ∀ w ∈ [0xFFFFFFFFFFFFFFFF, 0x00C0000000000000 + 0x3F00000000000000], let s := stepSt w
    ∃ v, s.nextTurn = (.issue 0 0, s.nextTurn.2) ∧ s.nextTurn.2.select 0 0 = some (chosen s) ∧ s.nextTurn.2.block? (chosen s).1.blk = some (block1 s)
      ∧ fetched s = ((fetched s).1, .ok w) ∧ decode w = .error v
      ∧ (let hit := ((chosen s).1.issuers (unbound s)).filter fun x => match Guard.ofCode v.guardBits with
          | some gd => x.active gd
          | none => true
        hit ≠ [] ∧ (((fetched s).1.unbindAt (block1 s) ((chosen s).1.issuers (block1 s))).occupyFor (chosen s).1 (block1 s) 1).glitchOf (unbound s) hit 1 = none
        ∧ ∃ aux : Thread → Nat, ∀ x ∈ hit, (leastViol (v.viols ++ allocViols v.regs x.nregs)).map Viol.aux = some (aux x)) := by
  have hd : ([0xFFFFFFFFFFFFFFFF, 0x00C0000000000000 + 0x3F00000000000000].all fun w =>
      let s := stepSt w
      decide (s.nextTurn.1 = .issue 0 0 ∧ s.nextTurn.2.select 0 0 = some (chosen s) ∧ s.nextTurn.2.block? (chosen s).1.blk = some (block1 s))
      && isWord (fetched s).2 && fetchedWord (fetched s).2 == w && match decode w with
        | .error v =>
          let hit := ((chosen s).1.issuers (unbound s)).filter fun x => match Guard.ofCode v.guardBits with
            | some gd => x.active gd
            | none => true
          !hit.isEmpty
          && ((((fetched s).1.unbindAt (block1 s) ((chosen s).1.issuers (block1 s))).occupyFor (chosen s).1 (block1 s) 1).glitchOf (unbound s) hit 1).isNone
          && hit.all fun x => (leastViol (v.viols ++ allocViols v.regs x.nregs)).isSome
        | .ok _ => false) = true := by decide +kernel
  intro w hw
  have h := List.all_eq_true.mp hd w hw
  simp only [Bool.and_eq_true, decide_eq_true_eq, beq_iff_eq] at h
  obtain ⟨⟨⟨⟨h1, h2, h3⟩, h4⟩, h5⟩, h6⟩ := h
  split at h6
  · rename_i v hv
    simp only [Bool.and_eq_true, Bool.not_eq_true', List.isEmpty_eq_false_iff, List.all_eq_true, Option.isNone_iff_eq_none] at h6
    refine ⟨v, Prod.ext h1 rfl, h2, h3, ?_, hv, h6.1.1, h6.1.2, fun x => ((leastViol (v.viols ++ allocViols v.regs x.nregs)).map Viol.aux).getD 0, fun x hx => ?_⟩
    · have := word_of h4
      rwa [h5] at this
    · obtain ⟨y, hy⟩ := some_of (h6.2 x hx)
      simp only [hy, Option.map_some, Option.getD_some]
  · cases h6

/-- Registers that a check refuses: v300 lies beyond the thread's nine blocks, and v2, p5 and c1 are live in its region. -/
def sour (x : Thread) : Thread := { rich x with h := 9, v := (rich x).v.take 288, rdi := some 0, desc := [4, 0, 0, 0, 0, 2 ^ 5 + 2 ^ 33, 0, 0] }
def sourSt : State := let s := bench 0 [sour]; { s with sched := { s.sched with cur := 1 } }

def trapOf (x : Thread) (fs : List Form) : Option (Nat × Nat) := match checkAll x fs with
  | some (.trap c a) => some (c, a)
  | _ => none

theorem trap_of {x : Thread} {fs : List Form} (h : (trapOf x fs).isSome = true) : checkAll x fs = some (.trap ((trapOf x fs).getD (0, 0)).1 ((trapOf x fs).getD (0, 0)).2) := by
  unfold trapOf at h ⊢
  split at h
  · rename_i c a hc
    rw [hc]; rfl
  · cases h

/-- The hypotheses of a RefusedWord. -/
def Refuses (s : State) (fs : List Form) (mem : Bool) (kind : Nat) : Prop :=
  ∃ g b, ∃ why : Thread → Nat × Nat, s.current = some (g, b) ∧ Unhindered s b fs mem kind (actives (guardOf fs) g b)
    ∧ actives (guardOf fs) g b ≠ [] ∧ (∀ x ∈ actives (guardOf fs) g b, x.mid = false)
    ∧ ∀ x ∈ actives (guardOf fs) g b, checkAll x fs = some (.trap (why x).1 (why x).2)

/-- The same as a computation. -/
def refusesB (s : State) (fs : List Form) (mem : Bool) (kind : Nat) : Bool := match s.current with
  | some (g, b) =>
    let act := actives (guardOf fs) g b
    (act.all fun x => (fs.all fun f => !s.hazard b.uid x.tid f) && (!mem || !s.acquiring b.uid x.tid) && !s.awaiting b.uid x.tid)
    && (s.glitchOf b act kind).isNone && !act.isEmpty && act.all fun x => !x.mid && (trapOf x fs).isSome
  | none => false

theorem all_refuse {s : State} {fss : List (List Form)} {mem : Bool} {kind : Nat} (h : (fss.all fun fs => refusesB s fs mem kind) = true) :
    ∀ fs ∈ fss, Refuses s fs mem kind := by
  intro fs hf
  have h := List.all_eq_true.mp h fs hf
  unfold refusesB at h
  split at h
  · rename_i g b hc
    simp only [Bool.and_eq_true, List.all_eq_true, Bool.not_eq_true', Bool.or_eq_true, Option.isNone_iff_eq_none, List.isEmpty_eq_false_iff] at h
    refine ⟨g, b, fun x => (trapOf x fs).getD (0, 0), hc, ⟨fun x hx => ⟨fun f hf => (h.1.1.1 x hx).1.1 f hf, fun hm => ?_, (h.1.1.1 x hx).2⟩, h.1.1.2⟩,
      h.1.2, fun x hx => (h.2 x hx).1, fun x hx => trap_of (h.2 x hx).2⟩
    rcases (h.1.1.1 x hx).1.2 with h1 | h1
    · rw [hm] at h1; cases h1
    · exact h1
  · cases h

/-- The hypotheses of a RefusedCommit. -/
def RefusesCommit (s : State) (f : Form) : Prop :=
  ∃ g b, ∃ why : Thread → Nat × Nat, s.current = some (g, b) ∧ MayCommit s g b f.guard
    ∧ ∀ x ∈ actives f.guard g b, checkAll x [f] = some (.trap (why x).1 (why x).2)

theorem commits_refuse {s : State} {fs : List Form} (h : (fs.all fun f => match s.current with
    | some (g, b) => @decide _ (commitDec s g b f.guard) && (actives f.guard g b).all fun x => (trapOf x [f]).isSome
    | none => false) = true) : ∀ f ∈ fs, RefusesCommit s f := by
  intro f hf
  have h := List.all_eq_true.mp h f hf
  split at h
  · rename_i g b hc
    simp only [Bool.and_eq_true, List.all_eq_true] at h
    exact ⟨g, b, fun x => (trapOf x [f]).getD (0, 0), hc, @of_decide_eq_true _ (commitDec ..) h.1, fun x hx => trap_of (h.2 x hx)⟩
  · cases h

/-- Operands that the checks refuse: source 300, an index in v300, or a live register as destination. -/
def r3 : Rounded := { guard := .always, d := 1, a := 300, b := 300, c := 300, tag := .s64, rnd := .rn, sat := false, sub := 0 }
def f3 : Rounded := { r3 with tag := .f32x2 }
def p3 : Plain := ⟨.always, 1, 300, 300, 300, .u64, 0⟩
def c3 : Plain := ⟨.always, 1, 9, 300, 300, .u64, 0⟩
def p5 : Plain := ⟨.always, 5, 9, 0, 0, .u64, 0⟩
def i3 : Imm := ⟨.always, 300, 300, 0⟩
def m3 : MatrixW := ⟨.always, 300, 4, 8, 12, .f64, 0, 2⟩
def h2 : Half := ⟨2, 1, .u64, .rn, false⟩
def w3 : MemW := { wl with index := 300, width := 1 }

theorem witness_RefusedOperands :
    (∀ fs ∈ [(0x01, 2), (0x02, 2), (0x03, 2), (0x04, 2), (0x05, 3), (0x06, 2), (0x07, 2), (0x08, 1), (0x09, 1), (0x0A, 2), (0x0B, 2), (0x0C, 2),
        (0x0D, 1), (0x0E, 2), (0x0F, 2), (0x10, 2), (0x11, 2), (0x12, 2), (0x13, 1), (0x14, 1), (0x15, 1), (0x16, 2), (0x17, 3)].map fun f =>
      [r3.form f.1 (r3.rawSrcs f.2)], Refuses sourSt fs false 1)
    ∧ (∀ fs ∈ [(0x40, 2), (0x41, 2), (0x42, 2), (0x43, 3), (0x44, 3), (0x45, 3), (0x46, 2), (0x47, 2), (0x48, 1), (0x49, 1), (0x4B, 1), (0x4F, 1)].map
      fun f => [f3.form f.1 (exactSrcs f3 f.2)], Refuses sourSt fs false 1)
    ∧ (∀ fs ∈ [(0x70, 1), (0x71, 1), (0x72, 1), (0x73, 2), (0x74, 1), (0x75, 1), (0x76, 1), (0x77, 1), (0x78, 1)].map
      fun f => [f3.form f.1 (exactSrcs f3 f.2)], Refuses sourSt fs false 2)
    ∧ (∀ fs ∈ [[r3.form 0x00 [srcAny 0 r3.a]], [r3.form 0x18 [srcExact 0 r3.a r3.tag, srcExact 1 r3.b r3.tag]],
        [{ r3.form 0x19 (r3.rawSrcs 2) with dV := [], dP := [r3.d] }],
        [{ r3.form 0x26 [sourceOf r3 (numTags ++ [.m8x8, .m4x16])] with late := cvtLate r3.a r3.tag r3.sub }],
        [{ f3.form 0x4A (exactSrcs f3 2) with dV := [], dP := [f3.d] }], [f3.form 0x4C ([srcExact 0 f3.a f3.tag, srcExact 1 f3.b f3.tag] ++ [])],
        [f3.form 0x4D ([srcExact 0 f3.a f3.tag, srcExact 1 f3.b f3.tag] ++ [])],
        [f3.form 0x4E [srcExact 0 f3.a f3.tag, srcRaw 1 f3.b (signedOf f3.tag.width)]], [convForm 0x60 f3 floatTags fun _ => []],
        [convForm 0x61 r3 floatTags fun _ => []], [convForm 0x62 f3 numTags fun _ => []],
        [convForm 0x63 f3 floatTags fun x => [srcExact 1 f3.b (x.vreg f3.a).tag]], [convForm 0x64 f3 floatTags fun _ => []]], Refuses sourSt fs false 1)
    ∧ (∀ fs ∈ [[p3.form 0x27 [srcRaw 0 p3.a p3.tag, srcRaw 1 p3.b p3.tag]], [p3.form 0x28 [srcRaw 0 p3.a p3.tag]], [p3.form 0x29 [srcAny 0 p3.a]],
        [{ p5.form 0x20 [] with dV := [], dP := [p5.d] }], [{ p5.form 0x21 [] with dV := [], dP := [p5.d] }], [{ p5.form 0x22 [] with dV := [], dP := [p5.d] }],
        [{ p5.form 0x23 [] with dV := [], dP := [p5.d] }], [{ p3.form 0x24 [srcRaw 0 p3.a p3.tag] with dV := [], dP := [p3.d] }],
        [{ p5.form 0x25 [] with dV := [], dP := [p5.d] }], [{ c3.form 0x30 [] with dV := [], dC := [c3.d], caps := [c3.a] }],
        [{ c3.form 0x31 [srcRaw 1 c3.b c3.tag] with dV := [], dC := [c3.d], caps := [c3.a] }],
        [{ c3.form 0x32 [srcRaw 1 c3.b c3.tag] with dV := [], dC := [c3.d], caps := [c3.a] }],
        [{ c3.form 0x33 [srcRaw 1 c3.b c3.tag, srcRaw 2 c3.c c3.tag] with dV := [], dC := [c3.d], caps := [c3.a] }],
        [{ c3.form 0x34 [srcRaw 1 c3.b c3.tag] with dV := [], dC := [c3.d], caps := [c3.a] }], [{ { c3 with d := 2 }.form 0x35 [] with caps := [c3.a] }],
        [{ p5.form 0x36 [] with dV := [], dP := [p5.d], caps := [p5.a] }], [p3.form 0x80 [srcExact 0 p3.a p3.tag, srcRaw 1 p3.b (unsignedOf p3.tag.width)]],
        [p3.form 0x81 [srcExact 0 p3.a p3.tag]], [{ p5 with d := 2 }.form 0x82 []], [{ p5.form 0x83 [] with dV := [], dP := [p5.d] }], [p3.form 0x84 [srcAny 0 p3.a]],
        [p3.form 0x85 [spanSrc p3]], [p3.form 0x86 [spanSrc p3]], [p3.form 0x87 [spanSrc p3]], [p3.form 0x88 [spanSrc p3]]], Refuses sourSt fs false 1)
    ∧ (∀ fs ∈ [[i3.form 0x00 []], [i3.form 0x01 [srcWord 0 i3.a]], [i3.form 0x02 [srcWord 0 i3.a]], [i3.form 0x03 [srcSome 0 i3.a intTags]],
        [i3.form 0x04 [srcSome 0 i3.a intTags]], [{ i3.form 0x05 [srcWord 0 i3.a] with dV := [], dP := [i3.d] }], [i3.form 0x11 []],
        [{ i3.form 0x12 [srcRaw 0 i3.a .u64] with dV := [] }], [{ i3.form 0x13 [srcRaw 0 i3.a .u64] with dV := [] }], [i3.form 0x14 [srcWord 0 i3.a]]],
      Refuses sourSt fs false 1)
    ∧ (∀ fs ∈ [[matForm 0xA0 m3 [srcExact 0 m3.a m3.tag] (runNums m3.d (mRun m3)) []], [matForm 0xA1 m3 (srcsAB m3) (runNums m3.d (mRun m3)) []],
        [matForm 0xA2 m3 (srcsAB m3) (runNums m3.d (mRun m3)) []], [matForm 0xA3 m3 (srcsABC m3) (runNums m3.d (mRun m3)) []],
        [matForm 0xA4 m3 (srcsA m3) (runNums m3.d (mRun m3)) []], [matForm 0xA5 m3 (srcsA m3 ++ runSrcs m3.tag 1 m3.b (vRun m3)) (runNums m3.d (vRun m3)) []],
        [matForm 0xA6 m3 (srcsA m3) (runNums m3.d (mRun m3)) [m3.b]], [matForm 0xA7 m3 (srcsA m3) (runNums m3.d (mRun m3) ++ [m3.b]) [m3.c]],
        [matForm 0xA8 m3 (srcsA m3 ++ runSrcs m3.tag 1 m3.b (vRun m3) ++ []) (runNums m3.d (vRun m3)) []]], Refuses sourSt fs false 3)
    ∧ (∀ fs ∈ [PairOp.mov, .add, .sub, .mul, .min, .max, .abs, .neg, .and, .or, .xor, .not, .andn, .shl, .shr, .sar, .fadd, .fsub, .fmul, .fmin, .fmax,
        .fabs, .fneg].map fun op => [pairForm op [(8, h2.d), (8, h2.a), (9, hb.d), (9, hb.a)] h2, pairForm .fmin [] hb], Refuses sourSt fs false 1)
    ∧ (∀ fs ∈ [[w3.form 0x00 true true [] [w3.data]], [w3.form 0x01 true true [] [w3.data]], [w3.form 0x02 true true [srcAny 3 w3.data] []],
        [w3.form 0x04 true false [] [w3.data]], [w3.form 0x05 true false [srcAny 3 w3.data] []], [w3.form 0x30 true true [srcExact 3 w3.data w3.type] []],
        [w3.form 0x30 true false [srcExact 3 w3.data w3.type] []], [w3.form 0x31 true true [] [w3.data]], [w3.form 0x31 true false [] [w3.data]],
        [w3.form 0x32 true true [] (span w3.data (laneRun w3))], [w3.form 0x33 true true ((span w3.data (laneRun w3)).map fun r => srcAny 3 r) []],
        [{ w3.form 0x34 true true [] [] with dC := [w3.data] }], [{ w3.form 0x35 true true [] [] with caps := [w3.cap, w3.data] }],
        [w3.form 0x3A true true [] []]], Refuses sourSt fs true 1)
    ∧ (∀ fs ∈ (List.range 6).map fun k => [w3.form (0x18 + k) true true (atomSrcs k w3) []], Refuses sourSt fs true 1)
    ∧ (∀ fs ∈ [[w3.form 0x39 true true [] []]], Refuses sourSt fs false 1)
    ∧ (∀ fs ∈ [[{ guard := .always, regs := (p3.view 0xE4).regs, srcs := [srcWord 1 p3.b], caps := [p3.a] }],
        [{ guard := .always, regs := (p3.view 0xE4).regs, srcs := [srcWord 1 p3.b], caps := [] }]], Refuses sourSt fs true 1)
    ∧ (∀ f ∈ w3.form 0x03 true true [srcAny 3 w3.data] [] :: (List.range 8).flatMap fun k => [w3.form (0x10 + k) true true (atomSrcs k w3) [],
        w3.form (0x28 + k) true false (atomSrcs k w3) []], RefusesCommit sourSt f)
    ∧ (∀ fs ∈ (List.range 8).map fun k => [w3.form (0x28 + k) true false (atomSrcs k w3) []], Refuses sourSt fs true 1)
    ∧ (∀ f ∈ [{ guard := .always, regs := ({ p3 with d := 300 }.view 0xEB).regs, caps := [9] }], RefusesCommit sourSt f) := by
  and_intros <;> first | exact all_refuse (by decide +kernel) | exact commits_refuse (by decide +kernel)

/-- An effect on one register of each kind. -/
theorem witness_EffectFrame : let x := lane ready 0
    let e : Eff := { v := [(1, vr .u64 5)], p := [(2, true)], c := [(3, {})] }
    e.v = [(1, vr .u64 5)] ∧ 1 < x.v.length ∧ e.p = [(2, true)] ∧ 2 < x.p.length ∧ e.c = [(3, {})] ∧ 3 < x.c.length
      ∧ e.set = none ∧ e.ms = none ∧ e.off = false ∧ e.passed = false := by
  decide +kernel

/-- A word that changes registers alone, and the state it leaves. -/
theorem witness_RegisterFrame : (∃ g b, ready.current = some (g, b))
    ∧ (Eff.vec 1 .u64 0).inner ∧ ∃ t, exec (.add { add308 with tag := .u64, sat := false, a := 1, b := 1 }) ready = .next t :=
  ⟨⟨_, _, current_gb (by decide +kernel)⟩, ⟨rfl, rfl, rfl⟩, next_of (by decide +kernel)⟩

/-- A store of eight bytes, alone and with one that shares its entry. -/
def stored (is : List Item) (alt : Bool) : State := State.given { fullSt with items := is } { sub := 1, alt := alt }
def first8 : Item := item8 (.store [spot8] 7)

theorem witness_StoreFrame : ∀ f ∈ [(stored [first8] false, true), (stored [first8] true, true), (stored [first8, { first8 with id := 2, committed := some 1 }] false, false)],
    let s := f.1
    s.mem.wf = true ∧ (if s.sched.args.alt then s.outOfTurn s.sched.args.id s.sched.args.sub else s.nextItem s.sched.args.id) = some first8
      ∧ (∀ j ∈ s.itemsWith first8, j.psn = false ∧ (∃ ps data, j.eff = .store ps data) ∧ ∀ p ∈ j.eff.pieces, p.scratch = none ∧ p.peer = none)
      ∧ first8.eff = .store [spot8] 7 ∧ s.writeAddrs spot8 = [0x10000] ∧ (s.itemsWith first8 = [first8] ↔ f.2 = true)
      ∧ ∃ t, exec .storeBufferPerform s = .next t := by
  have h : ([(stored [first8] false, true), (stored [first8] true, true), (stored [first8, { first8 with id := 2, committed := some 1 }] false, false)].all fun f =>
    let s := f.1
    s.mem.wf && decide ((if s.sched.args.alt then s.outOfTurn s.sched.args.id s.sched.args.sub else s.nextItem s.sched.args.id) = some first8)
      && (s.itemsWith first8).all (fun j => !j.psn && j.eff == .store [spot8] 7)
      && decide (s.writeAddrs spot8 = [0x10000]) && decide (s.itemsWith first8 = [first8] ↔ f.2 = true) && isNext (exec .storeBufferPerform s)) = true := by
    decide +kernel
  intro f hf
  have h := List.all_eq_true.mp h f hf
  simp only [Bool.and_eq_true, decide_eq_true_eq, List.all_eq_true, Bool.not_eq_true', beq_iff_eq] at h
  obtain ⟨⟨⟨⟨⟨h1, h2⟩, h3⟩, h4⟩, h5⟩, h6⟩ := h
  refine ⟨h1, h2, fun j hj => ⟨(h3 j hj).1, ⟨_, _, (h3 j hj).2⟩, fun p hp => ?_⟩, rfl, h4, h5, next_of h6⟩
  rw [(h3 j hj).2] at hp
  revert p; decide

/-- A trap that finds a slot: of a thread that runs unpinned, of one that runs pinned, and in a group that waits on a translation fault. -/
def entering (k : Nat) : State :=
  let s := State.threads slotted fun x => { x with pinned := k == 1, fpflags := 5, fpsnap := 3 }
  { s with groups := s.groups.map fun g => { g with st := if k = 2 then .parked else g.st } }

theorem witness_TrapEntry : ∀ k ∈ List.range 3, let s := entering k
    ∃ b c x y, s.block? 1 = some b ∧ s.ctx? b.ctx = some c ∧ s.thread? 1 0 = some x ∧ x.handler = none
    ∧ (s.trapThread 1 0 cAssert 7 0).thread? 1 0 = some y ∧ y.st ≠ .trapWait
    ∧ (x.runsPinned = true ↔ k = 1) ∧ ((s.groupOf 1 0).any Group.gone = true ↔ k = 2) ∧ y.fpflags = if k = 0 then 3 else 5 := by
  have h : ((List.range 3).all fun k => let s := entering k
      (s.block? 1 == some (block1 s)) && (s.ctx? (block1 s).ctx == some (ctx1 s)) && (s.thread? 1 0 == some (lane s 0)) && (lane s 0).handler.isNone
      && decide (((lane s 0).runsPinned = true ↔ k = 1) ∧ ((s.groupOf 1 0).any Group.gone = true ↔ k = 2))
      && ((s.trapThread 1 0 cAssert 7 0).thread? 1 0).any fun y => decide (y.st ≠ .trapWait ∧ y.fpflags = if k = 0 then 3 else 5)) = true := by decide +kernel
  intro k hk
  have h := List.all_eq_true.mp h k hk
  simp only [Bool.and_eq_true, beq_iff_eq, Option.isNone_iff_eq_none, decide_eq_true_eq] at h
  obtain ⟨⟨⟨⟨⟨h1, h2⟩, h3⟩, h4⟩, h5⟩, h6⟩ := h
  obtain ⟨y, hy, h6⟩ := (Option.any_eq_true ..).mp h6
  have h6 := of_decide_eq_true h6
  exact ⟨_, _, _, y, h1, h2, h3, h4, hy, h6.1, h5.1, h5.2, h6.2⟩

/-- A thread of one block that gains one, and of two that releases one and gains it again. -/
theorem witness_ThreadStart : (Thread.start 0 1 0 []).v.length = 32 * (Thread.start 0 1 0 []).h
    ∧ (Thread.start 0 2 0 []).v.length = 32 * (Thread.start 0 2 0 []).h ∧ 1 ≤ (Thread.start 0 2 0 []).h := by
  decide +kernel

theorem witness_StepKeepsSafe : Safe (stepSt 0x00400100A0600108) ∧ ∃ t, step (stepSt 0x00400100A0600108) = .next t :=
  ⟨⟨by decide +kernel, by decide +kernel⟩, next_of (by decide +kernel)⟩

end Sys2Proof.Tests
end

/-! ### The fields of a capability (R9, R18 to R20) -/

namespace Sys2Proof.Machine

open Sys2Proof

theorem bits_lt (x lo n : Nat) : bits x lo n < 2 ^ n := Nat.mod_lt _ (Nat.two_pow_pos n)

theorem wrap_lt (w : Nat) (z : Int) : wrap w z < 2 ^ w := by
  have h : (0 : Int) < ((2 ^ w : Nat) : Int) := Int.natCast_pos.2 (Nat.two_pow_pos w)
  have h1 := Int.emod_lt_of_pos z h
  have h0 := Int.emod_nonneg z h.ne'
  simp only [wrap]
  omega

theorem CapReg.obj_lt (c : CapReg) : c.obj < 2 ^ 32 := bits_lt c.nat 96 32

theorem CapReg.rights_lt (c : CapReg) : c.rights < 2 ^ 8 := bits_lt c.nat 88 8

/-- The places of the fields of a capability in its 128 bits (R9). -/
def capBits (obj rights e lo hi pad cursor : Nat) : Nat :=
  obj * 2 ^ 96 + rights * 2 ^ 88 + e * 2 ^ 82 + lo * 2 ^ 73 + hi * 2 ^ 64 + pad * 2 ^ 48 + cursor

/-- Each field is read back from its place. -/
theorem CapReg.fields_capBits {c : CapReg} {obj rights e lo hi pad cursor : Nat}
    (h : c.bits = BitVec.ofNat 128 (capBits obj rights e lo hi pad cursor)) (ho : obj < 2 ^ 32) (hr : rights < 2 ^ 8)
    (he : e < 2 ^ 6) (hl : lo < 2 ^ 9) (hh : hi < 2 ^ 9) (hp : pad < 2 ^ 16) (hc : cursor < 2 ^ 48) :
    c.obj = obj ∧ c.rights = rights ∧ c.expo = e ∧ c.lo = lo ∧ c.hi = if hi = 0 then 512 else hi := by
  have hn : c.nat = capBits obj rights e lo hi pad cursor := by
    simp only [CapReg.nat, h, BitVec.toNat_ofNat]
    refine Nat.mod_eq_of_lt ?_
    simp only [capBits]
    omega
  have h64 : Machine.bits c.nat 64 9 = hi := by rw [hn]; simp only [Machine.bits, capBits]; omega
  refine ⟨?_, ?_, ?_, ?_, by simp only [CapReg.hi, h64]⟩ <;>
    simp only [CapReg.obj, CapReg.rights, CapReg.expo, CapReg.lo, hn, Machine.bits, capBits] <;> omega

/-- A capability of the same object and bounds, with no right of its own, grants nothing that the other does not. -/
theorem CapReg.within_of_fields {r p : CapReg} (ht : r.tag = true → p.tag = true) (ho : r.obj = p.obj)
    (hr : ∀ k, r.rights.testBit k = true → p.rights.testBit k = true) (hb : r.base = p.base) (htop : r.top = p.top) :
    r.within p :=
  fun t => ⟨ht t, ho, hr, fun _ h1 h2 => ⟨hb ▸ h1, htop ▸ h2⟩⟩

theorem CapReg.within_of_untagged {r p : CapReg} (h : r.tag = false) : r.within p := fun t => by simp [h] at t

/-- Fields above the cursor stand where the cursor alone is exchanged. -/
theorem bits_above_cursor {n c lo k : Nat} (hc : c < 2 ^ 48) (hlo : 48 ≤ lo) :
    bits (n / 2 ^ 48 * 2 ^ 48 + c) lo k = bits n lo k := by
  obtain ⟨d, rfl⟩ := Nat.exists_eq_add_of_le hlo
  have h : (n / 2 ^ 48 * 2 ^ 48 + c) / 2 ^ 48 = n / 2 ^ 48 := by omega
  simp only [bits, Nat.pow_add, ← Nat.div_div_eq_div_mul, h]

theorem CapReg.withCursor_nat (p : CapReg) (z : Int) : (p.withCursor z).nat = p.nat / 2 ^ 48 * 2 ^ 48 + wrap 48 z := by
  have h : p.nat < 2 ^ 128 := p.bits.isLt
  have hw := wrap_lt 48 z
  simp only [withCursor, CapReg.nat, BitVec.toNat_ofNat] at h ⊢
  exact Nat.mod_eq_of_lt (by omega)

/-- Another cursor leaves the object, the rights and the bounds (R19). -/
theorem CapReg.withCursor_within (p : CapReg) (z : Int) : (p.withCursor z).within p := by
  have hb : ∀ lo k, 48 ≤ lo → Machine.bits (p.withCursor z).nat lo k = Machine.bits p.nat lo k := fun lo k h => by
    rw [withCursor_nat, bits_above_cursor (wrap_lt 48 z) h]
  refine within_of_fields (fun t => (Bool.and_eq_true_iff.1 t).1) (hb 96 32 (by decide)) (fun k h => ?_) ?_ ?_
  · rwa [CapReg.rights, hb 88 8 (by decide)] at h
  · simp only [CapReg.base, CapReg.lo, CapReg.expo, hb 73 9 (by decide), hb 82 6 (by decide)]
  · simp only [CapReg.top, CapReg.hi, CapReg.expo, hb 64 9 (by decide), hb 82 6 (by decide)]

theorem CapReg.andRights_eq_capBits (p : CapReg) (m : Nat) : (p.andRights m).bits = BitVec.ofNat 128
    (capBits p.obj (p.rights &&& m) p.expo p.lo (Machine.bits p.nat 64 9) (Machine.bits p.nat 48 16) p.cursor) := by
  have h : Machine.bits p.nat 0 88 = p.expo * 2 ^ 82 + p.lo * 2 ^ 73 + Machine.bits p.nat 64 9 * 2 ^ 64
      + Machine.bits p.nat 48 16 * 2 ^ 48 + p.cursor := by
    simp only [CapReg.expo, CapReg.lo, CapReg.cursor, Machine.bits]
    omega
  simp only [andRights, capBits, h, Nat.add_assoc]

/-- A capability of the same fields but for the rights, which are among the other's, is within it (R19). -/
theorem CapReg.andRights_within (p : CapReg) (m : Nat) : (p.andRights m).within p := by
  have hr : p.rights &&& m < 2 ^ 8 := lt_of_le_of_lt Nat.and_le_left (bits_lt _ _ _)
  obtain ⟨h1, h2, h3, h4, h5⟩ := fields_capBits (p.andRights_eq_capBits m) p.obj_lt hr (bits_lt _ _ _) (bits_lt _ _ _)
    (bits_lt _ _ _) (bits_lt _ _ _) (bits_lt _ _ _)
  refine within_of_fields (fun t => by rwa [andRights] at t) h1 (fun k hk => ?_) (by rw [CapReg.base, h3, h4, CapReg.base])
    (by rw [CapReg.top, h3, h5, CapReg.top, CapReg.hi])
  rw [h2, Nat.testBit_and] at hk
  exact (Bool.and_eq_true_iff.1 hk).1

/-- The bounds that `csetbnd` finds cover the range, at an exponent no greater than any at which they fit (R20). -/
theorem boundsFrom_spec {b len : Nat} : ∀ {fuel e0 e lo hi : Nat}, boundsFrom b len fuel e0 = some (e, lo, hi) →
    e < e0 + fuel ∧ lo = b / 2 ^ e ∧ hi = (b + len + 2 ^ e - 1) / 2 ^ e ∧ lo ≤ 511 ∧ hi ≤ 512
    ∧ ∀ k, e0 ≤ k → b / 2 ^ k ≤ 511 → (b + len + 2 ^ k - 1) / 2 ^ k ≤ 512 → e ≤ k
  | 0, _, _, _, _, h => by simp [boundsFrom] at h
  | fuel + 1, e0, e, lo, hi, h => by
    rw [boundsFrom] at h
    split at h
    case isTrue hfit =>
      simp only [Option.some.injEq, Prod.mk.injEq] at h
      obtain ⟨rfl, rfl, rfl⟩ := h
      exact ⟨by omega, rfl, rfl, hfit.1, hfit.2, fun k hk _ _ => hk⟩
    case isFalse hfit =>
      obtain ⟨he, hl, hh, hl1, hh1, hmin⟩ := boundsFrom_spec h
      refine ⟨by omega, hl, hh, hl1, hh1, fun k hk h1 h2 => hmin k ?_ h1 h2⟩
      rcases Nat.lt_or_eq_of_le hk with hlt | rfl
      · exact hlt
      · exact absurd ⟨h1, h2⟩ hfit

/-- A multiple of 2^e from which a range starts lies below the range's start rounded down to 2^e, and one at which it ends
above its end rounded up. -/
theorem rounded_within {b n e E lo hi o : Nat} (heE : e ≤ E) (hb : lo * 2 ^ E ≤ b) (ht : n ≤ hi * 2 ^ E)
    (h1 : b / 2 ^ e * 2 ^ e ≤ o) (h2 : o < (n + 2 ^ e - 1) / 2 ^ e * 2 ^ e) : lo * 2 ^ E ≤ o ∧ o < hi * 2 ^ E := by
  obtain ⟨d, rfl⟩ := Nat.exists_eq_add_of_le heE
  have hpos : 0 < 2 ^ e := Nat.two_pow_pos e
  have hmul : ∀ k, k * 2 ^ (e + d) = k * 2 ^ d * 2 ^ e := fun k => by rw [Nat.pow_add]; ring
  rw [hmul] at hb ht ⊢
  rw [hmul hi]
  refine ⟨le_trans (Nat.mul_le_mul_right _ ((Nat.le_div_iff_mul_le hpos).2 hb)) h1, lt_of_lt_of_le h2 ?_⟩
  refine Nat.mul_le_mul_right _ (Nat.le_of_lt_succ ((Nat.div_lt_iff_lt_mul hpos).2 ?_))
  rw [Nat.succ_mul]
  omega

/-- The exponent of a capability that holds a range fits the range, so the bounds found lie within the capability's. -/
theorem CapReg.boundsFrom_expo_le {p : CapReg} {b len e lo hi : Nat} (h : boundsFrom b len 40 0 = some (e, lo, hi))
    (hlen : len ≠ 0) (hb : p.base ≤ b) (ht : b + len ≤ p.top) : e ≤ p.expo := by
  obtain ⟨-, -, -, -, -, hmin⟩ := boundsFrom_spec h
  have hpos : 0 < 2 ^ p.expo := Nat.two_pow_pos _
  have hhi : p.hi ≤ 512 := by
    have := bits_lt p.nat 64 9
    simp only [CapReg.hi]
    split <;> omega
  have htop : p.top ≤ 512 * 2 ^ p.expo := Nat.mul_le_mul_right _ hhi
  refine hmin _ (Nat.zero_le _) (Nat.le_of_lt_succ ?_) (Nat.le_of_lt_succ ?_)
  · rw [Nat.div_lt_iff_lt_mul hpos]; omega
  · rw [Nat.div_lt_iff_lt_mul hpos]; omega

/-- `csetbnd` never makes bounds that reach beyond those of its source (R18, R20). -/
theorem CapReg.setBounds_within (p : CapReg) (b len : Nat) : (p.setBounds b len).within p := by
  have hc : b % 2 ^ 48 < 2 ^ 48 := Nat.mod_lt _ (Nat.two_pow_pos 48)
  rw [setBounds]
  split_ifs with htag hrange hlen
  · exact within_of_untagged rfl
  · exact within_of_untagged rfl
  · obtain ⟨h1, h2, h3, h4, h5⟩ := fields_capBits (c := { bits := BitVec.ofNat 128 (p.obj * 2 ^ 96 + p.rights * 2 ^ 88
        + 2 ^ 73 + 2 ^ 64 + Machine.bits p.nat 48 16 * 2 ^ 48 + b % 2 ^ 48), tag := true }) (e := 0) (lo := 1) (hi := 1)
      (congrArg (BitVec.ofNat 128) (by simp only [capBits]; omega)) p.obj_lt p.rights_lt
      (by decide) (by decide) (by decide) (bits_lt p.nat 48 16) hc
    refine fun _ => ⟨by simpa using htag, h1, fun k hk => by rwa [h2] at hk, fun o hl hh => absurd hh ?_⟩
    simp only [CapReg.base, CapReg.top, h3, h4, h5, if_neg Nat.one_ne_zero] at hl ⊢
    omega
  · split
    case h_2 => exact within_of_untagged rfl
    case h_1 e lo hi hf =>
      obtain ⟨he, hlo, hhi, hlo1, hhi1, -⟩ := boundsFrom_spec hf
      have hpos : 0 < 2 ^ e := Nat.two_pow_pos e
      have hhi0 : 1 ≤ hi := by rw [hhi, Nat.le_div_iff_mul_le hpos]; omega
      obtain ⟨hb, ht⟩ : p.base ≤ b ∧ b + len ≤ p.top := by omega
      obtain ⟨h1, h2, h3, h4, h5⟩ := fields_capBits (c := { bits := BitVec.ofNat 128 (p.obj * 2 ^ 96 + p.rights * 2 ^ 88
          + e * 2 ^ 82 + lo * 2 ^ 73 + hi % 512 * 2 ^ 64 + Machine.bits p.nat 48 16 * 2 ^ 48 + b % 2 ^ 48), tag := true })
        rfl p.obj_lt p.rights_lt (by omega) (by omega) (by omega) (bits_lt p.nat 48 16) hc
      have h5' : (if hi % 512 = 0 then 512 else hi % 512) = hi := by split <;> omega
      refine fun _ => ⟨by simpa using htag, h1, fun k hk => by rwa [h2] at hk, fun o hl hh => ?_⟩
      simp only [CapReg.base, CapReg.top, h3, h4, h5, h5'] at hl hh
      rw [hlo] at hl
      rw [hhi] at hh
      exact rounded_within (boundsFrom_expo_le hf hlen hb ht) hb ht hl hh

/-- Settles O56: a cursor, masked rights and new bounds are each within the source. -/
theorem noWidening : Obligations.NoWidening := fun p =>
  ⟨CapReg.within_of_fields id rfl (fun _ h => h) rfl rfl, p.withCursor_within, p.andRights_within, p.setBounds_within⟩

end Sys2Proof.Machine

/-! ### Words that change registers alone, capability words (R313 to R315) -/

namespace Sys2Proof.Machine

open Sys2Proof

/-- A word of one form whose lanes do nothing but yield an effect on registers is a register word with that effect. -/
theorem registerWord_of_lane {i : Instr} {f : Form} {kind : Nat} {lane : LaneFn} {e : Thread → Eff}
    (hi : ∀ s, exec i s = laneWord [f] false kind lane s) (hl : ∀ s b act x, lane s b act x = (s, .ok (e x)))
    (he : ∀ x, (e x).inner) : RegisterWord i [f] kind fun _ _ _ x => e x := fun s _ b hc hu hp =>
  (hi s).trans (laneWord_register hc hu hp (fun x _ => hl s b _ x) he)

/-- The same word with its effect written in another way. -/
theorem RegisterWord.congr {i : Instr} {fs : List Form} {kind : Nat} {e e' : Thread → Eff}
    (h : RegisterWord i fs kind fun _ _ _ x => e x) (he : ∀ x, e x = e' x) : RegisterWord i fs kind fun _ _ _ x => e' x := by
  rwa [← funext he]

theorem Eff.inner_cap (d : Nat) (c : CapReg) : (capResult d c).inner := ⟨rfl, rfl, rfl⟩

theorem Eff.inner_pred (d : Nat) (v : Bool) : (predResult d v).inner := ⟨rfl, rfl, rfl⟩

/-- A word built by `capWord` writes the capability that its function gives, without poison. -/
theorem registerWord_of_capWord {i : Instr} {op : Nat} {srcs : List Src} {f : Thread → CapReg → CapReg} {w : Plain}
    (hi : ∀ s, exec i s = capWord op srcs f w s) {r : Thread → CapReg}
    (hr : ∀ x, { f x (x.creg w.a) with psn := false } = r x) :
    RegisterWord i [{ w.form op srcs with dV := [], dC := [w.d], caps := [w.a] }] 1 fun _ _ _ x => capResult w.d (r x) :=
  registerWord_of_lane hi (fun _ _ _ x => by rw [← hr x]; rfl) fun x => Eff.inner_cap w.d (r x)

theorem wrap_natCast (k n : Nat) : wrap k (n : Int) = n % 2 ^ k := by
  rw [wrap, ← Int.natCast_emod, Int.toNat_natCast]

/-- The cursor set to an unsigned operand (R313). -/
theorem CapReg.withCursor_natCast (c : CapReg) (n : Nat) : c.withCursor n =
    { bits := BitVec.ofNat 128 (c.nat / 2 ^ 48 * 2 ^ 48 + n % 2 ^ 48), tag := c.tag && decide (n < 2 ^ 48) } := by
  rw [withCursor, wrap_natCast, decide_eq_decide.2 (by omega : (0 : Int) ≤ n ∧ (n : Int) < (2 ^ 48 : Nat) ↔ n < 2 ^ 48)]

theorem testBit_bits (x lo n k : Nat) : (bits x lo n).testBit k = (decide (k < n) && x.testBit (lo + k)) := by
  rw [bits, Nat.testBit_mod_two_pow, Nat.testBit_div_two_pow, Nat.add_comm]

theorem getLsbD_rightsMask (v : Word) {j : Nat} (hj : j < 128) :
    (~~~(((~~~v).extractLsb' 0 8).setWidth 128 <<< 88)).getLsbD j = (decide (j < 88 ∨ 96 ≤ j) || v.getLsbD (j - 88)) := by
  simp only [BitVec.getLsbD_not, BitVec.getLsbD_shiftLeft, BitVec.getLsbD_setWidth, BitVec.getLsbD_extractLsb']
  rcases Nat.lt_or_ge j 88 with h | h
  · simp [h, hj]
  rcases Nat.lt_or_ge j 96 with h' | h'
  · simp [hj, show ¬ j < 88 by omega, show j - 88 < 8 by omega, show j - 88 < 128 by omega, show j - 88 < 64 by omega,
      show ¬ 96 ≤ j by omega]
  · simp [hj, show ¬ j < 88 by omega, show ¬ j - 88 < 8 by omega, h']

/-- Masked rights, bit by bit: the mask's complement is cleared at bits 88 to 95 (R9, R19). -/
theorem CapReg.andRights_eq (c : CapReg) (v : Word) : c.andRights (Machine.bits v.toNat 0 8) =
    { bits := c.bits &&& ~~~(((~~~v).extractLsb' 0 8).setWidth 128 <<< 88), tag := c.tag } := by
  rw [andRights]
  congr 1
  refine BitVec.eq_of_getLsbD_eq fun j hj => ?_
  have hlow := bits_lt c.nat 0 88
  have hr : c.rights &&& Machine.bits v.toNat 0 8 < 2 ^ 8 := lt_of_le_of_lt Nat.and_le_left c.rights_lt
  have hn : c.obj * 2 ^ 96 + (c.rights &&& Machine.bits v.toNat 0 8) * 2 ^ 88 + Machine.bits c.nat 0 88
      = 2 ^ 88 * (2 ^ 8 * c.obj + (c.rights &&& Machine.bits v.toNat 0 8)) + Machine.bits c.nat 0 88 := by omega
  rw [BitVec.getLsbD_ofNat, hn, Nat.testBit_two_pow_mul_add _ hlow, Nat.testBit_two_pow_mul_add _ hr, Nat.testBit_and,
    BitVec.getLsbD_and, getLsbD_rightsMask v hj, CapReg.obj, CapReg.rights, testBit_bits, testBit_bits, testBit_bits,
    testBit_bits, CapReg.nat, BitVec.testBit_toNat, BitVec.testBit_toNat, BitVec.testBit_toNat, BitVec.testBit_toNat]
  rcases Nat.lt_or_ge j 88 with h | h
  · simp [h, hj]
  rcases Nat.lt_or_ge j 96 with h' | h'
  · simp [hj, show ¬ j < 88 by omega, show j - 88 < 8 by omega, show 88 + (j - 88) = j by omega, show ¬ 96 ≤ j by omega]
  · simp [hj, show ¬ j < 88 by omega, show ¬ j - 88 < 8 by omega, show 96 + (j - 88 - 8) = j by omega, h',
      show j - 88 - 8 < 32 by omega]

/-- A test of rights asks for each of the low 8 bits of its operand (R315). -/
theorem CapReg.test_rights (c : CapReg) (v : Word) : c.test 1 v.toNat =
    (c.tag && (List.range 8).all fun k => !(v.getLsbD k) || c.rights.testBit k) := by
  have hbit : ∀ k, (v.toNat % 256).testBit k = (decide (k < 8) && v.getLsbD k) := Nat.testBit_mod_two_pow v.toNat 8
  refine congrArg (c.tag && ·) (Bool.eq_iff_iff.2 ?_)
  simp only [beq_iff_eq, List.all_eq_true, List.mem_range]
  constructor
  · intro h k hk
    have hk' := congrArg (Nat.testBit · k) h
    simp only [Nat.testBit_and, hbit, hk, decide_true, Bool.true_and, Bool.and_eq_left_iff_imp] at hk'
    cases hv : v.getLsbD k
    · rfl
    · exact hk' hv
  · refine fun h => Nat.eq_of_testBit_eq fun k => ?_
    rw [Nat.testBit_and, hbit, Bool.and_eq_left_iff_imp]
    intro hk
    simp only [Bool.and_eq_true, decide_eq_true_eq] at hk
    simpa [hk.2] using h k hk.1

/-- A range fits where the check of R14 with no right passes (R315). -/
theorem CapReg.test_fits (c : CapReg) (n : Nat) : c.test 2 n =
    (c.tag && c.wf && decide (c.base ≤ c.cursor) && decide (c.cursor + n ≤ c.top)) := by
  show (c.check c.cursor n []).isNone = _
  rw [check, wf]
  cases c.tag
  case false => rfl
  rcases Decidable.em (Machine.bits c.nat 48 16 = 0) with h0 | h0
  case inr => simp [h0]
  rcases Nat.lt_or_ge 39 c.expo with he | he
  · simp [h0, he]
  rw [Bool.eq_iff_iff]
  simp [h0, Nat.not_lt.2 he, he]
  omega

theorem execCget_register (w : Plain) : RegisterWord (.cget w) [{ w.form 0x35 [] with caps := [w.a] }] 1 fun _ _ _ x =>
    Eff.vec w.d .u64 (BitVec.ofNat 64 ((x.creg w.a).field w.opx)) :=
  registerWord_of_lane (fun _ => rfl) (fun _ _ _ _ => rfl) fun _ => Eff.inner_vec _ _ _

theorem execCtest_register (w : Plain) : RegisterWord (.ctest w)
    [{ w.form 0x36 (if w.opx = 1 ∨ w.opx = 2 then [srcRaw 1 w.b w.tag] else []) with dV := [], dP := [w.d], caps := [w.a] }]
    1 fun _ _ _ x => predResult w.d ((x.creg w.a).test w.opx (x.vreg w.b).val.toNat) :=
  registerWord_of_lane (fun _ => rfl) (fun _ _ _ _ => rfl) fun _ => Eff.inner_pred _ _

/-- Settles O5: each word is its function on the threads that pass. -/
theorem capabilityWords : Obligations.CapabilityWords := by
  refine ⟨fun w => registerWord_of_capWord (f := fun _ c => c) (fun _ => rfl) fun _ => rfl,
    fun w => registerWord_of_capWord (f := fun x c => c.withCursor ((c.cursor : Int) + (x.vreg w.b).val.toInt))
      (fun _ => rfl) fun _ => rfl,
    fun w => registerWord_of_capWord (f := fun x c => c.withCursor (x.vreg w.b).val.toNat) (fun _ => rfl) fun x => ?_,
    fun w => registerWord_of_capWord (f := fun x c => c.setBounds (x.vreg w.b).val.toNat (x.vreg w.c).val.toNat)
      (fun _ => rfl) fun _ => rfl,
    fun w => registerWord_of_capWord (f := fun x c => c.andRights (bits (x.vreg w.b).val.toNat 0 8)) (fun _ => rfl) fun x => ?_,
    fun w => (execCget_register w).congr fun x => ?_,
    fun w => (execCtest_register w).congr fun x => ?_⟩
  · rw [CapReg.withCursor_natCast]
  · rw [CapReg.andRights_eq]
  · split
    case h_7 => rw [CapReg.field] <;> assumption
    all_goals rename_i e; rw [e]; rfl
  · split
    case h_1 e => rw [e]; rfl
    case h_2 e => rw [e, CapReg.test_rights]
    case h_3 e => rw [e, CapReg.test_fits]
    case h_4 => rw [CapReg.test] <;> assumption

end Sys2Proof.Machine

/-! ### What a turn begins (R21, R231, R427) -/

namespace Sys2Proof.Machine

open Sys2Proof

/-- A turn that begins with an instruction or event ends with its outcome. -/
theorem step_of_run {s s0 s1 t : State} {u : Turn} {i : Instr} (hn : s.nextTurn = (u, s0)) (hb : beginTurn u s0 = .run i s1)
    (he : exec i s1 = .next t) : step s = .next (endTurn u t) := by
  simp only [step, hn, hb, he, finishTurn]

/-- The selector's group is issued: the word at its PC is what it performs. -/
theorem beginIssue_of_fetch {s s1 : State} {core part w : Nat} {g : Machine.Group} {sel : Part} {b : Block}
    (hsel : s.select core part = some (g, sel)) (hb : s.block? g.blk = some b)
    (hf : State.fetchWord { s.setSelector sel with sched := { s.sched with
        cur := g.gid, before := some ((s.selector core part).cur, (s.selector core part).run, (s.selector core part).ovd) } }
      b g.space g.pc = (s1, .ok w)) :
    beginIssue core part s = issueWord g b (g.issuers b) w s1 := by
  have hf' : State.fetchWord { s.setSelector sel with sched := { (s.setSelector sel).sched with
        cur := g.gid, before := some ((s.selector core part).cur, (s.selector core part).run, (s.selector core part).ovd) } }
      b g.space g.pc = (s1, .ok w) := hf
  simp only [beginIssue, hsel, hb, fetchGroup, hf']

/-- The region word does not take its threads past a boundary (R207). -/
theorem issueWord_rgn {g : Machine.Group} {b : Block} {xs : List Thread} {w : Nat} {r : Imm} {s : State}
    (h : decode w = .ok (.rgn r)) : issueWord g b xs w s = .run (.rgn r) (s.occupy g b (.rgn r)) := by
  simp only [issueWord, h]

/-- Every other word does. -/
theorem issueWord_of_not_rgn {g : Machine.Group} {b : Block} {xs : List Thread} {w : Nat} {i : Instr} {s : State}
    (h : decode w = .ok i) (hi : ∀ r, i ≠ .rgn r) : issueWord g b xs w s = .run i ((s.unbindAt b xs).occupy g b i) := by
  simp only [issueWord, h]

/-- The command at the head of the ring is read and its place given up (R427). -/
theorem beginCommand_of_decode {s : State} {i : Instr} (hne : s.link.cmdhead ≠ s.link.cmdtail) (hops : s.cellar.ops = [])
    (hreads : ∀ r ∈ s.cellar.reads, r.pgread = none)
    (hmem : s.memHas (s.link.cmdbase + 64 * (s.link.cmdhead % s.link.cmdCount)) 64 = true)
    (hup : s.poolDown (s.link.cmdbase + 64 * (s.link.cmdhead % s.link.cmdCount)) 64 = false)
    (hd : decodeCommand (s.mem.read (s.link.cmdbase + 64 * (s.link.cmdhead % s.link.cmdCount)) 64) = some i) :
    beginCommand s = .run i { s with link := { s.link with cmdhead := (s.link.cmdhead + 1) % 2 ^ 64 },
                                     sched := { s.sched with args := { id := s.link.cmdhead } } } := by
  have hnone : (s.cellar.reads.any fun r => r.pgread.isSome) = false :=
    List.any_eq_false.2 fun r hr => by simp [hreads r hr]
  simp [beginCommand, hne, hops, hnone, hmem, hup, hd]

/-- Settles O49: each turn begins with the instruction, event or command that is performed. -/
theorem stepRunsDecoded : Obligations.StepRunsDecoded := by
  refine ⟨fun s s0 s1 t core part w g sel b i hn hsel hb hf hd he => ?_,
    fun s s0 t e a hn he => step_of_run hn rfl he,
    fun s s0 t i hn hne hops hreads hmem hup hd he => step_of_run hn (beginCommand_of_decode hne hops hreads hmem hup hd) he⟩
  have hbegin := beginIssue_of_fetch hsel hb hf
  split at he
  case h_1 r => exact step_of_run hn (hbegin.trans (issueWord_rgn hd)) he
  case h_2 hi => exact step_of_run hn (hbegin.trans (issueWord_of_not_rgn hd hi)) he

end Sys2Proof.Machine

/-! ### What a performed store leaves alone (R70, R79, R80) -/

namespace Sys2Proof.Machine

open Sys2Proof

section
variable {s t u : State}

/-- Memory, blocks and the replicas are as they were. -/
structure Undisturbed (s t : State) : Prop where
  mem : t.mem = s.mem
  blocks : t.blocks = s.blocks
  replicas : t.caches.replicas = s.caches.replicas

theorem Undisturbed.refl (s : State) : Undisturbed s s := ⟨rfl, rfl, rfl⟩

theorem Undisturbed.trans (h : Undisturbed s t) (g : Undisturbed t u) : Undisturbed s u :=
  ⟨g.mem.trans h.mem, g.blocks.trans h.blocks, g.replicas.trans h.replicas⟩

theorem Undisturbed.foldl {α : Type} {f : State → α → State} (hf : ∀ t a, Undisturbed t (f t a)) :
    ∀ (l : List α) (s : State), Undisturbed s (l.foldl f s)
  | [], s => .refl s
  | a :: l, s => (hf s a).trans (foldl hf l (f s a))

theorem State.storeL1_undisturbed (s : State) (core : Nat) (p : Piece) (a n : Nat) : Undisturbed s (s.storeL1 core p a n) :=
  ⟨rfl, rfl, rfl⟩

theorem State.dropRemote_undisturbed (s : State) (a n : Nat) : Undisturbed s (s.dropRemote a n) := by
  have h := Undisturbed.foldl (f := fun s (x : Lent) =>
      s.send { peer := x.peer, obj := x.obj, off := x.off, len := 128, op := 8, data := 0 })
    (fun _ _ => ⟨rfl, rfl, rfl⟩) (s.caches.lent.filter fun x => (linesOf a n).contains x.line) s
  exact ⟨h.mem, h.blocks, h.replicas⟩

theorem State.noteHome_undisturbed (s : State) (die line sectors mask : Nat) :
    Undisturbed s (s.noteHome die line sectors mask) := by
  unfold State.noteHome
  dsimp only
  split <;> exact ⟨rfl, rfl, rfl⟩

theorem State.touchHome_undisturbed (s : State) (p : Piece) (a n : Nat) (w : Bool) : Undisturbed s (s.touchHome p a n w) := by
  unfold State.touchHome
  split
  · exact .foldl (fun t l => t.noteHome_undisturbed _ _ _ _) _ s
  · exact .refl s

theorem State.countRequests_undisturbed (s : State) (ctx core n : Nat) : Undisturbed s (s.countRequests ctx core n).1 := by
  unfold State.countRequests
  split <;> exact ⟨rfl, rfl, rfl⟩

theorem State.contactSheet_undisturbed (s : State) (uid tid pc : Nat) (p : Piece) (src : Nat) :
    Undisturbed s (s.contactSheet uid tid pc p src) := by
  unfold State.contactSheet
  split
  · exact .refl s
  · dsimp only [State.fileRecord]
    split <;> exact ⟨rfl, rfl, rfl⟩

theorem State.sampleItem_undisturbed (s : State) (i : Item) (others : List Piece) : Undisturbed s (s.sampleItem i others) := by
  unfold State.sampleItem
  split
  · dsimp only
    split
    · exact (s.countRequests_undisturbed _ _ _).trans (State.contactSheet_undisturbed _ _ _ _ _ _)
    · exact s.countRequests_undisturbed _ _ _
  · exact .refl s

theorem State.writeAddrs_congr (h : t.caches.replicas = s.caches.replicas) (p : Piece) : t.writeAddrs p = s.writeAddrs p := by
  unfold State.writeAddrs State.replicaDies State.replicaFrame State.replica
  rw [h]

/-- A change of a thread's watch alone. -/
def WatchOnly (f : Thread → Thread) : Prop := ∀ x, ∃ w, f x = { x with watch := w }

theorem WatchOnly.id : WatchOnly id := fun x => ⟨x.watch, rfl⟩

theorem WatchOnly.comp {f g : Thread → Thread} (hf : WatchOnly f) (hg : WatchOnly g) : WatchOnly (g ∘ f) := fun x => by
  obtain ⟨v, hv⟩ := hf x
  obtain ⟨w, hw⟩ := hg { x with watch := v }
  exact ⟨w, by rw [Function.comp_apply, hv, hw]⟩

/-- From one state to another, stores left every byte at a free place, and nothing changed in any block but threads' watches. -/
structure Stored (free : Nat → Prop) (s t : State) : Prop where
  wf : t.mem.wf = true
  byte : ∀ a, free a → t.mem.byte a = s.mem.byte a
  replicas : t.caches.replicas = s.caches.replicas
  blocks : ∃ f, WatchOnly f ∧ t.blocks = s.blocks.map fun b => b.updThreads f

variable {free : Nat → Prop}

theorem map_updThreads_id (bs : List Block) : (bs.map fun b => b.updThreads id) = bs := by
  simp [Block.updThreads]

theorem Stored.of_undisturbed (h : Undisturbed s t) (hw : s.mem.wf = true) : Stored free s t :=
  ⟨h.mem ▸ hw, fun _ _ => by rw [h.mem], h.replicas, id, .id, by rw [h.blocks, map_updThreads_id]⟩

theorem Stored.trans (h : Stored free s t) (g : Stored free t u) : Stored free s u := by
  obtain ⟨f1, w1, b1⟩ := h.blocks
  obtain ⟨f2, w2, b2⟩ := g.blocks
  refine ⟨g.wf, fun a ha => (g.byte a ha).trans (h.byte a ha), g.replicas.trans h.replicas, f2 ∘ f1, w1.comp w2, ?_⟩
  rw [b2, b1, List.map_map]
  exact List.map_congr_left fun b _ => by simp [Block.updThreads]

theorem State.trigger_stored (s : State) (scratch : Option Nat) (a n : Nat) (hw : s.mem.wf = true) :
    Stored free s (s.trigger scratch a n) := by
  refine ⟨hw, fun _ _ => rfl, rfl, _, fun x => ?_, rfl⟩
  split
  · split
    · exact ⟨_, rfl⟩
    · exact ⟨_, rfl⟩
  · exact ⟨_, rfl⟩

/-- Bytes put at one place of memory, with what the caches note of it. -/
def State.putAt (core : Option Nat) (p : Piece) (bs : List Byte) (s : State) (a : Nat) : State :=
  let s := { s with mem := s.mem.put a bs false }
  let s := match core with
    | some c => s.storeL1 c p a bs.length
    | none => s
  ((s.dropRemote a bs.length).touchHome p a bs.length true).trigger none a bs.length

theorem State.writePiece_eq_foldl_putAt {s : State} {core : Option Nat} {p : Piece} {bs : List Byte} (hs : p.scratch = none)
    (hp : p.peer = none) : s.writePiece core p bs = (s.writeAddrs p).foldl (State.putAt core p bs) s := by
  unfold State.writePiece
  rw [hs, hp]
  rfl

theorem State.putAt_eq_trigger (core : Option Nat) (p : Piece) (bs : List Byte) (s : State) (a : Nat) :
    ∃ u, Undisturbed { s with mem := s.mem.put a bs false } u ∧ s.putAt core p bs a = u.trigger none a bs.length := by
  refine ⟨_, ?_, rfl⟩
  refine Undisturbed.trans ?_ ((State.dropRemote_undisturbed _ _ _).trans (State.touchHome_undisturbed _ _ _ _ _))
  cases core with
  | none => exact .refl _
  | some c => exact State.storeL1_undisturbed _ _ _ _ _

theorem State.putAt_mem (core : Option Nat) (p : Piece) (bs : List Byte) (s : State) (a : Nat) :
    (State.putAt core p bs s a).mem = s.mem.write a bs := by
  obtain ⟨u, hu, h⟩ := State.putAt_eq_trigger core p bs s a
  rw [h]
  exact hu.mem

/-- Bytes put at one place leave every byte apart from the place. -/
theorem State.putAt_stored {core : Option Nat} {p : Piece} {bs : List Byte} {a : Nat} (hw : s.mem.wf = true)
    (hf : ∀ k, free k → k < a ∨ a + bs.length ≤ k) : Stored free s (State.putAt core p bs s a) := by
  obtain ⟨u, hu, h⟩ := State.putAt_eq_trigger core p bs s a
  have hwf : (s.mem.write a bs).wf = true := Mem.write_wf hw a bs
  have h1 : Stored free s { s with mem := s.mem.put a bs false } := by
    refine ⟨hwf, fun k hk => ?_, rfl, id, .id, by rw [map_updThreads_id]⟩
    have := hf k hk
    exact (Mem.byte_write hw a bs k).trans (if_neg (by omega))
  rw [h]
  exact (h1.trans (.of_undisturbed hu hwf)).trans (u.trigger_stored _ _ _ (hu.mem ▸ hwf))

theorem Stored.foldl {α : Type} {f : State → α → State} : ∀ {l : List α} {s : State}, s.mem.wf = true →
    (∀ a ∈ l, ∀ t, t.mem.wf = true → Stored free t (f t a)) → Stored free s (l.foldl f s)
  | [], _, hw, _ => .of_undisturbed (.refl _) hw
  | a :: _, s, hw, hf =>
    have h := hf a List.mem_cons_self s hw
    h.trans (foldl h.wf fun b hb => hf b (List.mem_cons_of_mem _ hb))

/-- A place is apart from every place at which a piece is written. -/
def State.apart (s : State) (p : Piece) (k : Nat) : Prop := ∀ q ∈ s.writeAddrs p, k < q ∨ q + p.len ≤ k

theorem Stored.apart {p : Piece} {k : Nat} (h : Stored free s t) (ha : s.apart p k) : t.apart p k := by
  unfold State.apart
  rwa [State.writeAddrs_congr h.replicas]

/-- A piece written in memory leaves every byte apart from its places. -/
theorem State.writePiece_stored {core : Option Nat} {p : Piece} {bs : List Byte} (hw : s.mem.wf = true) (hs : p.scratch = none)
    (hp : p.peer = none) (hl : bs.length ≤ p.len) (hf : ∀ k, free k → s.apart p k) :
    Stored free s (s.writePiece core p bs) := by
  rw [State.writePiece_eq_foldl_putAt hs hp]
  refine Stored.foldl hw fun a ha t ht => State.putAt_stored ht fun k hk => ?_
  have := hf k hk a ha
  omega

theorem State.writePieces_stored {core : Option Nat} : ∀ {ps : List Piece} {bs : List Byte} {s : State}, s.mem.wf = true →
    (∀ p ∈ ps, p.scratch = none ∧ p.peer = none) → (∀ p ∈ ps, ∀ k, free k → s.apart p k) →
    Stored free s (s.writePieces core ps bs)
  | [], _, _, hw, _, _ => .of_undisturbed (.refl _) hw
  | p :: ps, bs, s, hw, hp, hf => by
    obtain ⟨hs, hpeer⟩ := hp p List.mem_cons_self
    have h := State.writePiece_stored (core := core) (bs := bs.take p.len) hw hs hpeer (List.length_take_le _ _)
      (hf p List.mem_cons_self)
    exact h.trans (writePieces_stored h.wf (fun q hq => hp q (List.mem_cons_of_mem _ hq))
      fun q hq k hk => h.apart (hf q (List.mem_cons_of_mem _ hq) k hk))

/-- A store of pieces in this device's memory. -/
structure PlainStore (i : Item) : Prop where
  psn : i.psn = false
  eff : ∃ ps data, i.eff = .store ps data
  inMemory : ∀ p ∈ i.eff.pieces, p.scratch = none ∧ p.peer = none

/-- Nothing orders a plain store in a log. -/
theorem PlainStore.itemKey {i : Item} (h : PlainStore i) (s : State) : s.itemKey i = none := by
  obtain ⟨ps, data, he⟩ := h.eff
  unfold State.itemKey
  rw [he]
  cases s.block? i.blk <;> rfl

/-- A plain store is its pieces written, but for what the buffer and the debug unit note. -/
theorem PlainStore.performItem {i : Item} (h : PlainStore i) (s : State) : ∃ u, Undisturbed s u ∧
    Undisturbed (u.perform i.core i.eff) (s.performItem i) := by
  refine ⟨_, s.sampleItem_undisturbed i (s.otherLanes i), ?_⟩
  unfold State.performItem
  dsimp only
  rw [h.psn, h.itemKey]
  split <;> exact ⟨rfl, rfl, rfl⟩

theorem PlainStore.performItem_stored {i : Item} (h : PlainStore i) (hw : s.mem.wf = true)
    (hf : ∀ p ∈ i.eff.pieces, ∀ k, free k → s.apart p k) : Stored free s (s.performItem i) := by
  obtain ⟨u, hu, hi⟩ := h.performItem s
  have h1 : Stored free s u := .of_undisturbed hu hw
  have h2 : Stored free u (u.perform i.core i.eff) := by
    obtain ⟨ps, data, he⟩ := h.eff
    have hl := h.inMemory
    rw [he] at hf hl ⊢
    exact State.writePieces_stored h1.wf hl fun p hp k hk => h1.apart (hf p hp k hk)
  exact (h1.trans h2).trans (.of_undisturbed hi h2.wf)

/-- The stores of an entry of the buffer, one after another. -/
theorem State.runWord_stored {js : List Item} {r : State} : ∀ {s : State}, s.mem.wf = true → (∀ j ∈ js, PlainStore j) →
    (∀ j ∈ js, ∀ p ∈ j.eff.pieces, ∀ k, free k → s.apart p k) → Stored free s (State.runWord (r.itemLanes js) s) := by
  induction js with
  | nil => exact fun hw _ _ => .of_undisturbed (.refl _) hw
  | cons j js ih =>
    intro s hw hj hf
    have h := (hj j List.mem_cons_self).performItem_stored hw (hf j List.mem_cons_self)
    have e : State.runWord (r.itemLanes (j :: js)) s = State.runWord (r.itemLanes js) (s.performItem j) := by
      rw [State.itemLanes, List.map_cons, (hj j List.mem_cons_self).itemKey]
      rfl
    rw [e]
    exact h.trans (ih h.wf (fun k hk => hj k (List.mem_cons_of_mem _ hk))
      fun k hk p hp a ha => h.apart (hf k (List.mem_cons_of_mem _ hk) p hp a ha))

/-- Of pieces in memory, a whole granule becomes clean, and no byte changes. -/
theorem State.mend_stored {core : Nat} {ps : List Piece} (hw : s.mem.wf = true) (hp : ∀ p ∈ ps, p.scratch = none) :
    Stored free s (s.mend core ps) := by
  refine ⟨Mem.dropPoison_wf hw _, fun _ _ => rfl, rfl, id, .id, ?_⟩
  refine List.map_congr_left fun b _ => ?_
  have h : (ps.filter fun p => p.scratch == some b.uid) = [] :=
    List.filter_eq_nil_iff.2 fun p hp' => by simp [hp p hp']
  simp [h, Block.updThreads]

/-- The pieces that a plain store leaves clean are its pieces. -/
theorem PlainStore.stores_eq {i : Item} (h : PlainStore i) : i.eff.stores = i.eff.pieces := by
  obtain ⟨ps, data, he⟩ := h.eff
  rw [he]
  rfl

/-- An entry of plain stores is its stores, one after another, and what they cover made clean. -/
theorem State.performEntry_eq {i : Item} (h : ∀ j ∈ s.itemsWith i, PlainStore j) : s.performEntry i =
    (State.runWord (s.itemLanes (s.itemsWith i)) (s.lockItems (s.itemsWith i))).mend i.core
      ((s.itemsWith i).flatMap fun j => j.eff.stores) := by
  have hpsn : ((s.itemsWith i).any Item.psn) = false := List.any_eq_false.2 fun j hj => by simp [(h j hj).psn]
  unfold State.performEntry
  dsimp only
  rw [hpsn]
  rfl

theorem State.performEntry_stored {i : Item} (hw : s.mem.wf = true) (h : ∀ j ∈ s.itemsWith i, PlainStore j)
    (hf : ∀ j ∈ s.itemsWith i, ∀ p ∈ j.eff.pieces, ∀ k, free k → s.apart p k) : Stored free s (s.performEntry i) := by
  have hlock : Undisturbed s (s.lockItems (s.itemsWith i)) := ⟨rfl, rfl, rfl⟩
  have h0 : Stored free s (s.lockItems (s.itemsWith i)) := .of_undisturbed hlock hw
  have h1 := h0.trans (State.runWord_stored (r := s) h0.wf h fun j hj p hp k hk => h0.apart (hf j hj p hp k hk))
  rw [State.performEntry_eq h]
  refine h1.trans (State.mend_stored h1.wf fun p hp => ?_)
  obtain ⟨j, hj, hp⟩ := List.mem_flatMap.1 hp
  rw [(h j hj).stores_eq] at hp
  exact ((h j hj).inMemory p hp).1

theorem natToBytes_length : ∀ n v : Nat, (natToBytes n v).length = n
  | 0, _ => rfl
  | n + 1, v => by rw [natToBytes, List.length_cons, natToBytes_length n]

/-- A piece of one place is written there. -/
theorem State.writePiece_mem {core : Option Nat} {p : Piece} {bs : List Byte} {q : Nat} (hs : p.scratch = none)
    (hp : p.peer = none) (hq : s.writeAddrs p = [q]) : (s.writePiece core p bs).mem = s.mem.write q bs := by
  rw [State.writePiece_eq_foldl_putAt hs hp, hq]
  exact State.putAt_mem core p bs s q

/-- A plain store of one place that goes alone leaves its data there. -/
theorem State.performEntry_bytes {i : Item} {p : Piece} {q data : Nat} (hw : s.mem.wf = true) (h : PlainStore i)
    (hi : s.itemsWith i = [i]) (he : i.eff = .store [p] data) (hq : s.writeAddrs p = [q]) :
    (s.performEntry i).mem.bytes q p.len = natToBytes p.len data := by
  have hall : ∀ j ∈ s.itemsWith i, PlainStore j := fun j hj => by
    rw [hi, List.mem_singleton] at hj
    rwa [hj]
  obtain ⟨u, hu, hperf⟩ := h.performItem (s.lockItems [i])
  obtain ⟨hs, hp⟩ := h.inMemory p (by rw [he]; exact List.mem_singleton_self p)
  have hmem : ((s.lockItems [i]).performItem i).mem = s.mem.write q (natToBytes p.len data) := by
    rw [hperf.mem, he]
    have hqu : u.writeAddrs p = [q] := (State.writeAddrs_congr hu.replicas p).trans hq
    have hlen : natToBytes (lenOf [p]) data = natToBytes p.len data := by simp [lenOf]
    have htake : (natToBytes p.len data).take p.len = natToBytes p.len data :=
      List.take_of_length_le (natToBytes_length _ _).le
    show (u.writePiece (some i.core) p ((natToBytes (lenOf [p]) data).take p.len)).mem = _
    rw [hlen, htake, State.writePiece_mem hs hp hqu, hu.mem]
    rfl
  have hlanes : State.runWord (s.itemLanes [i]) (s.lockItems [i]) = (s.lockItems [i]).performItem i := by
    rw [State.itemLanes, List.map_cons, h.itemKey]
    rfl
  have hbytes := Mem.bytes_write hw q (natToBytes p.len data)
  rw [natToBytes_length] at hbytes
  rw [State.performEntry_eq hall, hi, hlanes]
  show ((s.lockItems [i]).performItem i).mem.bytes q p.len = _
  rw [hmem, hbytes]

/-- Stores leave a block as it was but for its threads. -/
theorem Stored.blocks_frame (h : Stored free s t) :
    (t.blocks.map fun b => { b with threads := [] }) = (s.blocks.map fun b => { b with threads := [] }) := by
  obtain ⟨f, -, hb⟩ := h.blocks
  rw [hb, List.map_map]
  rfl

theorem WatchOnly.tid_eq {f : Thread → Thread} (hf : WatchOnly f) (x : Thread) : (f x).tid = x.tid := by
  obtain ⟨w, hw⟩ := hf x
  rw [hw]

/-- And a thread as it was but for its watch. -/
theorem Stored.thread_frame (h : Stored free s t) {uid tid : Nat} {x : Thread} (hx : s.thread? uid tid = some x) :
    ∃ y, t.thread? uid tid = some y ∧ y = { x with watch := y.watch } := by
  obtain ⟨f, hf, hb⟩ := h.blocks
  have ht : t.thread? uid tid = (s.thread? uid tid).map f := by
    have hu : ((fun b : Block => b.uid == uid) ∘ fun b : Block => b.updThreads f) = fun b => b.uid == uid := rfl
    have hk : ((fun x : Thread => x.tid == tid) ∘ f) = fun x => x.tid == tid := funext fun x => by
      rw [Function.comp_apply, hf.tid_eq]
    unfold State.thread? State.block?
    rw [hb, List.find?_map, hu]
    cases s.blocks.find? fun b => b.uid == uid with
    | none => rfl
    | some b =>
      show (b.threads.map f).find? _ = (b.threads.find? _).map f
      rw [List.find?_map, hk]
  obtain ⟨w, hw⟩ := hf x
  exact ⟨f x, by rw [ht, hx]; rfl, by rw [hw]⟩

end

/-- Settles O54: the stores of an entry are pieces written one after another, each of which changes the bytes of its places
alone. -/
theorem storeFrame : Obligations.StoreFrame := by
  intro s t i hw hnext hplain he
  have hp : ∀ j ∈ s.itemsWith i, PlainStore j := fun j hj =>
    let ⟨hpsn, heff, hmem⟩ := hplain j hj
    ⟨hpsn, heff, hmem⟩
  have hx : exec .storeBufferPerform s = .next (s.performEntry i) := by
    show execStoreBufferPerform s = _
    unfold execStoreBufferPerform
    dsimp only
    rw [hnext]
  obtain rfl : s.performEntry i = t := by
    rw [hx] at he
    exact Host.Outcome.next.inj he
  have hst := State.performEntry_stored
    (free := fun a => ∀ j ∈ s.itemsWith i, ∀ p ∈ j.eff.pieces, ∀ q ∈ s.writeAddrs p, a < q ∨ q + p.len ≤ a) hw hp
    fun j hj p hpp k hk => hk j hj p hpp
  refine ⟨hst.byte, fun p q data hi heff hq => ?_, hst.blocks_frame, fun u tid x hx => hst.thread_frame hx⟩
  exact State.performEntry_bytes hw (hp i (by rw [hi]; exact List.mem_singleton_self i)) hi heff hq

end Sys2Proof.Machine

/-! ### The Cellar (R36, R85 to R96) -/

namespace Sys2Proof.Machine

open Sys2Proof

/-- A command whose completion record has its place completes (R427). -/
theorem State.finishCommand_of_room {s : State} {idx : Nat} (h : s.cplRoom idx) (op status d1 : Nat) :
    s.finishCommand idx op status d1 = .next (s.cmdDone idx op status d1) := by
  obtain ⟨hmem, hup⟩ := h
  simp [State.finishCommand, State.cmdDone, hmem, hup]

/-! #### The page launch unit -/

/-- What the page launch unit needs before it takes an entry (R36, R223). -/
structure ReadsPages (s : State) (l : Launch) : Prop where
  launch : s.launch? s.sched.args.id = some l
  st : l.st = .released
  paged : l.paged = true
  running : l.cancelled = false
  slot : s.slotsUsed < 4096
  first : s.slotGoes l = true

theorem ReadsPages.next_entry {s : State} {l : Launch} (h : ReadsPages s l) (hok : s.sched.args.ok = false)
    (hleft : l.nextEntry < l.nblk) :
    exec .pageReadStart s = s.readEntry l l.nextEntry (s.sched.args.sub % 8) s.sched.args.alt := by
  obtain ⟨hl, hst, hpaged, hrun, hslot, hfirst⟩ := h
  show execPageReadStart s = _
  simp [execPageReadStart, hl, hst, hpaged, hrun, Nat.not_le.2 hslot, hfirst, hok, hleft]

theorem ReadsPages.held_entry {s : State} {l : Launch} (h : ReadsPages s l) (hok : s.sched.args.ok = true)
    (hheld : (l.held.filter fun h => h.1 == s.sched.args.tid) = [(s.sched.args.tid, 0)]) :
    exec .pageReadStart s = s.resumeEntry l s.sched.args.tid (s.sched.args.sub % 8) s.sched.args.alt := by
  obtain ⟨hl, hst, hpaged, hrun, hslot, hfirst⟩ := h
  show execPageReadStart s = _
  simp [execPageReadStart, hl, hst, hpaged, hrun, Nat.not_le.2 hslot, hfirst, hok, hheld]

/-- An entry that is read goes on to the page map with the page number that it holds. -/
theorem State.readEntry_of_read {s t : State} {l : Launch} {i die : Nat} {join : Bool} {bs : List Byte} {psn : List Bool}
    (h : s.agentRead die l.ctx l.list.obj (l.list.cursor + 4 * i) 4 opLoad = (t, .ok bs psn)) :
    s.readEntry l i die join = (t.notePage l.id i (bytesToNat bs)).mapEntry l i (bytesToNat bs) die join := by
  simp only [State.readEntry, h]

theorem State.resumeEntry_of_read {s : State} {l : Launch} {i die : Nat} {join : Bool} {b : Block} (hr : l.read.contains i = true)
    (hb : s.entryBlock l.id i = some b) : s.resumeEntry l i die join = s.mapEntry l i b.pgno die join := by
  simp only [State.resumeEntry, if_pos hr, hb]

/-- A page that the capability of the Cellar does not cover is INVALID. -/
theorem State.mapEntry_of_refused {s : State} {l : Launch} {i p die : Nat} {join : Bool}
    (h : (l.cellar.check ((p * 16384 : Nat) : Int) 16384 [30]).isSome = true) :
    s.mapEntry l i p die join = .next (s.invalidEntry l.id i p) := if_pos h

/-- A page whose map entry is good has a read of its own, where none is joined. -/
theorem State.mapEntry_of_mapped {s u : State} {l : Launch} {i p die m : Nat} {e : List Nat} {b : Block}
    (hc : l.cellar.check ((p * 16384 : Nat) : Int) 16384 [30] = none)
    (hw : walk s none die l.ctx l.cellar.obj (p * 16384) 16384 opCopySrc = (u, .cellar e m)) (hm : bitAt m 0 = true)
    (hbad : u.badMapEntry m = false) (hb : u.entryBlock l.id i = some b) :
    s.mapEntry l i p die false = .next ((u.updLaunch l.id fun k => k.taken i).startRead (bits m 8 30) (bits m 38 3) fun r =>
      { r with users := [b.uid] }).1 := by
  simp only [State.mapEntry, hc, hw, hm, hbad, hb]
  rfl

/-! #### The stages of a read -/

theorem State.maySense_iff (s : State) (r : PageRead) : s.maySense r = true ↔ r.stage = .queued ∧ s.dieReady r = true
    ∧ (s.inStage (pageChannel r.page) fun t => t == .buffered).length < 8 := by
  simp [State.maySense, and_assoc]

theorem execSenseDone_starts {s : State} {r : PageRead} (hr : s.read? s.sched.args.id = some r) (halt : s.sched.args.alt = true)
    (hm : s.maySense r = true) : exec .senseDone s = .next (s.updRead r.id fun r => { r with stage := .sensing }) := by
  show execSenseDone s = _
  simp [execSenseDone, hr, halt, hm]

theorem execSenseDone_ends {s : State} {r : PageRead} (hr : s.read? s.sched.args.id = some r) (halt : s.sched.args.alt = false)
    (hm : r.stage = .sensing ∨ s.maySense r = true) :
    exec .senseDone s = .next (s.updRead r.id fun r => { r with stage := .sensed, stamp := s.sched.now }) := by
  show execSenseDone s = _
  simp [execSenseDone, hr, halt, hm]

theorem execTransferDone_of_first {s : State} {r : PageRead} (hr : s.read? s.sched.args.id = some r) (hst : r.stage = .sensed)
    (hfirst : ∀ q ∈ s.inStage (pageChannel r.page) fun t => t == .sensed,
      r.stamp ≤ q.stamp ∧ (q.stamp = r.stamp → pageDie r.page ≤ pageDie q.page))
    (hroom : (s.inStage (pageChannel r.page) fun t => t == .transferred || t == .corrected).length < 4) :
    exec .transferDone s = .next (s.updRead r.id fun r => { r with stage := .transferred }) := by
  have hnone : ((s.inStage (pageChannel r.page) fun t => t == .sensed).any fun q =>
      decide (q.stamp < r.stamp) || (q.stamp == r.stamp && decide (pageDie q.page < pageDie r.page))) = false := by
    refine List.any_eq_false.2 fun q hq => ?_
    obtain ⟨h1, h2⟩ := hfirst q hq
    simp only [Bool.or_eq_true, Bool.and_eq_true, decide_eq_true_eq, beq_iff_eq]
    omega
  show execTransferDone s = _
  simp only [execTransferDone, hr, hst, hnone]
  simp [Nat.not_le.2 hroom]

theorem execCorrectionDone_retries {s : State} {r : PageRead} {c : CellarPage} (hr : s.read? s.sched.args.id = some r)
    (hst : r.stage = .transferred) (hc : s.cellarPage r.page = some c) (hbad : ¬(s.sched.args.ok = true ∧ c.readable = true))
    (htried : r.tried < 8) : exec .correctionDone s = .next (s.updRead r.id fun r =>
      { r with level := (r.level + 1) % 8, tried := r.tried + 1, stage := .queued }) := by
  show execCorrectionDone s = _
  simp only [execCorrectionDone, hr, hst, hc, Bool.and_eq_true, if_neg hbad, if_neg (Nat.not_le.2 htried)]
  rfl

theorem execCorrectionDone_succeeds {s : State} {r : PageRead} {c : CellarPage} (hr : s.read? s.sched.args.id = some r)
    (hst : r.stage = .transferred) (hc : s.cellarPage r.page = some c) (hok : s.sched.args.ok = true) (hread : c.readable = true) :
    exec .correctionDone s = s.endCorrection r (if r.tried = 1 then 0 else 1) c.data := by
  show execCorrectionDone s = _
  simp [execCorrectionDone, hr, hst, hc, hok, hread]

/-- A corrected page that no PGREAD waits for stays where a block waits for it. -/
theorem State.endCorrection_of_corrected {s : State} {r : PageRead} {code : Nat} {data : List Host.Cell} (hcode : code < 2)
    (hp : r.pgread = none) : s.endCorrection r code data = .next (if r.users.isEmpty then (s.pageOutcome r code data).dropRead r.id
      else (s.pageOutcome r code data).updRead r.id fun q =>
        { q with stage := if (s.inStage (pageChannel r.page) fun t => t == .buffered).length < 8 then .buffered else .corrected,
                 code := code, data := data, cmds := [], pgread := none }) := by
  simp only [State.endCorrection, State.endPgread, hp, hcode, decide_true, Bool.true_and]
  cases r.users.isEmpty <;> rfl

theorem execPageBufferEnter_of_room {s : State} {r : PageRead} (hr : s.read? s.sched.args.id = some r) (hst : r.stage = .corrected)
    (hroom : (s.inStage (pageChannel r.page) fun t => t == .buffered).length < 8) :
    exec .pageBufferEnter s = .next (s.updRead r.id fun r => { r with stage := .buffered }) := by
  show execPageBufferEnter s = _
  simp only [execPageBufferEnter, hr, hst, if_neg (Nat.not_le.2 hroom)]
  rfl

theorem execPageDelivery_of_placed {s : State} {r : PageRead} {b : Block} (hr : s.read? s.sched.args.id = some r)
    (hb : s.block? s.sched.args.tid = some b) (hst : r.stage = .buffered) (huser : r.users.contains b.uid = true)
    (hclear : b.st = .clearing) (hland : b.landed = false) :
    exec .pageDelivery s = .next (
      if (r.users.filter fun u => u != b.uid).isEmpty then
        (s.updBlock b.uid fun b => { b with scr := setCells 0 (pageBytes r.data) b.scr, landed := true }).dropRead r.id
      else (s.updBlock b.uid fun b => { b with scr := setCells 0 (pageBytes r.data) b.scr, landed := true }).updRead r.id fun q =>
        { q with users := r.users.filter fun u => u != b.uid }) := by
  show execPageDelivery s = _
  simp only [execPageDelivery, hr, hb, hst, huser, hclear, hland]
  rfl

/-! #### Programs and erasures -/

/-- The flash command leaves the controller. -/
def State.dropOp (s : State) (f : FlashOp) : State :=
  { s with cellar := { s.cellar with ops := s.cellar.ops.filter fun g => g.id != f.id } }

theorem execPgmEraseComplete_of_program {s : State} {f : FlashOp}
    (hf : (s.cellar.ops.find? fun f => f.id == s.sched.args.id) = some f) (hready : s.opReady f = true) (hp : f.program = true)
    (hsrc : s.hbmHas f.source 16384 = true) :
    let failed := s.sched.args.alt || (s.cellarPage f.target).isSome
    let data := if failed then [] else setCells 0 (s.mem.bytes f.source 16384) []
    exec .pgmEraseComplete s = ((s.dropOp f).setPage f.target
      (some { page := f.target, readable := !failed, data := data })).finishCommand f.cmd 0x09 (if failed then 3 else 0) 0 := by
  show execPgmEraseComplete s = _
  simp only [execPgmEraseComplete, hf, hready, hp, hsrc]
  rfl

theorem execPgmEraseComplete_of_erase {s : State} {f : FlashOp}
    (hf : (s.cellar.ops.find? fun f => f.id == s.sched.args.id) = some f) (hready : s.opReady f = true) (hp : f.program = false)
    (halt : s.sched.args.alt = false) :
    exec .pgmEraseComplete s = ({ s.dropOp f with cellar := { (s.dropOp f).cellar with
      pages := (s.dropOp f).cellar.pages.filter fun p => eraseBlock p.page != f.target } }).finishCommand f.cmd 0x0A 0 0 := by
  show execPgmEraseComplete s = _
  simp only [execPgmEraseComplete, hf, hready, hp, halt]
  rfl

/-- Settles O38, stage by stage. -/
theorem cellarPages : Obligations.CellarPages := by
  refine ⟨?_, ?_, ?_, ?_, ?_, ?_, ?_, ?_, ?_, ?_⟩
  · intro s t l bs psn hl hst hpaged hrun hslot hok hleft hfirst hread hbad
    have h : ReadsPages s l := ⟨hl, hst, hpaged, hrun, hslot, hfirst⟩
    rw [h.next_entry hok hleft, State.readEntry_of_read hread, State.mapEntry_of_refused hbad]
  · intro s t u l b bs psn e m hl hst hpaged hrun hslot hok halt hleft hfirst hread p hc hw hm hbad hb
    have h : ReadsPages s l := ⟨hl, hst, hpaged, hrun, hslot, hfirst⟩
    rw [h.next_entry hok hleft, State.readEntry_of_read hread, halt, State.mapEntry_of_mapped hc hw hm hbad hb]
  · intro s l b i hl hst hpaged hrun hslot hfirst hok hheld hread hb
    have h : ReadsPages s l := ⟨hl, hst, hpaged, hrun, hslot, hfirst⟩
    rw [h.held_entry hok hheld, State.resumeEntry_of_read hread hb]
  · intro s r hr free
    exact ⟨fun halt hfree => execSenseDone_starts hr halt ((s.maySense_iff r).2 hfree),
      fun halt h => execSenseDone_ends hr halt (h.imp_right (s.maySense_iff r).2)⟩
  · intro s r hr hst hfirst hroom
    exact execTransferDone_of_first hr hst hfirst hroom
  · intro s r c hr hst hc hbad htried
    exact execCorrectionDone_retries hr hst hc hbad htried
  · intro s r c hr hst hc hok hread hp
    have hcode : (if r.tried = 1 then 0 else 1) < 2 := by split <;> decide
    exact (execCorrectionDone_succeeds hr hst hc hok hread).trans (State.endCorrection_of_corrected hcode hp)
  · intro s r hr hst hroom
    exact execPageBufferEnter_of_room hr hst hroom
  · intro s r b hr hb hst huser hclear hland
    exact execPageDelivery_of_placed hr hb hst huser hclear hland
  · intro s f hf hready
    exact ⟨fun hp hsrc hroom => (execPgmEraseComplete_of_program hf hready hp hsrc).trans (State.finishCommand_of_room hroom _ _ _),
      fun hp halt hroom => (execPgmEraseComplete_of_erase hf hready hp halt).trans (State.finishCommand_of_room hroom _ _ _)⟩

end Sys2Proof.Machine

/-! ## Memory and scratch stay canonical (R22, R62)

`Safe` is kept by every operation of the state. What an operation leaves of it is said once, in a lemma `Safe.<operation>` that
its callers cite: most operations leave memory and the blocks as they are, or write them by the operations of memory and of a
block, whose lemmas come first. The lemmas stand in the order of the model's files, up to `step`. -/

namespace Sys2Proof

open Sys2Proof.Machine

/-- An outcome whose next state, where it has one, is safe. -/
def SafeOut : Out → Prop
  | .next t => Safe t
  | _ => True

/-- A state that may be absent, safe where it is present. -/
def SafeOpt : Option State → Prop
  | some t => Safe t
  | none => True

/-- The same for a state with something beside it. -/
def SafeOptFst {α : Type} : Option (State × α) → Prop
  | some r => Safe r.1
  | none => True

/-- A turn begins from a safe state, or ends in one. -/
def SafeBegun : Begun → Prop
  | .run _ t => Safe t
  | .done o => SafeOut o

section
variable {s t : State} {α β : Type}

/-! ### Steps of reasoning -/

protected theorem Safe.mem_wf (hs : Safe s) : s.mem.wf = true := hs.1

/-- Every part of the state but memory and the blocks may change. -/
protected theorem Safe.frame (hs : Safe s) (hm : t.mem = s.mem) (hb : t.blocks = s.blocks) : Safe t := by
  unfold Safe; rw [hm, hb]; exact hs

protected theorem Safe.withMem (hs : Safe s) (hm : t.mem.wf = true) (hb : t.blocks = s.blocks) : Safe t :=
  ⟨hm, by rw [hb]; exact hs.2⟩

protected theorem Safe.mapBlocks {f : Block → Block} (hs : Safe s) (hm : t.mem = s.mem) (hb : t.blocks = s.blocks.map f)
    (hf : ∀ b, scratchCanonical b = true → scratchCanonical (f b) = true) : Safe t := by
  refine ⟨hm ▸ hs.1, fun b hmem => ?_⟩
  rw [hb] at hmem
  obtain ⟨c, hc, rfl⟩ := List.mem_map.1 hmem
  exact hf c (hs.2 c hc)

protected theorem Safe.filterBlocks {p : Block → Bool} (hs : Safe s) (hm : t.mem = s.mem) (hb : t.blocks = s.blocks.filter p) :
    Safe t :=
  ⟨hm ▸ hs.1, fun b hmem => hs.2 b (List.mem_filter.1 (hb ▸ hmem)).1⟩

protected theorem Safe.of_fst {r : State × α} {x : α} (h : Safe r.1) (e : r = (t, x)) : Safe t := by rw [e] at h; exact h

protected theorem SafeOpt.of_some {o : Option State} (h : SafeOpt o) (e : o = some t) : Safe t := by rw [e] at h; exact h

protected theorem SafeOptFst.of_some {o : Option (State × α)} {r : State × α} (h : SafeOptFst o) (e : o = some r) : Safe r.1 := by
  rw [e] at h; exact h

protected theorem Safe.next (ht : Safe t) : SafeOut (.next t) := ht

protected theorem Safe.some (ht : Safe t) : SafeOpt (some t) := ht

protected theorem Safe.someFst {r : State × α} (hr : Safe r.1) : SafeOptFst (some r) := hr

protected theorem SafeOut.of_next {o : Out} (h : SafeOut o) (e : o = .next t) : Safe t := by rw [e] at h; exact h

protected theorem Safe.ite {c : Prop} [Decidable c] (hs : Safe s) (ht : Safe t) : Safe (if c then s else t) := by
  split <;> assumption

protected theorem Safe.ite_fst {c : Prop} [Decidable c] {r q : State × α} (hr : Safe r.1) (hq : Safe q.1) :
    Safe (if c then r else q).1 := by split <;> assumption

protected theorem SafeOut.ite {c : Prop} [Decidable c] {o q : Out} (ho : SafeOut o) (hq : SafeOut q) :
    SafeOut (if c then o else q) := by
  split <;> assumption

protected theorem SafeOpt.ite {c : Prop} [Decidable c] {o q : Option State} (ho : SafeOpt o) (hq : SafeOpt q) :
    SafeOpt (if c then o else q) := by split <;> assumption

protected theorem SafeOpt.bind {o : Option State} {f : State → Option State} (ho : SafeOpt o) (hf : ∀ t, Safe t → SafeOpt (f t)) :
    SafeOpt (o.bind f) := by
  cases o with
  | none => trivial
  | some t => exact hf t ho

protected theorem SafeOpt.bind_any {o : Option α} {f : α → Option State} (hf : ∀ a, SafeOpt (f a)) : SafeOpt (o.bind f) := by
  cases o with
  | none => trivial
  | some a => exact hf a

protected theorem SafeOpt.map_any {o : Option α} {f : α → State} (hf : ∀ a, Safe (f a)) : SafeOpt (o.map f) := by
  cases o with
  | none => trivial
  | some a => exact hf a

protected theorem Safe.foldl {f : State → α → State} {l : List α} (hs : Safe s) (hf : ∀ t a, Safe t → Safe (f t a)) :
    Safe (l.foldl f s) := by
  induction l generalizing s with
  | nil => exact hs
  | cons a l ih => exact ih (hf s a hs)

protected theorem Safe.foldl_fst {f : State × β → α → State × β} {l : List α} {r : State × β} (hr : Safe r.1)
    (hf : ∀ r a, Safe r.1 → Safe (f r a).1) : Safe (l.foldl f r).1 := by
  induction l generalizing r with
  | nil => exact hr
  | cons a l ih => exact ih (hf r a hr)

end
end Sys2Proof

namespace Sys2Proof.Machine

open Sys2Proof

/-! ### Blocks in canonical form -/

theorem scratchCanonical_iff (b : Block) :
    scratchCanonical b = true ↔ cellsFrom 0 b.scr = true ∧ risingFrom 0 b.scrPoison = true := by
  simp only [scratchCanonical, Bool.and_eq_true]

theorem Block.canonical_ite {c : Prop} [Decidable c] {a b : Block} (ha : scratchCanonical a = true)
    (hb : scratchCanonical b = true) : scratchCanonical (if c then a else b) = true := by split <;> assumption

theorem Block.scrWrite_canonical {b : Block} {a : Nat} {bs : List Byte} (hb : scratchCanonical b = true) :
    scratchCanonical (b.scrWrite a bs) = true := by
  rw [scratchCanonical_iff] at hb ⊢
  exact ⟨setCells_canonical a bs hb.1, foldl_eraseNat_rising _ hb.2⟩

theorem Block.setScr_canonical {b : Block} (hb : scratchCanonical b = true) (a : Nat) (bs : List Byte) :
    scratchCanonical { b with scr := setCells a bs b.scr } = true := by
  rw [scratchCanonical_iff] at hb ⊢
  exact ⟨setCells_canonical a bs hb.1, hb.2⟩

theorem Block.poison_canonical {b : Block} (hb : scratchCanonical b = true) (ks : List Nat) :
    scratchCanonical { b with scrPoison := ks.foldl (fun l k => insertNat k l) b.scrPoison } = true := by
  rw [scratchCanonical_iff] at hb ⊢
  exact ⟨hb.1, foldl_insertNat_rising ks hb.2⟩

theorem Block.unpoison_canonical {b : Block} (hb : scratchCanonical b = true) (ks : List Nat) :
    scratchCanonical { b with scrPoison := ks.foldl (fun l k => eraseNat k l) b.scrPoison } = true := by
  rw [scratchCanonical_iff] at hb ⊢
  exact ⟨hb.1, foldl_eraseNat_rising ks hb.2⟩

theorem Block.dropAnswers_canonical {b : Block} (hb : scratchCanonical b = true) : scratchCanonical b.dropAnswers = true :=
  canonical_ite hb hb

theorem Block.answered_canonical {b : Block} {r : FaultRec} {fail : Bool} (hb : scratchCanonical b = true) :
    scratchCanonical (b.answered r fail) = true :=
  canonical_ite hb hb

theorem Block.afterSave_canonical {b : Block} {why : SaveFor} {slots : List Nat} {counted : Bool} :
    scratchCanonical (b.afterSave why slots counted) = true := rfl

theorem Block.placed_canonical {b : Block} {l : Launch} {core base : Nat} : scratchCanonical (b.placed l core base) = true := rfl

theorem Block.fillRanges_canonical {b : Block} {rs : List (Nat × Nat)} {bs : List Byte} (hb : scratchCanonical b = true) :
    scratchCanonical (b.fillRanges rs bs) = true := by
  induction rs generalizing b bs with
  | nil => exact hb
  | cons r rs ih => exact ih (setScr_canonical hb _ _)

/-- Scratch is filled anew from the save record, and its poison from the record's map (R248). -/
theorem Block.restored_canonical {b : Block} {bs : List Byte} {slots : List CapReg} {fresh : Nat} :
    scratchCanonical (b.restored bs slots fresh) = true :=
  fillRanges_canonical (poison_canonical (b := { b with scr := [], scrPoison := [] }) rfl _)

theorem Mem.put_wf {m : Mem} (h : m.wf = true) (a : Nat) (bs : List Byte) (tag : Bool) : (m.put a bs tag).wf = true :=
  Mem.writeTagged_wf h a bs tag

end Sys2Proof.Machine

namespace Sys2Proof

open Sys2Proof.Machine

/-- Settles O59: memory is empty at reset, and no block is there. -/
theorem resetSafe : Obligations.ResetSafe := ⟨Mem.reset_wf, fun _ h => absurd h List.not_mem_nil⟩

section
variable {s : Machine.State}

/-! ### Updates of the state -/

protected theorem Safe.tick (hs : Safe s) : Safe s.tick := hs.frame rfl rfl

protected theorem Safe.bump (hs : Safe s) : Safe s.bump := hs.frame rfl rfl

protected theorem Safe.updBlock {uid : Nat} {f : Block → Block} (hs : Safe s)
    (hf : ∀ b, scratchCanonical b = true → scratchCanonical (f b) = true) : Safe (s.updBlock uid f) :=
  hs.mapBlocks rfl rfl fun b hb => Block.canonical_ite (hf b hb) hb

protected theorem Safe.updThread {uid tid : Nat} {f : Thread → Thread} (hs : Safe s) : Safe (s.updThread uid tid f) :=
  hs.updBlock fun _ hb => hb

protected theorem Safe.updGroup {gid : Nat} {f : Machine.Group → Machine.Group} (hs : Safe s) : Safe (s.updGroup gid f) :=
  hs.frame rfl rfl

protected theorem Safe.dropGroup {gid : Nat} (hs : Safe s) : Safe (s.dropGroup gid) := hs.frame rfl rfl

protected theorem Safe.updCtx {n : Nat} {f : Ctx → Ctx} (hs : Safe s) : Safe (s.updCtx n f) := hs.frame rfl rfl

protected theorem Safe.updLaunch {id : Nat} {f : Launch → Launch} (hs : Safe s) : Safe (s.updLaunch id f) := hs.frame rfl rfl

/-! ### Walks and translations -/

protected theorem Safe.fillExtent {x : Extent} (hs : Safe s) : Safe (s.fillExtent x) := by
  unfold State.fillExtent
  dsimp only
  split <;> exact hs.frame rfl rfl

protected theorem Safe.enterExtent {units : List Nat} {ctx obj frame : Nat} {entry : List Nat} {desc : Nat} (hs : Safe s) :
    Safe (s.enterExtent units ctx obj frame entry desc) := Safe.foldl (hs.frame rfl rfl) fun _ _ h => h.fillExtent

protected theorem Safe.dropExtents {units : List Nat} {ctx obj o : Nat} {f : Extent → Bool} (hs : Safe s) :
    Safe (s.dropExtents units ctx obj o f) :=
  hs.frame rfl rfl

protected theorem Safe.joinAsk {id asker : Nat} {units : List Nat} (hs : Safe s) : Safe (s.joinAsk id asker units) :=
  hs.frame rfl rfl

protected theorem Safe.dropAsks {asker : Nat} (hs : Safe s) : Safe (s.dropAsks asker) := hs.frame rfl rfl

protected theorem Safe.walkHost {asker : Nat} {units : List Nat} {ctx obj o n : Nat} {op : AccOp} {e : List Nat} (hs : Safe s) :
    Safe (walkHost s asker units ctx obj o n op e).1 := by
  unfold Machine.walkHost
  dsimp only
  split
  · exact hs
  · split
    · exact hs.joinAsk.ite_fst (hs.ite_fst (hs.ite_fst hs))
    · exact hs.frame rfl rfl

protected theorem Safe.walkPeer {asker ctx obj o n : Nat} {op : AccOp} {e : List Nat} (hs : Safe s) :
    Safe (walkPeer s asker ctx obj o n op e).1 := by
  unfold Machine.walkPeer
  dsimp only
  split
  · exact hs
  · split
    · exact hs.joinAsk.ite_fst (hs.ite_fst (hs.ite_fst (hs.ite_fst hs)))
    · exact hs.frame rfl rfl

protected theorem Safe.markLost {entryAddr : Nat} (hs : Safe s) : Safe (s.markLost entryAddr) :=
  hs.withMem (Mem.store_wf hs.mem_wf _ _ _) rfl

protected theorem Safe.walkWith {die asker : Nat} {units : List Nat} {ctx obj o n : Nat} {op : AccOp} {e : List Nat}
    {held : Option Nat} {entryAddr : Nat} (hs : Safe s) :
    Safe (walkWith s die asker units ctx obj o n op e held entryAddr).1 := by
  unfold Machine.walkWith
  dsimp only
  split
  · exact hs
  · split
    · exact hs.markLost
    · split
      · split
        · exact hs
        · exact hs.walkHost
      · exact hs.walkPeer
      · exact hs.enterExtent.ite hs
      · exact hs.ite_fst (hs.ite_fst (hs.ite_fst hs.enterExtent))

protected theorem Safe.entryPart {ctx obj o n : Nat} {op : AccOp} (hs : Safe s) : Safe (entryPart s ctx obj o n op).1 := by
  unfold Machine.entryPart
  dsimp only
  split
  · exact hs
  · split
    · exact hs
    · split
      · exact hs
      · split
        · exact hs
        · exact hs.markLost.ite_fst hs

protected theorem Safe.walkFresh {c : Ctx} {die asker : Nat} {units : List Nat} {obj o n : Nat} {op : AccOp} (hs : Safe s) :
    Safe (walkFresh s c die asker units obj o n op).1 := hs.ite_fst (hs.ite_fst (hs.ite_fst hs.walkWith))

protected theorem Safe.walk {core : Option Nat} {die ctx obj o n : Nat} {op : AccOp} (hs : Safe s) :
    Safe (walk s core die ctx obj o n op).1 := by
  unfold Machine.walk
  dsimp only
  split
  · exact hs
  · split
    · exact hs.walkFresh
    · split
      · split
        · exact hs.tick.dropExtents.walkFresh
        · exact hs.tick.walkWith
      · exact hs.tick.dropExtents.walkFresh

protected theorem Safe.walkFrame {core : Option Nat} {die ctx obj : Nat} {op : AccOp} {fuel o n : Nat} (hs : Safe s) :
    Safe (walkFrame core die ctx obj op fuel o n s).1 := by
  induction fuel generalizing o n s with
  | zero => exact hs
  | succ fuel ih =>
    simp only [Machine.walkFrame]
    split
    · exact ih hs.walk
    · exact hs.walk

protected theorem Safe.walkPieces {core : Option Nat} {die ctx obj : Nat} {op : AccOp} {l : List (Nat × Nat)} (hs : Safe s) :
    Safe (walkPieces core die ctx obj op l s).1 := by
  induction l generalizing s with
  | nil => exact hs
  | cons p l ih => exact ih hs.walkFrame

protected theorem Safe.translate {core : Option Nat} {die ctx obj o n : Nat} {op : AccOp} (hs : Safe s) :
    Safe (Machine.translate s core die ctx obj o n op).1 := hs.walkPieces

/-! ### Caches and accesses -/

protected theorem Safe.trigger {scratch : Option Nat} {a n : Nat} (hs : Safe s) : Safe (s.trigger scratch a n) :=
  hs.mapBlocks rfl rfl fun _ h => h

protected theorem Safe.send {m : PeerMsg} (hs : Safe s) : Safe (s.send m) := hs.frame rfl rfl

protected theorem Safe.sendWrite {m : PeerMsg} (hs : Safe s) : Safe (s.sendWrite m) := hs.frame rfl rfl

protected theorem Safe.noteHome {die line sectors mask : Nat} (hs : Safe s) : Safe (s.noteHome die line sectors mask) := by
  unfold State.noteHome
  refine Safe.frame ?_ rfl rfl
  dsimp only
  split
  · exact hs
  · exact hs.frame rfl rfl

protected theorem Safe.touchHome {p : Piece} {a n : Nat} {write : Bool} (hs : Safe s) : Safe (s.touchHome p a n write) :=
  Safe.ite (hs.foldl fun _ _ h => h.noteHome) hs

protected theorem Safe.noteRemote {r : RemoteLine} (hs : Safe s) : Safe (s.noteRemote r) := by
  unfold State.noteRemote
  refine Safe.frame ?_ rfl rfl
  dsimp only
  split
  · exact hs
  · exact hs.frame rfl rfl

protected theorem Safe.dropRemote {a n : Nat} (hs : Safe s) : Safe (s.dropRemote a n) := by
  unfold State.dropRemote
  refine Safe.frame (s := (List.foldl _ _ _)) ?_ rfl rfl
  exact hs.foldl fun _ _ h => h.send

protected theorem Safe.dropPeerLines {peer a n : Nat} (hs : Safe s) : Safe (s.dropPeerLines peer a n) := hs.frame rfl rfl

protected theorem Safe.fillRemote {die : Nat} {p : Piece} (hs : Safe s) : Safe (s.fillRemote die p) :=
  Safe.ite (hs.foldl fun _ _ h => h.noteRemote) hs

protected theorem Safe.roomL1 {core : Nat} {line : Nat × Nat × Nat} (hs : Safe s) : Safe (s.roomL1 core line) := by
  unfold State.roomL1
  dsimp only
  split
  · exact hs
  · exact hs.frame rfl rfl

protected theorem Safe.fillL1 {core : Nat} {p : Piece} {scope : Scope} (hs : Safe s) : Safe (s.fillL1 core p scope) := by
  unfold State.fillL1
  dsimp only
  split
  · refine Safe.frame (s := (List.foldl _ _ _)) ?_ rfl rfl
    exact Safe.foldl (hs.frame rfl rfl) fun _ _ h => h.roomL1
  · exact hs.frame rfl rfl

protected theorem Safe.storeL1 {core : Nat} {p : Piece} {a n : Nat} (hs : Safe s) : Safe (s.storeL1 core p a n) :=
  hs.frame rfl rfl

protected theorem Safe.dropL1 {core : Nat} {ords : List Nat} {ctx : Option Nat} (hs : Safe s) : Safe (s.dropL1 core ords ctx) :=
  hs.frame rfl rfl

protected theorem Safe.missAfter {core : Nat} {scope : Scope} {all : Bool} (hs : Safe s) : Safe (s.missAfter core scope all) :=
  hs.ite (Safe.ite (hs.frame rfl rfl) hs.dropL1)

protected theorem Safe.missOlder {core : Nat} (hs : Safe s) : Safe (s.missOlder core) := hs.frame rfl rfl

protected theorem Safe.loadPiece {core : Nat} {scope : Scope} {p : Piece} (hs : Safe s) :
    Safe (s.loadPiece core scope p).1 := by
  unfold State.loadPiece
  dsimp only
  split
  · exact hs
  · exact hs
  · exact (hs.tick.ite hs).ite_fst (hs.tick.ite hs).fillL1.touchHome.fillRemote

protected theorem Safe.writePiece {core : Option Nat} {p : Piece} {bs : List Byte} {tag : optParam Bool false} (hs : Safe s) :
    Safe (s.writePiece core p bs tag) := by
  unfold State.writePiece
  dsimp only
  split
  · exact Safe.trigger (hs.updBlock fun _ h => Block.scrWrite_canonical h)
  · split
    · exact hs.dropPeerLines.sendWrite
    · refine hs.foldl ?_
      intro _ _ h
      refine Safe.trigger ?_
      refine Safe.touchHome ?_
      refine Safe.dropRemote ?_
      split
      · exact Safe.storeL1 (h.withMem (Mem.put_wf h.mem_wf _ _ _) rfl)
      · exact h.withMem (Mem.put_wf h.mem_wf _ _ _) rfl

protected theorem Safe.mend {core : Nat} {ps : List Piece} (hs : Safe s) : Safe (s.mend core ps) :=
  (hs.withMem (t := { s with mem := _ }) (Mem.dropPoison_wf hs.mem_wf _) rfl).mapBlocks rfl rfl
    fun _ h => Block.unpoison_canonical h _

protected theorem Safe.writePieces {core : Option Nat} {ps : List Piece} {bs : List Byte} (hs : Safe s) :
    Safe (s.writePieces core ps bs) := by
  induction ps generalizing s bs with
  | nil => exact hs
  | cons p ps ih => exact ih hs.writePiece

protected theorem Safe.atomPiece {core : Option Nat} {p : Piece} {op : Nat} {t : Tag} {opnd new : Nat} (hs : Safe s) :
    Safe (s.atomPiece core p op t opnd new).1 := by
  unfold State.atomPiece
  dsimp only
  split
  · exact hs.dropPeerLines.sendWrite
  · split
    · exact hs.writePiece
    · split
      · exact hs.fillL1.touchHome
      · exact hs

protected theorem Safe.wsumPiece {core : Option Nat} {p : Piece} {q : Nat} (hs : Safe s) : Safe (s.wsumPiece core p q) := by
  unfold State.wsumPiece
  split
  · exact hs.dropPeerLines.sendWrite
  · exact hs.writePiece

protected theorem Safe.creditAt {uid a n : Nat} {expected : Option Nat} (hs : Safe s) : Safe (s.creditAt uid a n expected) := by
  unfold State.creditAt
  dsimp only
  split
  · exact hs
  · exact hs.ite hs.writePiece

/-! ### The store buffer and commits -/

protected theorem Safe.fileRecord {r : TraceRec} (hs : Safe s) : Safe (s.fileRecord r) :=
  Safe.ite (hs.frame rfl rfl) (hs.frame rfl rfl)

protected theorem Safe.trace {b : Block} {tid type info d4 d5 d7 : Nat} {held : Option (Nat × Nat × Nat)} (hs : Safe s) :
    Safe (s.trace b tid type info d4 d5 d7 held) := hs.fileRecord.ite hs

protected theorem Safe.countRequests {ctx core n : Nat} (hs : Safe s) : Safe (s.countRequests ctx core n).1 :=
  Safe.ite_fst (hs.frame rfl rfl) hs

protected theorem Safe.contactSheet {uid tid pc : Nat} {p : Piece} {src : Nat} (hs : Safe s) :
    Safe (s.contactSheet uid tid pc p src) := by
  unfold State.contactSheet
  dsimp only
  split
  · exact hs
  · exact hs.tick.tick.fileRecord

protected theorem Safe.sampleItem {i : Item} {others : List Piece} (hs : Safe s) : Safe (s.sampleItem i others) := by
  unfold State.sampleItem
  dsimp only
  split
  · exact hs.countRequests.contactSheet.ite hs.countRequests
  · exact hs

protected theorem Safe.settleTrace {uid tid inst : Nat} {final : Bool} (hs : Safe s) :
    Safe (s.settleTrace uid tid inst final) :=
  hs.frame rfl rfl

protected theorem Safe.buffer {core uid tid gid inst issue : Nat} {eff : Effect} (hs : Safe s) :
    Safe (s.buffer core uid tid gid inst issue eff) :=
  hs.frame rfl rfl

protected theorem Safe.commit {uid : Nat} {tids : List Nat} (hs : Safe s) : Safe (s.commit uid tids) := by
  unfold State.commit
  split
  · exact hs
  · refine Safe.foldl ?_ fun _ _ h => h.settleTrace.ite h
    exact hs.mapBlocks rfl rfl fun _ h => Block.canonical_ite h h

protected theorem Safe.forget {uid tid : Nat} {overflow : Bool} (hs : Safe s) : Safe (s.forget uid tid overflow) := by
  unfold State.forget
  dsimp only
  split
  · exact hs
  · exact Safe.settleTrace (hs.updThread.frame rfl rfl)

protected theorem Safe.discard {uid tid : Nat} {overflow : Bool} (hs : Safe s) : Safe (s.discard uid tid overflow) :=
  hs.ite hs.forget

protected theorem Safe.countExpert {idx amount : Nat} (hs : Safe s) : Safe (s.countExpert idx amount) := hs.frame rfl rfl

protected theorem Safe.perform {core : Nat} {a : Effect} (hs : Safe s) : Safe (s.perform core a) := by
  unfold State.perform
  split
  · exact hs.writePieces
  · exact hs.writePieces
  · exact hs.writePiece
  · exact hs.atomPiece
  · exact hs.wsumPiece
  · split
    · exact hs.creditAt
    · exact hs
  · exact hs.countExpert
  · exact hs

/-! ### Groups and bins -/

protected theorem Safe.draw {b : Bin} (hs : Safe s) : Safe (s.draw b) := Safe.updBlock (hs.frame rfl rfl) fun _ h => h

protected theorem Safe.file {uid tid : Nat} {pc : Int} {space : Space} (hs : Safe s) : Safe (s.file uid tid pc space) := by
  unfold State.file
  dsimp only
  split
  · exact hs
  · split
    · exact hs.updThread.frame rfl rfl
    · split
      · exact hs.updThread.frame rfl rfl
      · refine Safe.frame (s := (ite _ _ _)) ?_ rfl rfl
        split
        · split
          · exact hs.updThread.draw
          · exact hs.updThread
        · exact hs.updThread

protected theorem Safe.fileAll {uid : Nat} {xs : List Thread} (hs : Safe s) : Safe (s.fileAll uid xs) :=
  hs.foldl fun _ _ h => h.file

protected theorem Safe.drawAll {core part : Nat} (hs : Safe s) : Safe (s.drawAll core part) := hs.foldl fun _ _ h => h.draw

protected theorem Safe.drawCore {core : Nat} (hs : Safe s) : Safe (s.drawCore core) := hs.foldl fun _ _ h => h.drawAll

protected theorem Safe.leave {uid tid : Nat} (hs : Safe s) : Safe (s.leave uid tid) := hs.frame rfl rfl

protected theorem Safe.unfile {uid tid : Nat} (hs : Safe s) : Safe (s.unfile uid tid) := hs.frame rfl rfl

protected theorem Safe.sleep {uid tid : Nat} {st : TState} (hs : Safe s) : Safe (s.sleep uid tid st) :=
  (hs.ite hs.leave).updThread

protected theorem Safe.regroup {gid : Nat} (hs : Safe s) : Safe (s.regroup gid) := by
  unfold State.regroup
  dsimp only
  split
  · exact hs
  · split
    · exact hs
    · exact hs.updGroup
    · exact hs.updGroup.fileAll.drawAll

protected theorem Safe.armWatch {uid tid core : Nat} {scratch : Option Nat} {addr : Nat} (hs : Safe s) :
    Safe (s.armWatch uid tid core scratch addr) := hs.updThread.updThread

protected theorem Safe.wakeBlock {uid : Nat} {st : TState} {rgnAt : Thread → Bool} (hs : Safe s) :
    Safe (s.wakeBlock uid st rgnAt) := by
  unfold State.wakeBlock
  dsimp only
  split
  · exact hs
  · exact Safe.drawCore (Safe.fileAll (hs.updBlock fun _ h => h))

protected theorem Safe.barrier {uid : Nat} {gang : Bool} {rgnAt : Block → Thread → Bool} (hs : Safe s) :
    Safe (s.barrier uid gang rgnAt) := by
  unfold State.barrier
  dsimp only
  split
  · exact hs
  · exact Safe.ite (Safe.ite (Safe.foldl (Safe.foldl (hs.foldl fun _ _ h => Safe.dropL1 (h.updBlock fun _ h1 => h1)) fun _ _ h
      => h.trace) fun _ _ h => h.wakeBlock) hs) (Safe.ite (Safe.wakeBlock (Safe.trace (hs.updBlock fun _ h => h))) hs)

protected theorem Safe.wakeThread {uid tid : Nat} (hs : Safe s) : Safe (s.wakeThread uid tid) := by
  unfold State.wakeThread
  split
  · exact hs.updThread.file.drawAll
  · exact hs

protected theorem Safe.holdThread {uid tid : Nat} (hs : Safe s) : Safe (s.holdThread uid tid) := by
  unfold State.holdThread
  dsimp only
  split
  · exact hs
  · exact hs.ite ((hs.wakeThread.ite hs).ite (hs.ite hs.discard).leave.unfile.updThread)

protected theorem Safe.holdThreads {uid : Nat} (hs : Safe s) : Safe (s.holdThreads uid) := by
  unfold State.holdThreads
  split
  · exact hs
  · exact Safe.drawCore (hs.foldl fun _ _ h => h.holdThread)

protected theorem Safe.stay {uid : Nat} (hs : Safe s) : Safe (s.stay uid) := by
  unfold State.stay
  split
  · exact hs
  · split
    · extract_lets back s1 free s2
      have h1 : Safe s1 := hs.updBlock fun _ h => h
      have h2 : Safe s2 := h1.mapBlocks rfl rfl fun _ h => Block.canonical_ite h h
      exact h2.fileAll.drawCore
    · exact hs

protected theorem Safe.askSave {uid : Nat} {why : SaveFor} (hs : Safe s) : Safe (s.askSave uid why) := by
  unfold State.askSave
  refine hs.updBlock ?_
  intro _ h
  split
  · exact h
  · split
    · exact h
    · exact Block.canonical_ite h h

protected theorem Safe.beginSave {uid : Nat} {why : SaveFor} (hs : Safe s) : Safe (s.beginSave uid why) := by
  unfold State.beginSave
  split
  · exact hs
  · exact hs.ite hs.askSave.holdThreads

protected theorem Safe.relocateBlocks {bs : List Block} (hs : Safe s) : Safe (s.relocateBlocks bs) :=
  hs.foldl fun _ _ h => h.beginSave.updBlock fun _ h1 => Block.canonical_ite h1 h1

protected theorem Safe.cutShort {uid tid : Nat} (hs : Safe s) : Safe (s.cutShort uid tid) := hs.forget.leave.unfile.updThread

protected theorem Safe.endThreads {uid : Nat} {pinnedToo : Bool} (hs : Safe s) : Safe (s.endThreads uid pinnedToo) := by
  unfold State.endThreads
  split
  · exact hs
  · exact Safe.drawCore (hs.foldl fun _ _ h => h.ite ((h.wakeThread.ite h).ite h.cutShort))

protected theorem Safe.killBlock {uid status : Nat} (hs : Safe s) : Safe (s.killBlock uid status) :=
  Safe.endThreads (hs.updBlock fun _ h => Block.dropAnswers_canonical h)

/-! ### Faults, slots and launches -/

protected theorem Safe.devWrite {a : Nat} {bs : List Byte} (hs : Safe s) : Safe (s.devWrite a bs) := hs.writePiece

protected theorem Safe.devStore {a n v : Nat} (hs : Safe s) : Safe (s.devStore a n v) := hs.devWrite

protected theorem Safe.objWritePieces {c : Ctx} {obj : Nat} {l : List (Nat × Nat)} {bs : List Byte} (hs : Safe s) :
    SafeOpt (objWritePieces c obj l bs s) := by
  induction l generalizing s bs with
  | nil => exact hs
  | cons p l ih =>
    simp only [Machine.objWritePieces]
    split
    · exact ih hs.writePiece
    · trivial

protected theorem Safe.objWrite {c : Ctx} {obj off : Nat} {bs : List Byte} (hs : Safe s) :
    SafeOpt (s.objWrite c obj off bs) := hs.objWritePieces

protected theorem Safe.postEvent {kind ctx arg : Nat} (hs : Safe s) : Safe (s.postEvent kind ctx arg) := hs.frame rfl rfl

protected theorem Safe.popSlot {c : Ctx} (hs : Safe s) : SafeOptFst (s.popSlot c) := by
  unfold State.popSlot
  split
  · trivial
  · split
    · trivial
    · split
      · next e3 => exact ((hs.objWrite.of_some e3).postEvent.ite (hs.objWrite.of_some e3)).someFst
      · trivial

protected theorem Safe.pushSlot {c : Ctx} {slot : Nat} (hs : Safe s) : Safe (s.pushSlot c slot) := by
  unfold State.pushSlot
  split
  · exact hs
  · split
    · next e => exact (hs.objWrite.bind fun _ h => h.objWrite).of_some e
    · exact hs

protected theorem Safe.recordFault {f : FaultAt} {src unitNo : Nat} (hs : Safe s) : Safe (s.recordFault f src unitNo).1 := by
  unfold State.recordFault
  split
  · exact hs
  · exact Safe.ite_fst (hs.frame rfl rfl) (hs.frame rfl rfl)

protected theorem Safe.recordFaults {src unitNo : Nat} {fs : List FaultAt} (hs : Safe s) :
    Safe (s.recordFaults src unitNo fs).1 := by
  induction fs generalizing s with
  | nil => exact hs
  | cons f fs ih => exact ih hs.recordFault

protected theorem Safe.advance {level h : Nat} (hs : Safe s) : Safe (s.advance level h) := hs.frame rfl rfl

protected theorem Safe.updSlot {i : Nat} {f : Slot → Slot} (hs : Safe s) : Safe (s.updSlot i f) := hs.frame rfl rfl

protected theorem Safe.writeHead {q : Slot} (hs : Safe s) : Safe (s.writeHead q) := hs.devStore.ite hs

protected theorem Safe.slotMoves {slot : Nat} (hs : Safe s) : Safe (s.slotMoves slot) := hs.updSlot.writeHead

protected theorem Safe.refuseHead {i : Nat} {why : Nat × Nat × Nat} (hs : Safe s) : Safe (s.refuseHead i why) :=
  hs.postEvent.slotMoves

/-- The blocks of a launch start with nothing in scratch. -/
theorem Launch.mkBlocks_canonical {l : Launch} {seq uid now : Nat} {b : Block} (hb : b ∈ l.mkBlocks seq uid now) :
    scratchCanonical b = true := by
  obtain ⟨i, -, rfl⟩ := List.mem_map.1 hb
  rfl

protected theorem Safe.appendBlocks {t : State} {bs : List Block} (hs : Safe s) (hm : t.mem = s.mem)
    (hb : t.blocks = s.blocks ++ bs) (hbs : ∀ b ∈ bs, scratchCanonical b = true) : Safe t :=
  ⟨hm ▸ hs.1, fun b h => (List.mem_append.1 (hb ▸ h)).elim (hs.2 b) (hbs b)⟩

protected theorem Safe.release {id : Nat} (hs : Safe s) : Safe (s.release id) := by
  unfold State.release
  split
  · exact hs
  · dsimp only
    split
    · exact Safe.refuseHead (hs.frame rfl rfl)
    · exact Safe.slotMoves (hs.updLaunch.updCtx.appendBlocks rfl rfl fun _ h => Launch.mkBlocks_canonical h)

protected theorem Safe.rankClock {launch : Nat} (hs : Safe s) : Safe (s.rankClock launch) :=
  hs.mapBlocks rfl rfl fun _ h => Block.canonical_ite h h

protected theorem Safe.arrive {launch idx pgno code level channel : Nat} {landed : Bool} (hs : Safe s) :
    Safe (s.arrive launch idx pgno code level channel landed) := by
  unfold State.arrive
  dsimp only
  split
  · exact hs
  · exact Safe.rankClock (hs.updLaunch.mapBlocks rfl rfl fun _ h => Block.canonical_ite h h)

protected theorem Safe.cancelBlock {uid : Nat} (hs : Safe s) : Safe (s.cancelBlock uid) := by
  unfold State.cancelBlock
  dsimp only
  split
  · exact hs
  · exact hs.ite (Safe.ite (Safe.endThreads (hs.updBlock fun _ h => Block.dropAnswers_canonical h)) (hs.updBlock fun _ h =>
      Block.dropAnswers_canonical h))

/-- Ranking changes no scratch. -/
theorem rankRest_canonical {n : Nat} {bs : List Block} (hbs : ∀ b ∈ bs, scratchCanonical b = true) :
    ∀ b ∈ (rankRest n bs).1, scratchCanonical b = true := by
  unfold rankRest
  suffices h : ∀ (bs : List Block) (r : List Block × Nat), (∀ b ∈ bs, scratchCanonical b = true) →
      (∀ b ∈ r.1, scratchCanonical b = true) → ∀ b ∈ (bs.foldl (fun (r : List Block × Nat) b =>
        if b.arrived then (r.1 ++ [b], r.2)
        else (r.1 ++ [{ b with arrived := true, arrank := r.2, ageKey := r.2 }], r.2 + 1)) r).1, scratchCanonical b = true by
    exact h bs ([], n) hbs (by simp)
  intro bs
  induction bs with
  | nil => intro r _ hr; exact hr
  | cons k bs ih =>
    intro r hbs hr
    rw [List.foldl_cons]
    refine ih _ (fun b hb => hbs b (List.mem_cons_of_mem _ hb)) fun b hb => ?_
    have hk : scratchCanonical k = true := hbs k List.mem_cons_self
    split at hb
    · rcases List.mem_append.1 hb with hb | hb
      · exact hr b hb
      · rw [List.mem_singleton.1 hb]; exact hk
    · rcases List.mem_append.1 hb with hb | hb
      · exact hr b hb
      · rw [List.mem_singleton.1 hb]; exact hk

protected theorem Safe.cancelLaunch {id : Nat} (hs : Safe s) : Safe (s.cancelLaunch id) := by
  unfold State.cancelLaunch
  extract_lets s1
  have h1 : Safe s1 := by
    unfold s1
    split
    · exact hs.release.ite hs
    · exact hs
  clear_value s1
  dsimp only
  split
  · exact h1
  · next l _ =>
    have mine : ∀ b ∈ s1.blocks.filter fun b => b.launch == id, scratchCanonical b = true :=
      fun b hb => h1.2 b (List.mem_filter.1 hb).1
    refine Safe.foldl (Safe.updLaunch (h1.mapBlocks rfl rfl fun b hb => ?_)) fun _ _ h => h.cancelBlock
    split
    · next k e =>
      have hk := List.mem_of_find?_eq_some e
      split at hk
      · exact rankRest_canonical mine k hk
      · exact mine k hk
    · exact hb

protected theorem Safe.cancel {ctx level h : Nat} (hs : Safe s) : Safe (s.cancel ctx level h) :=
  hs.foldl fun _ _ h1 => h1.cancelLaunch

protected theorem Safe.stopContext {ctx : Nat} {r : Stopper} (hs : Safe s) : Safe (s.stopContext ctx r) := by
  unfold State.stopContext
  dsimp only
  split
  · exact hs
  · split
    · exact hs
    · refine Safe.postEvent ?_
      refine Safe.foldl ?_ fun _ _ h => h.killBlock
      split
      · next e2 => exact hs.objWrite.of_some e2
      · exact hs

/-! ### Ops -/

protected theorem Safe.enterHandler {uid tid : Nat} {p : PendTrap} (hs : Safe s) : Safe (s.enterHandler uid tid p) := by
  unfold State.enterHandler
  split
  · dsimp only
    split
    · exact hs.updThread
    · split
      · exact hs.updThread
      · next e =>
        split
        · exact hs.updThread
        · next e2 =>
          have h := (SafeOpt.bind (Safe.objWrite (hs.popSlot.of_some e)) fun _ h => h.objWrite).of_some e2
          split
          · exact h.updThread.file.drawAll
          · exact h.updThread.frame rfl rfl
  · exact hs

protected theorem Safe.nestedTrap {b : Block} {x : Thread} {cause : Nat} {pc : Int} {aux : Nat} (hs : Safe s) :
    Safe (s.nestedTrap b x cause pc aux) := hs.stopContext

protected theorem Safe.trapThread {uid tid cause aux : Nat} {pc : Int} (hs : Safe s) :
    Safe (s.trapThread uid tid cause aux pc) := by
  unfold State.trapThread
  dsimp only
  split
  · exact hs.nestedTrap.ite (hs.ite hs.discard).leave.updThread.enterHandler
  · exact hs

protected theorem Safe.trapGroup {gid : Nat} {traps : List (Nat × Nat × Nat)} {pc : Int} (hs : Safe s) :
    Safe (s.trapGroup gid traps pc) := by
  unfold State.trapGroup
  dsimp only
  split
  · split
    · exact hs
    · split
      · split <;> exact hs.nestedTrap
      · exact Safe.enterHandler (Safe.updGroup (Safe.foldl (hs.foldl fun _ _ h => h.ite h.discard) fun _ _ h => h.updThread))
  · exact hs

protected theorem Safe.takeTraps {gid : Nat} {traps : List (Nat × Nat × Nat)} {pc : Int} (hs : Safe s) :
    Safe (s.takeTraps gid traps pc) := by
  unfold State.takeTraps
  dsimp only
  split
  · split
    · exact hs
    · split
      · exact hs.trace.trapGroup
      · split
        · exact hs.trace.trapThread
        · exact Safe.drawAll (hs.trace.foldl fun _ _ h => h.trapThread)
  · exact hs

protected theorem Safe.returnTrap {gid uid tid : Nat} (hs : Safe s) : SafeOpt (s.returnTrap gid uid tid) := by
  unfold State.returnTrap
  split
  · split
    · split
      · trivial
      · extract_lets s1 pc
        have h1 : Safe s1 := hs.tick.updThread.pushSlot
        refine SafeOpt.ite (Safe.ite h1.leave.updThread.holdThread h1.leave.file.drawAll).some (Safe.some ?_)
        exact Safe.ite (h1.updGroup.regroup.foldl fun _ _ h => h.holdThread) h1.updGroup.regroup
    · trivial
  · trivial

protected theorem Safe.park {gid : Nat} {faults : List (Nat × List FaultAt)} {pc : Int} (hs : Safe s) :
    Safe (s.park gid faults pc) := by
  unfold State.park
  dsimp only
  split
  · exact hs
  · split
    · exact hs
    · exact Safe.updGroup (Safe.foldl_fst (hs.ite (hs.foldl fun _ _ h => h.discard)) fun _ _ h => h.recordFaults.updThread)

protected theorem Safe.reenter {gid : Nat} {overflow : Bool} (hs : Safe s) : Safe (s.reenter gid overflow) := by
  unfold State.reenter
  dsimp only
  split
  · exact hs
  · split
    · exact hs
    · split
      · exact Safe.dropGroup (hs.foldl fun _ _ h => h.discard)
      · exact Safe.drawAll (Safe.fileAll (Safe.dropGroup (hs.foldl fun _ _ h => h.discard)))

protected theorem Safe.consumePoison {uid tid : Nat} (hs : Safe s) : Safe (s.consumePoison uid tid) := by
  unfold State.consumePoison
  split
  · exact hs.killBlock.ite (hs.foldl fun _ _ h => h.beginSave.updBlock fun _ h1 => h1)
  · exact hs

protected theorem Safe.haltBlock {uid reason tid : Nat} {log : Nat × Nat} (hs : Safe s) :
    Safe (s.haltBlock uid reason tid log) := by
  unfold State.haltBlock
  dsimp only
  split
  · exact hs
  · exact hs.foldl fun _ _ h => h.ite (h.updBlock fun _ h1 => h1)

/-! ### Operands -/

protected theorem Safe.access {b : Block} {c : CapReg} {o : Int} {n align : Nat} {op : AccOp} (hs : Safe s) :
    Safe (s.access b c o n align op).1 := by
  unfold State.access
  split
  · exact hs
  · split
    · exact hs
    · split
      · next e2 => exact hs.translate.of_fst e2
      · next e2 => exact hs.translate.of_fst e2
      · next e2 => exact hs.translate.of_fst e2
      · next e2 => exact hs.translate.of_fst e2
      · next e2 => exact hs.translate.of_fst e2
      · next e2 => exact hs.translate.of_fst e2

/-! ### What a word does -/

protected theorem Safe.fetchWord {b : Block} {space : Space} {pc : Int} (hs : Safe s) : Safe (s.fetchWord b space pc).1 := by
  unfold State.fetchWord
  split
  · next e => exact hs.access.of_fst e
  · next e => exact hs.access.of_fst e
  · next e => exact hs.access.of_fst e
  · next e => exact hs.access.of_fst e
  · next e => exact hs.access.of_fst e
  · next e => exact hs.access.of_fst e

protected theorem Safe.stall {gid : Nat} (hs : Safe s) : Safe (s.stall gid) := by
  unfold State.stall
  dsimp only
  split
  · exact hs.frame rfl rfl
  · exact hs.updGroup

/-- The lanes of a word keep a state safe. -/
def KeepsSafe (lane : LaneFn) : Prop :=
  ∀ (t : State) (b : Block) (act : List Thread) (x : Thread), Safe t → Safe (lane t b act x).1

/-- Lanes that leave the state alone. -/
theorem keepsSafe_pure {e : State → Block → List Thread → Thread → LaneRes Eff} :
    KeepsSafe fun s b act x => (s, e s b act x) := fun _ _ _ _ h => h

protected theorem KeepsSafe.ite {c : Prop} [Decidable c] {f g : LaneFn} (hf : KeepsSafe f) (hg : KeepsSafe g) :
    KeepsSafe (if c then f else g) := by split <;> assumption

protected theorem Safe.runLanes {lane : LaneFn} {fs : List Form} {b : Block} {act xs : List Thread} (hs : Safe s)
    (hl : KeepsSafe lane) : Safe (runLanes fs lane b act xs s).1 := by
  induction xs generalizing s with
  | nil => exact hs
  | cons x xs ih =>
    simp only [Machine.runLanes]
    split
    · exact ih hs
    · exact ih (hl s b act x hs)

protected theorem Safe.enqueue {c : Cmd} (hs : Safe s) : Safe (s.enqueue c) := hs.frame rfl rfl

protected theorem Safe.performNow {b : Block} {tid gid issue : Nat} {eff : Effect} (hs : Safe s) :
    Safe (s.performNow b tid gid issue eff) := by
  unfold State.performNow
  dsimp only
  split
  · exact hs.updThread.enqueue
  · exact hs.updThread.buffer.commit.ite hs.updThread.perform

protected theorem Safe.putEffects {b : Block} {gid issue : Nat} {pinned : Bool} {x : Thread} {e : Eff} (hs : Safe s) :
    Safe (s.putEffects b gid issue pinned x e) := Safe.ite (hs.foldl fun _ _ h => h.performNow) (hs.foldl fun _ _ h => h.buffer)

protected theorem Safe.putRequest {b : Block} {gid issue : Nat} {x : Thread} {e : Eff} (hs : Safe s) :
    Safe (s.putRequest b gid issue x e) := by
  unfold State.putRequest
  dsimp only
  split
  · exact hs
  · exact hs.countRequests.bump.frame rfl rfl

protected theorem Safe.cacheLines {ps : List Piece} {evict : Bool} (hs : Safe s) : Safe (s.cacheLines ps evict) :=
  Safe.ite (Safe.foldl (hs.frame rfl rfl) fun _ _ h => h.trigger) (hs.frame rfl rfl)

protected theorem Safe.putAct {b : Block} {pinned : Bool} {tid : Nat} {a : Act} (hs : Safe s) :
    Safe (s.putAct b pinned tid a) := by
  unfold State.putAct
  dsimp only
  split
  · exact hs.armWatch
  · exact hs.updThread
  · exact hs.updThread
  · exact hs.updThread
  · split
    · exact hs.ite hs.sendWrite
    · exact (hs.fillL1.ite hs).touchHome.fillRemote
  · exact hs.updThread.cancel.ite hs.updThread
  · exact hs.cacheLines.ite (Safe.ite (hs.cacheLines.frame rfl rfl) (hs.frame rfl rfl))

protected theorem Safe.putLane {b : Block} {gid issue : Nat} {pinned : Bool} {xe : Thread × Eff} (hs : Safe s) :
    Safe (s.putLane b gid issue pinned xe) := hs.updThread.putEffects.putRequest.foldl fun _ _ h => h.putAct

protected theorem Safe.sampleWord {b : Block} {gid issue : Nat} {oks : List (Thread × Eff)} (hs : Safe s) :
    Safe (s.sampleWord b gid issue oks) := hs.foldl_fst fun _ _ h => h.sampleItem

protected theorem Safe.putLanes {b : Block} {gid : Nat} {pinned : Bool} {oks : List (Thread × Eff)} (hs : Safe s) :
    Safe (s.putLanes b gid pinned oks) := by
  unfold State.putLanes
  extract_lets s1 t
  have ht : Safe t := (hs.bump.sampleWord.ite hs.bump).foldl fun _ _ h => h.putLane
  exact ht.mend.ite ht

protected theorem Safe.branchTrace {g : Machine.Group} {b : Block} {pinned : Bool} {xs : List Thread}
    {oks : List (Thread × Eff)} (hs : Safe s) : Safe (s.branchTrace g b pinned xs oks) := by
  unfold State.branchTrace
  dsimp only
  split
  · exact hs
  · exact hs.trace

protected theorem Safe.stepPcs {b : Block} {xs : List Thread} {oks : List (Thread × Eff)} (hs : Safe s) :
    Safe (s.stepPcs b xs oks) := hs.foldl fun _ _ h => h.updThread

protected theorem Safe.overflow {g : Machine.Group} {b : Block} (hs : Safe s) : Safe (s.overflow g b) :=
  hs.reenter.updBlock fun _ h => h

protected theorem Safe.complete {g : Machine.Group} {b : Block} {xs : List Thread} {oks : List (Thread × Eff)} (hs : Safe s) :
    SafeOut (s.complete g b xs oks) := by
  unfold State.complete
  extract_lets pinned busy open1 full
  refine SafeOut.ite hs.stall.next (SafeOut.ite (Safe.next (Safe.stall (hs.commit.updBlock fun _ h => h))) ?_)
  have h1 : Safe ((s.putLanes b g.gid pinned oks).branchTrace g b pinned xs oks) := hs.putLanes.branchTrace
  exact SafeOut.ite (SafeOut.ite hs.stall.next hs.overflow.next) (SafeOut.ite hs.stall.next h1.stepPcs.regroup.next)

protected theorem Safe.combine {go : State → List Thread → List (Thread × Eff) → Out} {leads : Bool} {g : Group} {b : Block}
    {xs : List Thread} {rs : List (Thread × LaneRes Eff)} (hs : Safe s) (hgo : ∀ t xs oks, Safe t → SafeOut (go t xs oks)) :
    SafeOut (s.combine leads g b xs rs go) := by
  have h0 : Safe (s.dropAsks s.sched.cur) := hs.dropAsks
  unfold State.combine
  split
  · trivial
  · split
    · exact hs.consumePoison
    · split
      · exact hs.stall
      · dsimp only
        split
        · exact hgo _ _ _ h0
        · exact h0.park
        · refine SafeOut.ite h0.takeTraps.next (SafeOut.ite h0.takeTraps.park.next (SafeOut.ite h0.takeTraps.next ?_))
          exact hgo _ _ _ h0.takeTraps

protected theorem Safe.countMismatch {unit : Nat} (hs : Safe s) : Safe (s.countMismatch unit).1 := hs.frame rfl rfl

protected theorem Safe.errorRecord {kind store unit ctx paddr blk syn : Nat} (hs : Safe s) :
    Safe (s.errorRecord kind store unit ctx paddr blk syn) := by
  unfold State.errorRecord
  refine Safe.postEvent ?_
  dsimp only
  split
  · exact hs.frame rfl rfl
  · split
    · exact hs.frame rfl rfl
    · refine Safe.frame (s := (State.devWrite _ _ _)) ?_ rfl rfl
      exact Safe.devWrite (hs.frame rfl rfl)

protected theorem Safe.fenceCore {core uid : Nat} {tids : List Nat} {syndrome unit tilexy : Nat} (hs : Safe s) :
    Safe (s.fenceCore core uid tids syndrome unit tilexy) := Safe.relocateBlocks (Safe.updBlock (hs.frame rfl rfl) fun _ h => h)

protected theorem Safe.mismatch {g : Machine.Group} {b : Block} {xs : List Thread} {lane kind : Nat} {special : Bool}
    (hs : Safe s) : Safe (s.mismatch g b xs lane kind special) := by
  unfold State.mismatch
  extract_lets unit src s1 r syndrome
  have hr : Safe r.1 := Safe.countMismatch (hs.frame rfl rfl)
  exact Safe.ite (hr.errorRecord.ite hr.errorRecord.reenter) hr.errorRecord.fenceCore

protected theorem Safe.compared {go : Out} {g : Group} {b : Block} {act : List Thread} {kind : Nat} (hs : Safe s)
    (hgo : SafeOut go) : SafeOut (s.compared g b act kind go) := by
  unfold State.compared
  split
  · exact hs.mismatch
  · exact hgo

protected theorem Safe.laneWord {lane : LaneFn} {fs : List Form} {mem : Bool} {kind : Nat} (hs : Safe s) (hl : KeepsSafe lane) :
    SafeOut (laneWord fs mem kind lane s) := by
  unfold Machine.laneWord
  split
  · trivial
  · exact hs.stall.next.ite (hs.compared ((hs.runLanes hl).combine fun _ _ _ h => h.complete))

protected theorem Safe.commitAll {b : Block} {tids : List Nat} (hs : Safe s) : Safe (s.commitAll b tids) :=
  Safe.foldl (hs.commit.updBlock fun _ h => h) fun _ _ h => h.cancel

protected theorem Safe.settleSave {uid : Nat} (hs : Safe s) : Safe (s.settleSave uid) := by
  unfold State.settleSave
  split
  · exact hs
  · exact hs.holdThreads.ite hs

protected theorem Safe.performPlain {g : Machine.Group} {b : Block} {oks : List (Thread × Eff)} (hs : Safe s) :
    Safe (performPlain s g b oks).1 := by
  refine hs.bump.foldl fun t xe ht => ?_
  extract_lets t1 t2 t3
  have h2 : Safe t2 := ht.updThread.foldl fun _ _ h => h.buffer
  have h3 : Safe t3 := h2.ite h2.commit
  exact h3.putRequest

protected theorem Safe.afterCommits {g : Machine.Group} {b : Block} {xs : List Thread} {oks : List (Thread × Eff)}
    (hs : Safe s) : Safe (s.afterCommits g b xs oks) :=
  Safe.settleSave (Safe.drawAll (Safe.regroup (hs.foldl fun _ _ h => h.updThread.ite h)))

protected theorem Safe.retire {b : Block} {tids : List Nat} (hs : Safe s) : Safe (s.retire b tids) :=
  Safe.ite (hs.updBlock fun _ h => h) hs

protected theorem Safe.commitTrace {b : Block} {tids : List Nat} {info : Nat} {pc : Int} (hs : Safe s) :
    Safe (s.commitTrace b tids info pc) := by
  unfold State.commitTrace
  dsimp only
  split
  · exact hs.trace
  · exact hs

/-- What a commit-class word performs keeps a state safe. -/
def PerformsSafe (perform : PerformFn) : Prop :=
  ∀ (t : State) (g : Group) (b : Block) (oks : List (Thread × Eff)), Safe t → Safe (perform t g b oks).1

theorem performPlain_safe : PerformsSafe performPlain := fun _ _ _ _ h => h.performPlain

theorem performThen_safe {f : State → Group → Block → List (Thread × Eff) → State}
    (hf : ∀ t g b oks, Safe t → Safe (f t g b oks)) : PerformsSafe (performThen f) := hf

protected theorem Safe.commitPerform {perform : PerformFn} {drain : Item → Bool} {g : Machine.Group} {b : Block}
    {xs : List Thread} {oks : List (Thread × Eff)} (hs : Safe s) (hp : PerformsSafe perform) :
    SafeOut (s.commitPerform drain perform g b xs oks) := by
  unfold State.commitPerform
  extract_lets tids fresh s1 s2
  have h2 : Safe s2 := hs.ite hs.retire.commitAll.commitTrace
  refine SafeOut.ite (Safe.stall (h2.foldl fun _ _ h => h.updThread)).next ?_
  split
  · exact h2
  · next b2 _ =>
    extract_lets oks2 r
    have hr : Safe r.1 := hp s2 g b2 oks2 h2
    exact SafeOut.ite hs.stall.next (hr.afterCommits.ite hr).next

protected theorem Safe.commitWord {lane : LaneFn} {perform : PerformFn} {fs : List Form} {drain : Item → Bool} (hs : Safe s)
    (hl : KeepsSafe lane) (hp : PerformsSafe perform) : SafeOut (commitWord fs drain lane perform s) := by
  have hm : KeepsSafe fun s b act x => if x.mid then (s, .ok { kept := x.kept }) else lane s b act x :=
    fun t b act x h => Safe.ite_fst h (hl t b act x h)
  unfold Machine.commitWord
  split
  · trivial
  · refine hs.stall.next.ite (hs.compared ((hs.runLanes hm).combine fun _ _ _ h => ?_))
    exact SafeOut.ite h.stepPcs.regroup.next (h.commitPerform hp)

/-! ### Replay gates and performed entries -/

protected theorem Safe.finishCommand {idx op status d1 : Nat} (hs : Safe s) : SafeOut (s.finishCommand idx op status d1) :=
  SafeOut.ite trivial (SafeOut.ite trivial (Safe.next (hs.devWrite.frame rfl rfl)))

protected theorem Safe.passed {k : LogKey} (hs : Safe s) : Safe (s.passed k) := Safe.ite (hs.frame rfl rfl) (hs.frame rfl rfl)

protected theorem Safe.shutGate {ctx : Nat} (hs : Safe s) : Safe (s.shutGate ctx) := hs.frame rfl rfl

protected theorem Safe.replayStop {k : LogKey} {reason : Nat} {log : Nat × Nat} (hs : Safe s) :
    Safe (s.replayStop k reason log) := by
  have h : Safe ((s.shutGate k.ctx).blocks.filter (fun b => b.ctx == k.ctx && b.st != .finished) |>.foldl
      (fun s b => s.haltBlock b.uid reason 0 (0, 0)) (s.shutGate k.ctx)) := hs.shutGate.foldl fun _ _ h => h.haltBlock
  exact h.mapBlocks rfl rfl fun _ hb => Block.canonical_ite (Block.canonical_ite hb hb) hb

protected theorem Safe.spoil {ps : List Piece} (hs : Safe s) : Safe (s.spoil ps) := by
  refine hs.foldl fun t p h => ?_
  split
  · exact h.updBlock fun _ hb => Block.poison_canonical hb _
  · exact h.ite (h.foldl fun _ _ h => h.withMem (Mem.addPoison_wf h.mem_wf _) rfl)

protected theorem Safe.performItem {i : Item} (hs : Safe s) : Safe (s.performItem i) := by
  have h2 : Safe (if i.psn then ((s.sampleItem i (s.otherLanes i)).perform i.core i.eff).spoil i.eff.pieces
      else (s.sampleItem i (s.otherLanes i)).perform i.core i.eff) :=
    hs.sampleItem.perform.spoil.ite hs.sampleItem.perform
  unfold State.performItem
  dsimp only
  split
  all_goals
    refine Safe.frame ?_ rfl rfl
    split
    · exact h2.passed
    · exact h2

protected theorem Safe.runWord {ls : List WordLane} (hs : Safe s) (hl : ∀ l ∈ ls, ∀ t, Safe t → Safe (l.2 t)) :
    Safe (State.runWord ls s) := by
  induction ls generalizing s with
  | nil => exact hs
  | cons l ls ih =>
    have hn := ih (hl l List.mem_cons_self s hs) fun k hk => hl k (List.mem_cons_of_mem _ hk)
    unfold State.runWord
    split
    · exact hn
    · split
      · exact hs
      · split
        · exact hn.ite hs.replayStop
        · exact hn

protected theorem Safe.lockItems {is : List Item} (hs : Safe s) : Safe (s.lockItems is) := hs.frame rfl rfl

protected theorem Safe.performEntry {i : Item} (hs : Safe s) : Safe (s.performEntry i) := by
  have h1 : Safe (State.runWord (s.itemLanes (s.itemsWith i)) (s.lockItems (s.itemsWith i))) := by
    refine hs.lockItems.runWord fun l hl t ht => ?_
    obtain ⟨j, -, rfl⟩ := List.mem_map.1 hl
    exact ht.performItem
  exact h1.ite h1.mend

/-! ### Memory responses -/

protected theorem Safe.trapLoaded {uid tid : Nat} (hs : Safe s) : Safe (s.trapLoaded uid tid) := by
  unfold State.trapLoaded
  split
  · exact hs
  · split
    · exact hs.enterHandler.ite hs
    · exact hs

protected theorem Safe.finishRequest {r : Req} {bs : List Byte} {psn : List Bool} {tag : Bool} (hs : Safe s) :
    Safe (s.finishRequest r bs psn tag) :=
  Safe.trapLoaded ((hs.updThread.missAfter.ite (hs.updThread.missOlder.ite hs.updThread)).frame rfl rfl)

protected theorem Safe.sheetOf {r : Req} (hs : Safe s) : Safe (s.sheetOf r) := by
  unfold State.sheetOf
  dsimp only
  split
  · exact hs.contactSheet
  · exact hs

protected theorem Safe.atomDone {r : Req} {old : Nat} {psn : Bool} (hs : Safe s) : Safe (s.atomDone r old psn) := by
  unfold State.atomDone
  refine Safe.finishRequest ?_
  split
  · exact hs.passed
  · exact hs

protected theorem Safe.respondAtom {r : Req} (hs : Safe s) : Safe (s.respondAtom r) := by
  unfold State.respondAtom
  dsimp only
  split
  · exact hs.sheetOf.atomPiece.atomDone
  · exact hs.sheetOf

protected theorem Safe.lockReqs {rs : List Req} (hs : Safe s) : Safe (s.lockReqs rs) := hs.frame rfl rfl

protected theorem Safe.gotPiece {r : Req} {j : Nat} {sh : Share} (hs : Safe s) : Safe (s.gotPiece r j sh) :=
  hs.finishRequest.ite (hs.frame rfl rfl)

protected theorem Safe.respondPiece {r : Req} {j : Nat} (hs : Safe s) : Safe (s.respondPiece r j) := by
  unfold State.respondPiece
  dsimp only
  split
  · exact hs
  · exact (hs.sheetOf.ite hs).loadPiece.gotPiece

protected theorem Safe.performWord {r : Req} (hs : Safe s) : Safe (s.performWord r) := by
  refine Safe.ite (hs.lockReqs.runWord fun l hl t ht => ?_) hs
  obtain ⟨q, -, rfl⟩ := List.mem_map.1 hl
  exact ht.respondAtom

protected theorem Safe.execMemoryResponse (hs : Safe s) : SafeOut (execMemoryResponse s) := by
  unfold Machine.execMemoryResponse
  split
  · trivial
  · exact SafeOut.ite (hs.performWord.next.ite trivial) (hs.respondPiece.next.ite trivial)

protected theorem Safe.execStoreBufferPerform (hs : Safe s) : SafeOut (execStoreBufferPerform s) := by
  unfold Machine.execStoreBufferPerform
  dsimp only
  split
  · trivial
  · exact hs.performEntry.next

protected theorem Safe.waitingAtom {id n : Nat} {k : LogKey} {t : State} (hs : Safe s) (e : s.waitingAtom id = some (k, n, t)) :
    Safe t := by
  unfold State.waitingAtom at e
  split at e
  · split at e
    · obtain ⟨_, -, h⟩ := Option.map_eq_some_iff.1 e
      cases h; exact hs.performWord
    · cases e
  · obtain ⟨i, -, e⟩ := Option.bind_eq_some_iff.1 e
    split at e
    · cases e
    · obtain ⟨_, -, h⟩ := Option.map_eq_some_iff.1 e
      cases h; exact hs.performEntry

protected theorem Safe.execReplayGateRelease (hs : Safe s) : SafeOut (execReplayGateRelease s) := by
  unfold Machine.execReplayGateRelease
  split
  · trivial
  · next e =>
    split
    · trivial
    · split
      · exact SafeOut.ite (hs.waitingAtom e) hs.replayStop
      · exact hs.waitingAtom e

protected theorem Safe.execReplayGateTimeout (hs : Safe s) : SafeOut (execReplayGateTimeout s) := by
  unfold Machine.execReplayGateTimeout
  split
  · trivial
  · exact SafeOut.ite trivial (SafeOut.ite trivial hs.replayStop.next)

protected theorem Safe.execWatchTrigger (hs : Safe s) : SafeOut (execWatchTrigger s) := by
  unfold Machine.execWatchTrigger
  dsimp only
  split
  · trivial
  · exact hs.wakeThread.next.ite (hs.wakeThread.next.ite trivial)

protected theorem Safe.execMwaitTimeout (hs : Safe s) : SafeOut (execMwaitTimeout s) := by
  unfold Machine.execMwaitTimeout
  dsimp only
  split
  · trivial
  · exact SafeOut.ite trivial hs.wakeThread.next

protected theorem Safe.execBinAgedDraw (hs : Safe s) : SafeOut (execBinAgedDraw s) := by
  unfold Machine.execBinAgedDraw
  dsimp only
  split
  · trivial
  · exact SafeOut.ite trivial (SafeOut.ite trivial hs.draw.next)

protected theorem Safe.execTrapDelivery (hs : Safe s) : SafeOut (execTrapDelivery s) := by
  unfold Machine.execTrapDelivery
  dsimp only
  split
  · trivial
  · split
    · exact SafeOut.ite trivial hs.enterHandler.next
    · trivial

/-! ### Traps, watches and fault records -/

protected theorem Safe.execFaultRecordWrite (hs : Safe s) : SafeOut (execFaultRecordWrite s) := by
  unfold Machine.execFaultRecordWrite
  dsimp only
  split
  · exact SafeOut.ite trivial (SafeOut.ite trivial (SafeOut.ite trivial (Safe.next (Safe.postEvent (hs.devWrite.devStore.frame
      rfl rfl)))))
  · trivial

protected theorem Safe.unpark {gid : Nat} (hs : Safe s) : Safe (s.unpark gid) := by
  unfold State.unpark
  dsimp only
  split
  · exact hs
  · split
    · exact hs
    · split
      · exact Safe.ite (hs.updBlock fun _ h => h) (Safe.takeTraps (hs.updBlock fun _ h => h))
      · split
        · exact Safe.ite (Safe.updGroup (Safe.ite (hs.updBlock fun _ h => h) (Safe.takeTraps (hs.updBlock fun _ h => h))))
            (Safe.drawAll (Safe.fileAll (Safe.dropGroup (Safe.ite (hs.updBlock fun _ h => h) (Safe.takeTraps (hs.updBlock
            fun _ h => h))))))
        · exact Safe.ite (hs.updBlock fun _ h => h) (Safe.takeTraps (hs.updBlock fun _ h => h))

protected theorem Safe.answerGroups {ctx seq obj : Nat} {fail : Bool} (hs : Safe s) :
    Safe (s.answerGroups ctx seq obj fail) :=
  Safe.foldl (hs.mapBlocks rfl rfl fun _ h => Block.canonical_ite h h) fun _ _ h => h.unpark.ite h

/-! ### Memory words -/

protected theorem Safe.capLane {w : MemW} {n : Nat} {op : AccOp} {eff : Thread → List Piece → Eff} {b : Block}
    {act : List Thread} {x : Thread} (hs : Safe s) : Safe (capLane w n op eff s b act x).1 := hs.access

protected theorem Safe.spadLane {w : MemW} {n align : Nat} {eff : Thread → Piece → Eff} {b : Block} {act : List Thread}
    {x : Thread} (hs : Safe s) : Safe (spadLane w n align eff s b act x).1 :=
  hs.frame rfl rfl

protected theorem Safe.matLane {w : MemW} {op : AccOp} {eff : Thread → List Piece → Eff} {b : Block} {act : List Thread}
    {x : Thread} (hs : Safe s) : Safe (matLane w op eff s b act x).1 := hs.access

protected theorem Safe.execStcap {w : MemW} (hs : Safe s) : SafeOut (execStcap w s) := by
  unfold Machine.execStcap
  refine hs.laneWord ?_
  intro _ _ _ _ h
  dsimp only
  split
  · exact h
  · exact h.capLane

protected theorem PerformsSafe.fencePerform {w : MemW} : PerformsSafe (fencePerform w) :=
  performThen_safe fun _ _ _ _ h => h.missAfter

protected theorem Safe.execPrefetch {w : MemW} (hs : Safe s) : SafeOut (execPrefetch w s) := by
  unfold Machine.execPrefetch
  refine hs.laneWord ?_
  intro _ _ _ _ h
  dsimp only
  split
  · next e => exact h.access.of_fst e
  · next e => exact h.access.of_fst e
  · exact h

protected theorem Safe.cacheWord {op : Nat} {w : MemW} (hs : Safe s) : SafeOut (cacheWord op w s) := by
  unfold Machine.cacheWord
  refine hs.laneWord ?_
  intro _ _ _ _ h
  dsimp only
  split
  · next e => exact (h.access.of_fst e).ite_fst (h.access.of_fst e)
  · next e1 => exact h.access.of_fst e1

protected theorem Safe.execMon {w : Plain} (hs : Safe s) : SafeOut (execMon w s) := by
  refine hs.laneWord fun t b act x h => ?_
  dsimp only
  split
  · exact h.access
  · exact h

protected theorem Safe.mwaitThread {uid tid : Nat} {rgnNext : Bool} (hs : Safe s) : Safe (s.mwaitThread uid tid rgnNext) := by
  unfold State.mwaitThread
  dsimp only
  split
  · exact hs
  · exact hs.sleep.updThread.ite hs.updThread

protected theorem Safe.execMwait {w : Plain} (hs : Safe s) : SafeOut (execMwait w s) :=
  hs.commitWord keepsSafe_pure (performThen_safe fun _ _ _ _ h => h.foldl fun _ _ h1 => h1.mwaitThread)

/-! ### Atomics and wide accesses -/

protected theorem Safe.atomWord {k : Nat} {w : MemW} (hs : Safe s) : SafeOut (atomWord k w s) :=
  hs.commitWord (fun _ _ _ _ h => h.capLane) performPlain_safe

protected theorem Safe.redWord {k : Nat} {w : MemW} (hs : Safe s) : SafeOut (redWord k w s) :=
  hs.laneWord fun _ _ _ _ h => h.capLane

protected theorem Safe.atomsWord {k : Nat} {w : MemW} (hs : Safe s) : SafeOut (atomsWord k w s) :=
  SafeOut.ite (hs.laneWord fun _ _ _ _ h => h.spadLane) (hs.commitWord (fun _ _ _ _ h => h.spadLane) performPlain_safe)

protected theorem Safe.execWsum {w : MemW} (hs : Safe s) : SafeOut (execWsum w s) := by
  unfold Machine.execWsum
  exact hs.laneWord (KeepsSafe.ite (fun _ _ _ _ h => h.capLane) fun _ _ _ _ h => h.spadLane)

protected theorem Safe.execWrd {w : MemW} (hs : Safe s) : SafeOut (execWrd w s) := by
  unfold Machine.execWrd
  exact hs.laneWord (KeepsSafe.ite (fun _ _ _ _ h => h.capLane) fun _ _ _ _ h => h.spadLane)

/-! ### Object entries -/

protected theorem Safe.writeEntry {a : Nat} {e : Entry} (hs : Safe s) : Safe (s.writeEntry a e) :=
  hs.foldl fun _ _ h => h.writePiece

protected theorem Safe.queueLaunch {ctx slot : Nat} {e : Entry} (hs : Safe s) : Safe (s.queueLaunch ctx slot e).1 :=
  hs.ite_fst hs.writeEntry.devStore.updSlot

/-! ### The Cellar -/

protected theorem Safe.agentRead {die ctx obj o n : Nat} {op : AccOp} (hs : Safe s) :
    Safe (s.agentRead die ctx obj o n op).1 := by
  unfold State.agentRead
  dsimp only
  split
  · next e => exact (hs.translate.of_fst e).dropAsks
  · next e => exact (hs.translate.of_fst e).dropAsks
  · next e => exact (hs.translate.of_fst e).dropAsks
  · next e => exact hs.translate.of_fst e
  · next e => exact (hs.translate.of_fst e).dropAsks
  · next e => exact hs.translate.of_fst e

protected theorem Safe.updRead {id : Nat} {f : PageRead → PageRead} (hs : Safe s) : Safe (s.updRead id f) := hs.frame rfl rfl

protected theorem Safe.dropRead {id : Nat} (hs : Safe s) : Safe (s.dropRead id) := hs.frame rfl rfl

protected theorem Safe.startRead {q hint : Nat} {f : PageRead → PageRead} (hs : Safe s) : Safe (s.startRead q hint f).1 :=
  hs.frame rfl rfl

protected theorem Safe.holdEntry {launch i die : Nat} {fs : List FaultAt} (hs : Safe s) :
    Safe (s.holdEntry launch i die fs) := hs.recordFaults.updLaunch

protected theorem Safe.invalidEntry {launch i pgno : Nat} (hs : Safe s) : Safe (s.invalidEntry launch i pgno) :=
  hs.updLaunch.arrive

protected theorem Safe.notePage {launch i pgno : Nat} (hs : Safe s) : Safe (s.notePage launch i pgno) :=
  hs.mapBlocks rfl rfl fun _ h => Block.canonical_ite h h

protected theorem Safe.mapEntry {l : Launch} {i p die : Nat} {join : Bool} (hs : Safe s) :
    SafeOut (s.mapEntry l i p die join) := by
  unfold State.mapEntry
  dsimp only
  split
  · exact hs.invalidEntry.next
  · split
    · trivial
    · next e1 =>
      split
      · exact (hs.walk.of_fst e1).updLaunch.holdEntry.next
      · split
        · exact (hs.walk.of_fst e1).invalidEntry.next
        · split
          · exact (hs.walk.of_fst e1).next
          · split
            · exact (hs.walk.of_fst e1).updLaunch.updRead.next
            · exact (hs.walk.of_fst e1).updLaunch.startRead.next
    · next e1 => exact (hs.walk.of_fst e1).invalidEntry.next
    · exact hs.invalidEntry.next

protected theorem Safe.readEntry {l : Launch} {i die : Nat} {join : Bool} (hs : Safe s) :
    SafeOut (s.readEntry l i die join) := by
  unfold State.readEntry
  split
  · next e => exact (hs.agentRead.of_fst e).notePage.mapEntry
  · next e => exact (hs.agentRead.of_fst e).next
  · next e => exact (hs.agentRead.of_fst e).holdEntry.next
  · trivial
  · next e4 => exact (hs.agentRead.of_fst e4).invalidEntry.next

protected theorem Safe.resumeEntry {l : Launch} {i die : Nat} {join : Bool} (hs : Safe s) :
    SafeOut (s.resumeEntry l i die join) := by
  unfold State.resumeEntry
  split
  · exact hs.mapEntry
  · exact hs.readEntry

protected theorem Safe.execPageReadStart (hs : Safe s) : SafeOut (execPageReadStart s) := by
  unfold Machine.execPageReadStart
  dsimp only
  split
  · trivial
  · exact SafeOut.ite trivial (SafeOut.ite trivial (SafeOut.ite trivial (SafeOut.ite (hs.resumeEntry.ite trivial)
      (hs.readEntry.ite trivial))))

protected theorem Safe.execSenseDone (hs : Safe s) : SafeOut (execSenseDone s) := by
  unfold Machine.execSenseDone
  split
  · trivial
  · exact SafeOut.ite (hs.updRead.next.ite trivial) (hs.updRead.next.ite trivial)

protected theorem Safe.execTransferDone (hs : Safe s) : SafeOut (execTransferDone s) := by
  unfold Machine.execTransferDone
  dsimp only
  split
  · trivial
  · exact SafeOut.ite trivial (SafeOut.ite trivial (SafeOut.ite trivial hs.updRead.next))

protected theorem Safe.pageOutcome {r : PageRead} {code : Nat} {data : List Host.Cell} (hs : Safe s) :
    Safe (s.pageOutcome r code data) := by
  unfold State.pageOutcome
  refine Safe.frame (s := (List.foldl _ _ _)) ?_ rfl rfl
  exact hs.foldl fun _ _ h => h.arrive

protected theorem Safe.endPgread {r : PageRead} {code : Nat} {data : List Host.Cell} (hs : Safe s) :
    SafeOut (s.endPgread r code data) := by
  unfold State.endPgread
  dsimp only
  split
  · exact hs.next
  · exact SafeOut.ite trivial hs.devWrite.finishCommand

protected theorem Safe.endCorrection {r : PageRead} {code : Nat} {data : List Host.Cell} (hs : Safe s) :
    SafeOut (s.endCorrection r code data) := (hs.pageOutcome.updRead.ite hs.pageOutcome.dropRead).endPgread

protected theorem Safe.execCorrectionDone (hs : Safe s) : SafeOut (execCorrectionDone s) := by
  unfold Machine.execCorrectionDone
  split
  · trivial
  · split
    · trivial
    · split
      · exact hs.endCorrection
      · exact hs.endCorrection.ite (hs.endCorrection.ite hs.updRead.next)

protected theorem Safe.execPageBufferEnter (hs : Safe s) : SafeOut (execPageBufferEnter s) := by
  unfold Machine.execPageBufferEnter
  split
  · trivial
  · exact SafeOut.ite trivial (SafeOut.ite trivial hs.updRead.next)

protected theorem Safe.execPageDelivery (hs : Safe s) : SafeOut (execPageDelivery s) := by
  unfold Machine.execPageDelivery
  dsimp only
  split
  · next r b _ _ =>
    have h : Safe (s.updBlock b.uid fun b => { b with scr := setCells 0 (pageBytes r.data) b.scr, landed := true }) :=
      hs.updBlock fun _ hb => Block.setScr_canonical hb _ _
    exact SafeOut.ite trivial (SafeOut.ite trivial (h.dropRead.ite h.updRead))
  · trivial

protected theorem Safe.setPage {q : Nat} {c : Option CellarPage} (hs : Safe s) : Safe (s.setPage q c) := hs.frame rfl rfl

protected theorem Safe.execPgmEraseComplete (hs : Safe s) : SafeOut (execPgmEraseComplete s) := by
  unfold Machine.execPgmEraseComplete
  dsimp only
  split
  · trivial
  · exact SafeOut.ite trivial (SafeOut.ite (SafeOut.ite trivial (Safe.finishCommand (Safe.setPage (hs.frame rfl rfl))))
      (SafeOut.ite (Safe.finishCommand (hs.frame rfl rfl)) (Safe.finishCommand (hs.frame rfl rfl))))

/-! ### Integer words -/

protected theorem Safe.elemWord {op n : Nat} {f : Nat → Nat → Nat → Nat} {w : Rounded} (hs : Safe s) :
    SafeOut (elemWord op n f w s) := hs.laneWord keepsSafe_pure

protected theorem Safe.intWord {op n : Nat} {f : Int → Int → Int → Int} {w : Rounded} (hs : Safe s) :
    SafeOut (intWord op n f w s) := hs.elemWord

protected theorem Safe.execCvtI {w : Rounded} (hs : Safe s) : SafeOut (execCvtI w s) := by
  unfold Machine.execCvtI
  exact hs.laneWord keepsSafe_pure

/-! ### Command words -/

protected theorem Safe.runChecks {cs : List Check} (hs : Safe s) (hc : ∀ c ∈ cs, ∀ t, Safe t → Safe (c t).1) :
    Safe (runChecks cs s).1 := by
  induction cs generalizing s with
  | nil => exact hs
  | cons c cs ih =>
    have h := hc c List.mem_cons_self s hs
    unfold Machine.runChecks
    split
    · next e => exact ih (h.of_fst e) fun k hk => hc k (List.mem_cons_of_mem _ hk)
    · exact h

protected theorem Safe.capCheck {q : ObjRange} (hs : Safe s) : Safe (capCheck q s).1 := by
  unfold Machine.capCheck
  split <;> exact hs

protected theorem Safe.spadCheck {b : Block} {q : Nat × Nat} (hs : Safe s) : Safe (spadCheck b q s).1 := hs.frame rfl rfl

protected theorem Safe.alignCheck {q : Nat × Nat} (hs : Safe s) : Safe (alignCheck q s).1 := hs.ite_fst hs

protected theorem Safe.entryCheck {b : Block} {q : ObjRange} (hs : Safe s) : Safe (entryCheck b q s).1 := by
  unfold Machine.entryCheck
  split
  · next e => exact hs.entryPart.of_fst e
  · next e => exact hs.entryPart.of_fst e
  · next e2 => exact hs.entryPart.of_fst e2

/-- Every check of a command keeps a state safe. -/
def ChecksSafe (cs : List Check) : Prop := ∀ c ∈ cs, ∀ t, Safe t → Safe (c t).1

protected theorem ChecksSafe.nil : ChecksSafe [] := fun _ h => absurd h List.not_mem_nil

protected theorem ChecksSafe.append {cs ds : List Check} (hc : ChecksSafe cs) (hd : ChecksSafe ds) : ChecksSafe (cs ++ ds) :=
  List.forall_mem_append.2 ⟨hc, hd⟩

protected theorem ChecksSafe.map {α : Type} {f : α → Check} {l : List α} (hf : ∀ a t, Safe t → Safe (f a t).1) :
    ChecksSafe (l.map f) :=
  List.forall_mem_map.2 fun a _ => hf a

protected theorem ChecksSafe.rangeChecks {b : Block} {objs : List ObjRange} {spads aligns : List (Nat × Nat)} :
    ChecksSafe (rangeChecks b objs spads aligns) :=
  (((ChecksSafe.map fun _ _ h => h.capCheck).append (ChecksSafe.map fun _ _ h => h.spadCheck)).append
    (ChecksSafe.map fun _ _ h => h.alignCheck)).append (ChecksSafe.map fun _ _ h => h.entryCheck)

protected theorem Safe.commandWord {f : Form} {checks : Block → Thread → List Check} {cmd : Block → Thread → Cmd} (hs : Safe s)
    (hc : ∀ b x, ChecksSafe (checks b x)) : SafeOut (commandWord f checks cmd s) := by
  refine hs.laneWord fun t b act x h => ?_
  split
  · exact h.runChecks (hc b x)
  · exact h

protected theorem Safe.execRack {w : Plain} (hs : Safe s) : SafeOut (execRack w s) := by
  refine hs.commandWord fun b x => ?_
  split
  · exact ChecksSafe.rangeChecks
  · exact ChecksSafe.rangeChecks

protected theorem Safe.takeResv {b : Block} (hs : Safe s) : Safe (s.takeResv b).1 := by
  unfold State.takeResv
  dsimp only
  split
  · exact hs.frame rfl rfl
  · exact hs.ite_fst (hs.frame rfl rfl)

protected theorem Safe.execPacq {w : Plain} (hs : Safe s) : SafeOut (execPacq w s) :=
  hs.commitWord keepsSafe_pure (performThen_safe fun _ _ _ _ h => h.takeResv.foldl fun _ _ h1 => h1.updThread)

protected theorem Safe.execPrel {w : Plain} (hs : Safe s) : SafeOut (execPrel w s) :=
  hs.commitWord keepsSafe_pure (performThen_safe fun _ _ _ _ h => h.frame rfl rfl)

/-! ### Barriers and control words -/

protected theorem Safe.execReform {w : Imm} (hs : Safe s) : SafeOut (execReform w s) := by
  unfold Machine.execReform
  split
  · trivial
  · refine hs.compared (SafeOut.ite hs.stepPcs.regroup.next ?_)
    dsimp only
    split
    · exact hs.stepPcs.dropGroup
    · exact hs.stepPcs.dropGroup.fileAll.drawAll

/-! ### Copy engines -/

protected theorem Safe.updCmd {id : Nat} {f : Cmd → Cmd} (hs : Safe s) : Safe (s.updCmd id f) := hs.frame rfl rfl

protected theorem Safe.execCommandEnqueue (hs : Safe s) : SafeOut (execCommandEnqueue s) := by
  unfold Machine.execCommandEnqueue
  split
  · trivial
  · split
    · exact Safe.next (Safe.enqueue (hs.frame rfl rfl))
    · trivial

protected theorem Safe.askPage {c : Cmd} {cap : CapReg} {m j : Nat} (hs : Safe s) : Safe (s.askPage c cap m j).1 :=
  (hs.ite_fst hs).ite_fst (hs.ite_fst hs.startRead.updCmd)

protected theorem Safe.walkPages {die : Nat} {c : Cmd} {obj : Nat} {js : List Nat} (hs : Safe s) :
    Safe (walkPages die c obj js s).1 := by
  induction js generalizing s with
  | nil => exact hs
  | cons j js ih =>
    simp only [Machine.walkPages]
    split
    · next e =>
      have h := hs.walk.of_fst e
      exact Safe.ite_fst (ih h) (Safe.ite_fst h h)
    · next e => exact hs.walk.of_fst e
    · next e => exact hs.walk.of_fst e

protected theorem Safe.walkRow {die : Nat} {c : Cmd} {obj o n : Nat} (hs : Safe s) : Safe (s.walkRow die c obj o n).1 := by
  unfold State.walkRow
  split
  · next e => exact hs.translate.of_fst e
  · next e => exact (hs.translate.of_fst e).walkPages
  · next e => exact hs.translate.of_fst e
  · next e => exact hs.translate.of_fst e
  · next e => exact (hs.translate.of_fst e).ite_fst (hs.translate.of_fst e)
  · next e => exact hs.translate.of_fst e

protected theorem Safe.fetchSpot {die : Nat} {c : Cmd} {b : Block} {p : Spot} {n : Nat} {row : Option (Nat × Nat)}
    (hs : Safe s) : Safe (s.fetchSpot die c b p n row).1 := by
  unfold State.fetchSpot
  split
  · exact hs
  · split <;> exact hs
  · next cap o =>
    extract_lets whole
    have hw : Safe whole.1 := by
      unfold whole
      split
      · exact hs.walkRow
      · exact hs
    clear_value whole
    dsimp only
    split
    · next s0 _ _ _ =>
      have h1 : Safe (translate s0 none die c.ctx cap.obj o n opCopySrc).1 := Safe.translate hw
      revert h1
      generalize translate s0 none die c.ctx cap.obj o n opCopySrc = r
      intro h1
      split
      · exact h1
      · split
        · exact Safe.ite_fst h1 (Safe.ite_fst h1 h1)
        · exact Safe.askPage h1
      · exact h1
      · exact h1
      · exact Safe.ite_fst h1 h1
      · exact h1
    · exact hw

protected theorem Safe.targetSpot {die : Nat} {c : Cmd} {b : Block} {p : Spot} {n : Nat} (hs : Safe s) :
    Safe (s.targetSpot die c b p n).1 := by
  unfold State.targetSpot
  split
  · exact hs
  · split <;> exact hs
  · split
    · next e => exact hs.translate.of_fst e
    · next e => exact hs.translate.of_fst e
    · next e => exact hs.translate.of_fst e
    · next e => exact hs.translate.of_fst e
    · next e => exact (hs.translate.of_fst e).ite_fst (hs.translate.of_fst e)
    · next e => exact hs.translate.of_fst e

protected theorem Safe.landBytes {ps : List Piece} {bs : List Byte} {psn : List Bool} {tags : Option (List Bool)} (hs : Safe s) :
    Safe (s.landBytes ps bs psn tags) := by
  induction ps generalizing s bs psn tags with
  | nil => exact hs
  | cons p ps ih =>
    unfold State.landBytes
    refine ih ?_
    have h2 : Safe (match tags, p.peer with
        | some ts, none => (List.range (p.len / 16)).foldl (fun s i =>
            if ts.getD i false then
              (s.writeAddrs p).foldl (fun s a =>
                { s with mem := { s.mem with tags := insertNat ((a + 16 * i) / 16) s.mem.tags } }) s
            else s) (s.writePiece none p (bs.take p.len))
        | _, _ => s.writePiece none p (bs.take p.len)) := by
      split
      · exact hs.writePiece.foldl fun t _ h =>
          Safe.ite (h.foldl fun _ _ h => h.withMem (Mem.insertTag_wf h.mem_wf _) rfl) h
      · exact hs.writePiece
    dsimp only
    split
    · exact h2.updBlock fun _ hb => Block.poison_canonical hb _
    · exact h2.ite (h2.foldl fun _ _ h => h.withMem (Mem.addPoison_wf h.mem_wf _) rfl)

protected theorem Safe.prepare {die : Nat} {c : Cmd} {b : Block} {row : Spot × Spot × Nat → Option (Nat × Nat)}
    {qs : List (Spot × Spot × Nat)} (hs : Safe s) : Safe (prepare die c b row qs s).1 := by
  induction qs generalizing s with
  | nil => exact hs
  | cons q qs ih => exact ih hs.fetchSpot.targetSpot

protected theorem Safe.landAll {rs : List Ready} (hs : Safe s) : Safe (s.landAll rs) := by
  unfold State.landAll
  refine hs.foldl ?_
  intro _ _ h
  split
  · exact h.landBytes
  · exact h

protected theorem Safe.creditCmd {c : Cmd} {n : Nat} (hs : Safe s) : Safe (s.creditCmd c n) := by
  unfold State.creditCmd
  split
  · split
    · split
      · exact hs.creditAt
      · exact hs
    · exact hs
  · exact hs

protected theorem Safe.servedCmd {c : Cmd} (hs : Safe s) : Safe (s.servedCmd c) := hs.frame rfl rfl

protected theorem Safe.faultCmd {c : Cmd} {fs : List FaultAt} (hs : Safe s) : Safe (s.faultCmd c fs) :=
  hs.servedCmd.recordFaults.updCmd

protected theorem Safe.unitDone {c : Cmd} {n : Nat} {failed : Bool} {sent : List Nat} (hs : Safe s) :
    Safe (s.unitDone c n failed sent) := hs.creditCmd.updCmd.ite hs.updCmd

protected theorem Safe.copyUnit {c : Cmd} {b : Block} (hs : Safe s) : SafeOut (s.copyUnit c b) := by
  unfold State.copyUnit
  dsimp only
  split
  · next e => exact (hs.prepare.of_fst e).tick.landAll.unitDone.servedCmd.next
  · next e => exact (hs.prepare.of_fst e).next
  · next e => exact (hs.prepare.of_fst e).faultCmd.next
  · trivial

protected theorem Safe.rackCount {c : Cmd} (hs : Safe s) : Safe (s.rackCount c) := hs.foldl fun _ _ h => h.ite h.countExpert

protected theorem Safe.rackUnit {c : Cmd} {b : Block} (hs : Safe s) : SafeOut (s.rackUnit c b) := by
  unfold State.rackUnit
  dsimp only
  split
  · exact (hs.ite hs.rackCount).creditCmd.updCmd.next
  · split
    · split
      · next e2 => exact (hs.prepare.of_fst e2).servedCmd.updCmd.next
      · next e2 => exact (hs.prepare.of_fst e2).next
      · next e2 => exact (hs.prepare.of_fst e2).faultCmd.next
      · trivial
    · split
      · trivial
      · split
        · exact Safe.next (Safe.faultCmd (hs.foldl_fst fun _ _ h => h.targetSpot))
        · split
          · exact Safe.next (hs.foldl_fst fun _ _ h => h.targetSpot)
          · refine Safe.servedCmd ?_
            refine Safe.unitDone ?_
            refine Safe.foldl_fst (hs.foldl_fst fun _ _ h => h.targetSpot) ?_
            intro _ _ h
            split
            · exact h.landBytes
            · exact h

protected theorem Safe.about {id : Nat} (hs : Safe s) : Safe (s.about id) := hs.frame rfl rfl

protected theorem Safe.execCopyUnit (hs : Safe s) : SafeOut (execCopyUnit s) := by
  unfold Machine.execCopyUnit
  dsimp only
  split
  · trivial
  · split
    · exact Safe.next (hs.frame rfl rfl)
    · exact SafeOut.ite (Safe.rackUnit (Safe.about (hs.frame rfl rfl))) (SafeOut.ite (Safe.next (Safe.updCmd (Safe.creditCmd
        (Safe.about (hs.frame rfl rfl))))) (Safe.copyUnit (Safe.about (hs.frame rfl rfl))))

protected theorem Safe.countFail {uid : Nat} (hs : Safe s) : Safe (s.countFail uid) := hs.updBlock fun _ h => h

protected theorem Safe.sweep (hs : Safe s) : Safe s.sweep := hs.filterBlocks rfl rfl

protected theorem Safe.endCmd {c : Cmd} {failed : Bool} (hs : Safe s) : Safe (s.endCmd c failed) :=
  Safe.sweep (Safe.ite (Safe.countFail (hs.frame rfl rfl)) (hs.frame rfl rfl))

protected theorem Safe.notifyCmd {c : Cmd} {b : Block} (hs : Safe s) : Safe (s.notifyCmd c b).1 := by
  unfold State.notifyCmd
  split
  · exact hs
  · split <;> exact hs
  · split
    · next e1 => exact hs.translate.of_fst e1
    · next e1 => exact (hs.translate.of_fst e1).ite_fst (hs.translate.of_fst e1)
    · next e1 => exact hs.translate.of_fst e1
    · next e1 => exact hs.translate.of_fst e1
    · next e1 => exact (hs.translate.of_fst e1).ite_fst (hs.translate.of_fst e1)
    · next e1 => exact hs.translate.of_fst e1

protected theorem Safe.notifyDone {c : Cmd} {sent : List Nat} (hs : Safe s) : Safe (s.notifyDone c sent) :=
  hs.endCmd.ite hs.updCmd

protected theorem Safe.ackCmd {id : Nat} (hs : Safe s) : Safe (s.ackCmd id) :=
  hs.foldl fun _ _ h => h.updCmd.ite (h.endCmd.ite (h.ite h.creditCmd).updCmd)

protected theorem Safe.execCommandComplete (hs : Safe s) : SafeOut (execCommandComplete s) := by
  unfold Machine.execCommandComplete
  split
  · trivial
  · refine SafeOut.ite trivial ?_
    split
    · exact hs.endCmd
    · split
      · next e => exact (hs.notifyCmd.of_fst e).writePieces.notifyDone.servedCmd
      · next e => exact (hs.notifyCmd.of_fst e).endCmd.servedCmd
      · next e => exact hs.notifyCmd.of_fst e
      · next e => exact (hs.notifyCmd.of_fst e).faultCmd
      · trivial

/-! ### The Press -/

protected theorem Safe.updResv {r : Resv} {f : Resv → Resv} (hs : Safe s) : Safe (s.updResv r f) := hs.frame rfl rfl

protected theorem Safe.postPass {c : Cmd} (hs : Safe s) : SafeOpt (s.postPass c) := by
  unfold State.postPass
  dsimp only
  split
  · exact Safe.some (hs.frame rfl rfl)
  · exact SafeOpt.ite (Safe.some (hs.frame rfl rfl)) (SafeOpt.ite trivial hs.updResv.some)

protected theorem Safe.execPassJoin (hs : Safe s) : SafeOut (execPassJoin s) := by
  unfold Machine.execPassJoin
  split
  · trivial
  · split
    · trivial
    · split
      · next e2 => exact (hs.postPass.of_some e2).updCmd.next
      · trivial

protected theorem Safe.execCpymPassPost (hs : Safe s) : SafeOut (execCpymPassPost s) := by
  unfold Machine.execCpymPassPost
  split
  · trivial
  · split
    · trivial
    · split
      · next e2 => exact (hs.postPass.of_some e2).updCmd.next
      · trivial

protected theorem Safe.execPressGrant (hs : Safe s) : SafeOut (execPressGrant s) := by
  unfold Machine.execPressGrant
  dsimp only
  split
  · trivial
  · split
    · trivial
    · split
      · trivial
      · exact Safe.next (hs.frame rfl rfl)

protected theorem Safe.dropPass {p : Pass} (hs : Safe s) : Safe (s.dropPass p) := hs.frame rfl rfl

protected theorem Safe.endPass {p : Pass} {b : Block} (hs : Safe s) : Safe (s.endPass p b) := by
  unfold State.endPass
  split
  · exact hs.dropPass.countFail
  · extract_lets d r s1 s2 bar s3 s4
    have h1 : Safe s1 := hs.tick.foldl fun _ _ h => h.landBytes
    have h2 : Safe s2 := by
      unfold s2
      split
      · exact h1.writePiece
      · exact h1
    clear_value bar
    have h3 : Safe s3 := by
      unfold s3
      split
      · split
        · exact h2.creditAt
        · exact h2
      · exact h2
    have h4 : Safe s4 := h3.countFail.ite h3
    exact h4.dropPass

protected theorem Safe.recallPasses {quad : Nat} (hs : Safe s) : Safe (s.recallPasses quad) := hs.frame rfl rfl

protected theorem Safe.pressMismatch {p : Pass} {b : Block} {tile : Nat} (hs : Safe s) : Safe (s.pressMismatch p b tile) :=
  hs.countMismatch.errorRecord.ite (Safe.relocateBlocks (Safe.recallPasses (Safe.updBlock (hs.countMismatch.errorRecord.frame
    rfl rfl) fun _ h => h)))

protected theorem Safe.execPassComplete (hs : Safe s) : SafeOut (execPassComplete s) := by
  unfold Machine.execPassComplete
  dsimp only
  split
  · trivial
  · split
    · trivial
    · split
      · exact hs.dropPass.next
      · exact hs.endPass.next.ite (hs.pressMismatch.next.ite trivial)

protected theorem Safe.execReservationFree (hs : Safe s) : SafeOut (execReservationFree s) := by
  unfold Machine.execReservationFree
  dsimp only
  split
  · trivial
  · split
    · trivial
    · exact SafeOut.ite trivial (Safe.next (hs.frame rfl rfl))

/-! ### Regions, traps and returns -/

protected theorem Safe.readDesc {b : Block} {k : Nat} (hs : Safe s) : Safe (s.readDesc b k).1 := by
  unfold State.readDesc
  dsimp only
  split
  · exact hs
  · split <;> exact hs.access

protected theorem Safe.rgnLane {k : Nat} {b : Block} {act : List Thread} {x : Thread} (hs : Safe s) :
    Safe (rgnLane k s b act x).1 := hs.ite_fst hs.readDesc

protected theorem Safe.execRgn {w : Imm} (hs : Safe s) : SafeOut (execRgn w s) := by
  unfold Machine.execRgn
  split
  · trivial
  · refine hs.stall.next.ite (hs.compared ((hs.runLanes fun _ _ _ _ h => h.rgnLane).combine fun t xs oks ht => ?_))
    extract_lets tids s1 s2 s3 s4 s5
    have h2 : Safe s2 := ht.retire.commitAll.commitTrace.foldl fun _ _ h => h.updThread
    have h3 : Safe s3 := h2.foldl fun _ _ h => h.updThread
    have h4 : Safe s4 := Safe.ite (h3.foldl fun _ _ h => h.cutShort) h3
    have h5 : Safe s5 := h4.stay.ite h4
    exact h5.regroup.drawAll.settleSave

protected theorem Safe.barriersAt {uid : Nat} (hs : Safe s) : Safe (s.barriersAt uid) := hs.barrier.barrier

protected theorem Safe.endThread {uid tid : Nat} (hs : Safe s) : Safe (s.endThread uid tid) := hs.leave.updThread

protected theorem Safe.exitThread {g : Machine.Group} {b : Block} {x : Thread} (hs : Safe s) : Safe (s.exitThread g b x) := by
  unfold State.exitThread
  refine Safe.foldl ?_ fun _ _ h => h.endThread
  split
  · exact hs.pushSlot
  · exact hs

protected theorem Safe.execExit {w : Imm} (hs : Safe s) : SafeOut (execExit w s) :=
  hs.commitWord keepsSafe_pure (performThen_safe fun _ _ _ _ h => Safe.barriersAt (h.foldl fun _ _ h1 => h1.exitThread))

protected theorem Safe.trapWord {guard : Guard} {cause aux : Nat} (hs : Safe s) : SafeOut (trapWord guard cause aux s) :=
  hs.laneWord keepsSafe_pure

protected theorem Safe.execBrk {w : Plain} (hs : Safe s) : SafeOut (execBrk w s) := by
  unfold Machine.execBrk
  dsimp only
  split
  · trivial
  · split
    · split
      · next e2 => exact (((hs.laneWord keepsSafe_pure).of_next e2).haltBlock.ite ((hs.laneWord keepsSafe_pure).of_next e2)).next
      · exact hs.laneWord keepsSafe_pure
    · exact hs.trapWord

protected theorem Safe.execAssert {w : Imm} (hs : Safe s) : SafeOut (execAssert w s) := by
  unfold Machine.execAssert
  dsimp only
  split
  · trivial
  · split
    · exact hs.laneWord keepsSafe_pure
    · exact hs.stopContext.next

protected theorem Safe.returnAll {gid uid : Nat} {tids : List Nat} (hs : Safe s) : SafeOpt (s.returnAll gid uid tids) := by
  unfold State.returnAll
  suffices h : ∀ o : Option State, SafeOpt o → SafeOpt (tids.foldl (fun acc t => acc.bind fun s => s.returnTrap gid uid t) o) from
    h (some s) hs
  induction tids with
  | nil => exact fun _ h => h
  | cons t tids ih => exact fun o ho => ih _ (ho.bind fun _ h => h.returnTrap)

protected theorem Safe.returnTrace {b : Block} {pc : Int} {tids : List Nat} (hs : Safe s) : Safe (s.returnTrace b pc tids) :=
  hs.ite hs.trace

protected theorem Safe.execRte {w : Imm} (hs : Safe s) : SafeOut (execRte w s) := by
  unfold Machine.execRte
  dsimp only
  split
  · trivial
  · refine hs.compared ?_
    refine Safe.combine (hs.runLanes fun _ _ _ _ h => h.ite_fst (h.ite_fst h)) ?_
    intro _ _ _ h
    split
    · next e1 => exact (h.stepPcs.retire.returnAll.of_some e1).returnTrace.regroup.drawAll.settleSave.next
    · exact h.stall.next

protected theorem Safe.arriveAt {uid tid : Nat} {st : TState} {rgnNext : Bool} (hs : Safe s) :
    Safe (s.arriveAt uid tid st rgnNext) := hs.sleep.updThread

protected theorem Safe.barrierWord {gang : Bool} (hs : Safe s) : SafeOut (barrierWord gang s) := by
  unfold Machine.barrierWord
  exact hs.commitWord keepsSafe_pure fun _ _ _ _ h => Safe.settleSave (Safe.drawAll (Safe.barrier (h.foldl fun _ _ h1 =>
    h1.arriveAt)))

/-! ### Waits and register blocks -/

protected theorem Safe.setClaims {core part : Nat} {cs : List Claim} (hs : Safe s) : Safe (s.setClaims core part cs) :=
  hs.frame rfl rfl

protected theorem Safe.dropClaims {uid : Nat} (hs : Safe s) : Safe (s.dropClaims uid) := hs.frame rfl rfl

protected theorem Safe.rbacq {g : Machine.Group} {b : Block} {xs : List Thread} {d n : Nat} (hs : Safe s) :
    Safe (s.rbacq g b xs d n) := by
  unfold State.rbacq
  refine Safe.foldl ?_ fun _ _ h => h.updThread
  split
  · exact hs.setClaims
  · exact hs.ite hs.setClaims
  · exact hs

protected theorem Safe.execRbacq {w : Plain} (hs : Safe s) : SafeOut (execRbacq w s) :=
  hs.commitWord keepsSafe_pure (performThen_safe fun _ _ _ _ h => h.rbacq)

protected theorem Safe.execRbrel {w : Plain} (hs : Safe s) : SafeOut (execRbrel w s) :=
  hs.commitWord keepsSafe_pure (performThen_safe fun _ _ _ _ h => h.foldl fun _ _ h1 => h1.updThread)

protected theorem Safe.launchLane {w : Plain} {b : Block} {act : List Thread} {x : Thread} (hs : Safe s) :
    Safe (launchLane w s b act x).1 := by
  unfold Machine.launchLane
  dsimp only
  split
  · exact hs
  · split
    · split <;> exact hs.access
    · exact hs.access

protected theorem Safe.execLaunch {w : Plain} (hs : Safe s) : SafeOut (execLaunch w s) := by
  unfold Machine.execLaunch
  refine hs.commitWord (fun _ _ _ _ h => h.launchLane) ?_
  refine performThen_safe ?_
  intro _ _ _ _ h
  refine Safe.foldl ?_ fun _ _ h1 => h1.updThread
  dsimp only
  split
  · exact h.queueLaunch
  · exact h

protected theorem Safe.askYield {b : Block} {why : SaveFor} (hs : Safe s) : Safe (s.askYield b why) :=
  hs.foldl fun _ _ h => h.askSave.ite h.beginSave

protected theorem Safe.execWaitc {w : Plain} (hs : Safe s) : SafeOut (execWaitc w s) :=
  hs.commitWord keepsSafe_pure (performThen_safe fun _ _ _ _ h => h.ite (Safe.askYield (h.foldl fun _ _ h1 => h1.updThread)))

protected theorem Safe.execYield {w : Plain} (hs : Safe s) : SafeOut (execYield w s) :=
  hs.commitWord keepsSafe_pure (performThen_safe fun _ _ _ _ h => h.askYield)

protected theorem Safe.fpopLane {w : Plain} {b : Block} {act : List Thread} {x : Thread} (hs : Safe s) :
    Safe (fpopLane w s b act x).1 := hs.access

protected theorem Safe.popFeed {w : Plain} {b : Block} {x : Thread} {hps : List Piece} (hs : Safe s) :
    Safe (s.popFeed w b x hps).1 := by
  unfold State.popFeed
  dsimp only
  split
  · exact hs
  · split
    · exact hs
    · split
      · exact hs
      · split
        · exact hs.access.writePieces
        · exact hs.access

protected theorem Safe.serveFeed {w : Plain} {b : Block} {l : List (Thread × Eff)} (hs : Safe s) :
    Safe (State.serveFeed w b l s).1 := by
  induction l generalizing s with
  | nil => exact hs
  | cons o l ih =>
    obtain ⟨x, e⟩ := o
    unfold State.serveFeed
    split
    · exact ih hs
    · split
      · next e => exact ih (hs.popFeed.of_fst e)
      · next e => exact ih (hs.popFeed.of_fst e)
      · next e => exact hs.popFeed.of_fst e
      · next e => exact hs.popFeed.of_fst e

protected theorem Safe.fpopPerform {w : Plain} {g : Machine.Group} {b : Block} {oks : List (Thread × Eff)} (hs : Safe s) :
    Safe (fpopPerform w s g b oks).1 := by
  unfold Machine.fpopPerform
  extract_lets r keep hold failed s0 served _
  have hr : Safe r.1 := hs.serveFeed
  have hf : Safe failed := Safe.foldl (hr.foldl fun _ _ h => h.updThread) fun _ _ h => h.updThread
  have hv : Safe served := (hr.missAfter.ite hr.missOlder).foldl fun _ _ h => h.updThread
  split
  · exact Safe.ite_fst hf.stall hf.park
  · split
    · exact hv
    · extract_lets s2
      have h2 : Safe s2 := hv.foldl fun _ _ h => h.updThread
      exact Safe.ite_fst (Safe.takeTraps (h2.foldl fun _ _ h => h.updThread)) h2.takeTraps

protected theorem Safe.execFpop {w : Plain} (hs : Safe s) : SafeOut (execFpop w s) :=
  hs.commitWord (fun _ _ _ _ h => h.fpopLane) fun _ _ _ _ h => h.fpopPerform

/-! ### Saved blocks -/

protected theorem Safe.savedBy {b : Block} {x : Thread} (hs : Safe s) : Safe (s.savedBy b x).1 := by
  unfold State.savedBy
  dsimp only
  split
  · exact hs
  · split
    · next e1 =>
      split
      · split
        · next e3 => exact (hs.fetchWord.of_fst e1).readDesc.of_fst e3
        · next e3 => exact (hs.fetchWord.of_fst e1).readDesc.of_fst e3
        · next e3 => exact (hs.fetchWord.of_fst e1).readDesc.of_fst e3
        · next e3 => exact (hs.fetchWord.of_fst e1).readDesc.of_fst e3
        · next e7 => exact (hs.fetchWord.of_fst e1).readDesc.of_fst e7
      · exact hs.fetchWord.of_fst e1
    · next e1 => exact hs.fetchWord.of_fst e1
    · next e1 => exact hs.fetchWord.of_fst e1
    · next e1 => exact hs.fetchWord.of_fst e1
    · next e5 => exact hs.fetchWord.of_fst e5

protected theorem Safe.savedSets {b : Block} {xs : List Thread} (hs : Safe s) : Safe (s.savedSets b xs).1 := by
  induction xs generalizing s with
  | nil => exact hs
  | cons x xs ih =>
    unfold State.savedSets
    split
    · exact ih hs
    · exact ih hs.savedBy

protected theorem Safe.popSlots {c : Ctx} {n : Nat} (hs : Safe s) : SafeOptFst (s.popSlots c n) := by
  induction n generalizing s with
  | zero => exact hs
  | succ n ih =>
    unfold State.popSlots
    split
    · trivial
    · next t slot e =>
      have h := ih (hs.popSlot.of_some e)
      cases hp : t.popSlots c n with
      | none => trivial
      | some r => exact (h.of_some hp : Safe r.1)

protected theorem Safe.writeSlots {c : Ctx} {room : Nat} {slots : List Nat} {bs : List Byte} (hs : Safe s) :
    SafeOpt (s.writeSlots c room slots bs) := by
  induction slots generalizing s bs with
  | nil => exact hs
  | cons k slots ih => exact hs.objWrite.bind fun _ h => h.objWrite.bind fun _ h => ih h

protected theorem Safe.toPending {uid : Nat} (hs : Safe s) : Safe (s.toPending uid) := hs.updBlock fun _ h => h

protected theorem Safe.settle {b : Block} (hs : Safe s) : Safe (s.settle b) := by
  unfold State.settle
  dsimp only
  split
  · exact hs.updBlock fun _ h => h
  · exact Safe.ite (hs.updBlock fun _ h => h) (hs.ite hs.toPending)

protected theorem Safe.gangSaved {uid : Nat} (hs : Safe s) : Safe (s.gangSaved uid) := by
  unfold State.gangSaved
  dsimp only
  split
  · exact hs
  · split
    · exact hs
    · refine Safe.foldl ?_ ?_
      · refine Safe.frame (s := (ite _ _ _)) ?_ rfl rfl
        exact Safe.ite (hs.mapBlocks rfl rfl fun _ h => Block.canonical_ite h h) hs
      · intro _ _ h
        split
        · exact h.settle
        · exact h

protected theorem Safe.runOn {b : Block} {tids : List Nat} (hs : Safe s) : Safe (s.runOn b tids) := by
  unfold State.runOn
  refine Safe.drawCore ?_
  refine Safe.foldl (hs.foldl fun _ _ h => h.updThread) ?_
  intro _ _ h
  split
  · exact h.file
  · exact h

protected theorem Safe.execBlockSave (hs : Safe s) : SafeOut (execBlockSave s) := by
  unfold Machine.execBlockSave
  split
  · trivial
  · next b _ =>
    split
    · refine SafeOut.ite trivial (SafeOut.ite trivial (SafeOut.ite trivial ?_))
      extract_lets r
      have hr : Safe r.1 := hs.savedSets
      split
      · trivial
      · refine SafeOut.ite (Safe.next (hr.recordFaults.updBlock fun _ h => h)) (SafeOut.ite hr.next
          (SafeOut.ite hr.runOn.next ?_))
        split
        · trivial
        · next e =>
          split
          · trivial
          · next e2 =>
            have h2 := (hr.popSlots.of_some e).writeSlots.of_some e2
            refine Safe.gangSaved (Safe.updCtx ?_)
            exact h2.dropClaims.updBlock fun _ _ => Block.afterSave_canonical
    · trivial

protected theorem Safe.execPinnedWaitLimit (hs : Safe s) : SafeOut (execPinnedWaitLimit s) := by
  unfold Machine.execPinnedWaitLimit
  dsimp only
  split
  · trivial
  · split
    · trivial
    · split
      · trivial
      · exact hs.stopContext.next

protected theorem Safe.execPreemptComplete (hs : Safe s) : SafeOut (execPreemptComplete s) := by
  unfold Machine.execPreemptComplete
  split
  · trivial
  · split
    · trivial
    · exact SafeOut.ite trivial hs.updCtx.finishCommand

/-! ### Launches and placement -/

protected theorem Safe.execSlotHeadCheck (hs : Safe s) : SafeOut (execSlotHeadCheck s) := by
  unfold Machine.execSlotHeadCheck
  dsimp only
  split
  · trivial
  · split
    · trivial
    · split
      · exact hs.refuseHead.next
      · exact Safe.next (Safe.updSlot (hs.frame rfl rfl))

protected theorem Safe.execLaunchRelease (hs : Safe s) : SafeOut (execLaunchRelease s) := by
  unfold Machine.execLaunchRelease
  split
  · trivial
  · exact SafeOut.ite trivial (hs.release.next.ite trivial)

protected theorem Safe.firstOn {l : Launch} {core : Nat} (hs : Safe s) : Safe (s.firstOn l core) := by
  unfold State.firstOn
  split
  · exact hs.ite hs.dropL1.updLaunch
  · exact hs

protected theorem Safe.execBlockPlace (hs : Safe s) : SafeOut (execBlockPlace s) := by
  unfold Machine.execBlockPlace
  split
  · trivial
  · split
    · trivial
    · exact Safe.next (hs.foldl fun _ _ h => h.firstOn.updBlock fun _ _ => Block.placed_canonical)

protected theorem Safe.migrate {b cand : Block} {avoid : List Nat} (hs : Safe s) : SafeOpt (s.migrate b cand avoid) :=
  SafeOpt.bind_any fun _ => SafeOpt.map_any fun _ => hs.updBlock fun _ h => h

protected theorem Safe.migrateAll {cand : Block} {avoid : List Nat} {bs : List Block} (hs : Safe s) :
    SafeOpt (s.migrateAll cand avoid bs) := by
  induction bs generalizing s with
  | nil => exact hs
  | cons b bs ih => exact hs.migrate.bind fun _ h => ih h

protected theorem Safe.moving {b : Block} {cores : List Nat} {t : State} {bs : List Block} {mine : List Nat} (hs : Safe s)
    (e : s.moving b cores = some (t, bs, mine)) : Safe t := by
  unfold State.moving at e
  obtain ⟨ks, -, e⟩ := List.exists_of_findSome?_eq_some e
  obtain ⟨places, -, e⟩ := List.exists_of_findSome?_eq_some e
  obtain ⟨u, hu, h⟩ := Option.map_eq_some_iff.1 e
  cases h
  exact hs.migrateAll.of_some hu

protected theorem Safe.hold {b : Block} {n : Nat} (hs : Safe s) : Safe (s.hold b n) := hs.updBlock fun _ h => h

protected theorem Safe.execPlacementOverdue (hs : Safe s) : SafeOut (execPlacementOverdue s) := by
  unfold Machine.execPlacementOverdue
  split
  · trivial
  · split
    · trivial
    · dsimp only
      refine SafeOut.ite trivial (SafeOut.ite trivial (SafeOut.ite (SafeOut.ite trivial ?_) ?_))
      · exact Safe.postEvent (hs.updBlock fun _ hb => hb)
      · split
        · next e =>
          obtain ⟨n, -, e⟩ := List.exists_of_findSome?_eq_some e
          obtain ⟨r, hr, h⟩ := Option.map_eq_some_iff.1 e
          cases h
          refine Safe.updBlock (Safe.foldl (hs.moving hr) fun _ _ h => ?_) fun _ hb => hb
          exact Safe.holdThreads (h.updBlock fun _ hb => hb)
        · split
          · exact hs.hold
          · trivial

protected theorem Safe.retake {b : Block} (hs : Safe s) : SafeOpt (s.retake b) := by
  unfold State.retake
  dsimp only
  split
  · exact hs.some
  · exact SafeOpt.ite trivial (Safe.some (hs.frame rfl rfl))

protected theorem Safe.carry {b : Block} (hs : Safe s) : Safe (s.carry b) := hs.frame rfl rfl

protected theorem Safe.sdcAt {b : Block} {tids : List Nat} {pc : Int} {syndrome unit tilexy : Nat} (hs : Safe s) :
    Safe (s.sdcAt b tids pc syndrome unit tilexy) := by
  unfold State.sdcAt
  dsimp only
  split
  · refine Safe.enterHandler ?_
    refine Safe.updBlock ?_ fun _ h => h
    refine Safe.frame (s := (State.bump _)) ?_ rfl rfl
    exact Safe.bump (hs.trace.updBlock fun _ h => h)
  · exact Safe.foldl (hs.trace.updBlock fun _ h => h) fun _ _ h => h.enterHandler

protected theorem Safe.deliverSdc {uid : Nat} (hs : Safe s) : Safe (s.deliverSdc uid) := by
  unfold State.deliverSdc
  dsimp only
  split
  · exact hs
  · split
    · exact hs
    · exact Safe.foldl (hs.updBlock fun _ h => h) fun _ _ h => h.sdcAt

protected theorem Safe.startBlock {uid : Nat} (hs : Safe s) : Safe (s.startBlock uid) := by
  unfold State.startBlock
  dsimp only
  split
  · exact hs
  · exact Safe.drawCore (Safe.fileAll (Safe.deliverSdc (hs.updBlock fun _ h => h)))

protected theorem Safe.resumedOn {b : Block} (hs : Safe s) : Safe (s.resumedOn b) := hs.ite hs.dropL1

protected theorem Safe.execBlockClearingDone (hs : Safe s) : SafeOut (execBlockClearingDone s) := by
  unfold Machine.execBlockClearingDone
  split
  · trivial
  · split
    · trivial
    · refine SafeOut.ite trivial ?_
      split
      · trivial
      · next e =>
        have h1 := hs.retake.of_some e
        split
        · trivial
        · extract_lets halted s2 s3
          have h2 : Safe s2 := h1.tick.updBlock fun b hb => by
            show scratchCanonical (if _ then b else _) = true
            exact Block.canonical_ite hb Block.restored_canonical
          have h3 : Safe s3 := Safe.resumedOn (Safe.carry (h2.foldl fun _ _ h => h.pushSlot))
          split
          · exact h3.updBlock fun _ hb => hb
          · exact h3.startBlock

protected theorem Safe.execWaitConditionMet (hs : Safe s) : SafeOut (execWaitConditionMet s) := by
  unfold Machine.execWaitConditionMet
  dsimp only
  split
  · trivial
  · exact SafeOut.ite trivial (SafeOut.ite (Safe.next (hs.foldl fun _ _ h => Safe.toPending (h.updBlock fun _ h1 => h1))) trivial)

protected theorem Safe.advanceLaunch {id : Nat} (hs : Safe s) : Safe (s.advanceLaunch id) := by
  unfold State.advanceLaunch
  split
  · exact hs
  · extract_lets s1 d s2 s3 s4
    have h1 : Safe s1 := hs.advance.updLaunch
    refine h1.ite ?_
    have h2 : Safe s2 := h1.advance.ite h1
    have h3 : Safe s3 := h2.advance.ite h2
    have h4 : Safe s4 := h3.advance.ite h3
    exact h4.frame rfl rfl

protected theorem Safe.freeBlock {b : Block} (hs : Safe s) : Safe (s.freeBlock b) := by
  unfold State.freeBlock
  refine Safe.updBlock (Safe.frame ?_ rfl rfl) fun _ _ => rfl
  split
  · exact hs.foldl fun _ _ h => h.pushSlot
  · exact hs

protected theorem Safe.vacate {b : Block} (hs : Safe s) : Safe (s.vacate b) :=
  Safe.drawCore (Safe.updBlock (Safe.dropClaims (hs.frame rfl rfl)) fun _ _ => rfl)

protected theorem Safe.finishBlock {b : Block} (hs : Safe s) : Safe (s.finishBlock b) :=
  Safe.drawCore (Safe.sweep (Safe.advanceLaunch (hs.freeBlock.foldl fun _ _ h => h.barriersAt)))

protected theorem Safe.unwritten {b : Block} {l : Launch} {cause sub : Nat} (hs : Safe s) : Safe (s.unwritten b l cause sub) :=
  hs.frame rfl rfl

protected theorem Safe.endRecorded {b : Block} {sent : List Nat} (hs : Safe s) : Safe (s.endRecorded b sent) :=
  hs.finishBlock.ite ((hs.vacate.ite hs).updBlock fun _ h => h)

protected theorem Safe.execBlockFinish (hs : Safe s) : SafeOut (execBlockFinish s) := by
  unfold Machine.execBlockFinish
  dsimp only
  split
  · trivial
  · split
    · trivial
    · split
      · trivial
      · split
        · exact SafeOut.ite trivial hs.vacate.next
        · split
          · exact SafeOut.ite trivial hs.finishBlock.next
          · split
            · exact hs.finishBlock.next
            · split
              · exact hs.unwritten.finishBlock.next
              · split
                · exact hs.access.writePieces.endRecorded.next
                · exact hs.access.unwritten.finishBlock.next
                · exact Safe.next ((hs.access.vacate.ite hs.access).recordFaults.updBlock fun _ h => h)
                · exact hs.access.next
                · exact (hs.access.vacate.ite hs.access).next
                · trivial

/-! ### Upsets -/

protected theorem Safe.corrected {code : Nat} (hs : Safe s) : Safe (s.corrected code) := hs.frame rfl rfl

protected theorem Safe.blockError {b : Block} {kind code : Nat} {paddr : optParam Nat 0} (hs : Safe s) :
    Safe (s.blockError b kind code paddr) := hs.errorRecord

protected theorem Safe.redoGroup {uid tid : Nat} (hs : Safe s) : Safe (s.redoGroup uid tid) := by
  unfold State.redoGroup
  dsimp only
  split
  · exact hs.reenter
  · split
    · exact hs.discard.unfile.file.drawAll.ite hs.discard.unfile
    · exact hs.discard.unfile

protected theorem Safe.relocateCore {core : Nat} (hs : Safe s) : Safe (s.relocateCore core) :=
  Safe.relocateBlocks (hs.frame rfl rfl)

protected theorem Safe.upset {code unit a b : Nat} (hs : Safe s) : SafeOpt (s.upset code unit a b) := by
  unfold State.upset
  split
  · refine SafeOpt.bind_any fun _ => SafeOpt.bind_any fun _ => ?_
    exact hs.updThread.blockError.some.ite (hs.updThread.blockError.some.ite trivial)
  · exact SafeOpt.bind_any fun _ => SafeOpt.ite hs.killBlock.blockError.some trivial
  · exact hs.relocateCore.errorRecord
  · refine SafeOpt.bind_any fun _ => SafeOpt.ite (Safe.some (Safe.blockError ?_)) trivial
    exact hs.updBlock fun _ hb => Block.poison_canonical hb [a]
  · exact SafeOpt.ite (Safe.some (Safe.errorRecord (hs.frame rfl rfl))) trivial
  · refine SafeOpt.bind_any fun _ => SafeOpt.map_any fun _ => ?_
    exact Safe.ite hs.redoGroup.blockError (Safe.blockError (hs.frame rfl rfl))
  · exact SafeOpt.ite (Safe.some (Safe.errorRecord (hs.withMem (Mem.addPoison_wf hs.mem_wf _) rfl))) trivial
  · exact SafeOpt.ite (Safe.some (Safe.errorRecord (hs.frame rfl rfl))) trivial
  · exact SafeOpt.ite (Safe.some (Safe.errorRecord (hs.withMem (Mem.addPoison_wf hs.mem_wf _) rfl))) trivial
  · refine SafeOpt.ite (SafeOpt.ite hs.errorRecord.some trivial) ?_
    exact SafeOpt.ite (Safe.some (Safe.errorRecord (hs.frame rfl rfl))) trivial
  · trivial

/-! ### Commands of the host -/

protected theorem Safe.malformedCmd {op : Nat} (hs : Safe s) : SafeOut (s.malformedCmd op) := hs.finishCommand

protected theorem Safe.execCtxload {cmd : Command} (hs : Safe s) : SafeOut (execCtxload cmd s) :=
  hs.malformedCmd.ite (hs.finishCommand.ite (SafeOut.ite trivial (hs.malformedCmd.ite (Safe.finishCommand (hs.frame rfl rfl)))))

protected theorem Safe.execObjcreate {cmd : Command} (hs : Safe s) : SafeOut (execObjcreate cmd s) := by
  unfold Machine.execObjcreate
  dsimp only
  split
  · exact hs.malformedCmd
  · exact hs.malformedCmd.ite (hs.finishCommand.ite (SafeOut.ite trivial (hs.finishCommand.ite hs.writePiece.finishCommand)))

protected theorem Safe.dropNamed {v : ObjInv} (hs : Safe s) : Safe (s.dropNamed v) := hs.frame rfl rfl

protected theorem Safe.flushLines {ls : List Nat} (hs : Safe s) : Safe (s.flushLines ls) := by
  unfold State.flushLines
  refine Safe.frame (s := (List.foldl _ _ _)) ?_ rfl rfl
  exact hs.foldl fun _ _ h => h.cacheLines.dropRemote

protected theorem Safe.dropWalked {v : ObjInv} (hs : Safe s) : Safe (s.dropWalked v) := hs.frame rfl rfl

protected theorem Safe.invalidate {v : ObjInv} (hs : Safe s) : Safe (s.invalidate v) :=
  Safe.foldl (Safe.dropNamed (hs.frame rfl rfl)) fun _ _ h => h.redoGroup.ite h

protected theorem Safe.regained {v : ObjInv} (hs : Safe s) : Safe (s.regained v) := Safe.ite (hs.frame rfl rfl) hs

protected theorem Safe.execObjinvComplete (hs : Safe s) : SafeOut (execObjinvComplete s) := by
  unfold Machine.execObjinvComplete
  split
  · trivial
  · refine SafeOut.ite trivial ?_
    extract_lets lines s0 s1
    have h0 : Safe s0 := Safe.dropNamed (Safe.flushLines (hs.frame rfl rfl))
    have h1 : Safe s1 := (h0.dropWalked.ite h0).regained
    exact SafeOut.ite (Safe.next (h1.frame rfl rfl)) h1.finishCommand

protected theorem Safe.answerEntries {r : FaultRec} {fail : Bool} (hs : Safe s) : Safe (s.answerEntries r fail) :=
  hs.foldl fun _ _ h => Safe.ite (h.foldl fun _ _ h1 => h1.invalidEntry) h.updLaunch

protected theorem Safe.answerRecord {r : FaultRec} {fail : Bool} (hs : Safe s) : Safe (s.answerRecord r fail) :=
  Safe.foldl (Safe.answerEntries (hs.answerGroups.mapBlocks rfl rfl fun _ h => Block.answered_canonical h)) fun _ _ h => h.send

protected theorem Safe.execFaultans {cmd : Command} (hs : Safe s) : SafeOut (execFaultans cmd s) := by
  unfold Machine.execFaultans
  split
  · exact hs.malformedCmd
  · split
    · exact hs.finishCommand
    · exact hs.answerRecord.finishCommand

protected theorem Safe.execPreempt {cmd : Command} (hs : Safe s) : SafeOut (execPreempt cmd s) :=
  hs.malformedCmd.ite (Safe.next (hs.updCtx.foldl fun _ _ h => h.beginSave))

protected theorem Safe.execResume {cmd : Command} (hs : Safe s) : SafeOut (execResume cmd s) :=
  hs.malformedCmd.ite (Safe.finishCommand (Safe.foldl (hs.updCtx.mapBlocks rfl rfl fun _ h => Block.canonical_ite h h) fun _ _
    h => h.toPending))

protected theorem Safe.setMap {q v : Nat} (hs : Safe s) : Safe (s.setMap q v) := hs.frame rfl rfl

protected theorem Safe.execSlotbind {cmd : Command} (hs : Safe s) : SafeOut (execSlotbind cmd s) :=
  SafeOut.ite trivial (hs.malformedCmd.ite (hs.finishCommand.ite (SafeOut.ite trivial (hs.malformedCmd.ite
    hs.updSlot.setMap.finishCommand))))

protected theorem Safe.unbindSlot {i : Nat} (hs : Safe s) : Safe (s.unbindSlot i) :=
  Safe.updSlot (hs.setMap.writeHead.frame rfl rfl)

protected theorem Safe.execSlotunbind {cmd : Command} (hs : Safe s) : SafeOut (execSlotunbind cmd s) :=
  hs.malformedCmd.ite (hs.finishCommand.ite hs.unbindSlot.finishCommand)

protected theorem Safe.startFlash {program : Bool} {target source : Nat} (hs : Safe s) :
    Safe (s.startFlash program target source) :=
  hs.frame rfl rfl

/-! ### Links, replicas and peers -/

protected theorem Safe.execReplicaLockTimeout (hs : Safe s) : SafeOut (execReplicaLockTimeout s) :=
  SafeOut.ite trivial (Safe.next (Safe.postEvent (Safe.errorRecord (hs.frame rfl rfl))))

protected theorem Safe.execAtsCompletion (hs : Safe s) : SafeOut (execAtsCompletion s) := by
  unfold Machine.execAtsCompletion
  dsimp only
  split
  · trivial
  · exact SafeOut.ite (Safe.next (Safe.enterExtent (hs.frame rfl rfl))) (Safe.next (hs.frame rfl rfl))

protected theorem Safe.snoop {line : Nat} {drop : Bool} (hs : Safe s) : Safe (s.snoop line drop) := hs.cacheLines.dropRemote

protected theorem Safe.execHostSnoop (hs : Safe s) : SafeOut (execHostSnoop s) := SafeOut.ite trivial hs.snoop.next

protected theorem Safe.execBisnp (hs : Safe s) : SafeOut (execBisnp s) := by
  unfold Machine.execBisnp
  dsimp only
  split
  · exact hs.snoop.next.ite trivial
  · trivial

protected theorem Safe.cutThread {c : Cut} (hs : Safe s) : Safe (s.cutThread c) := hs.updThread.frame rfl rfl

protected theorem Safe.cutAll {g : Gone} {cuts : List Cut} (hs : Safe s) : Safe (s.cutAll g cuts) := by
  unfold State.cutAll
  refine Safe.foldl ?_ ?_
  · refine Safe.foldl (hs.foldl fun _ _ h => h.cutThread) ?_
    intro _ _ h
    dsimp only
    split
    · exact h.takeTraps
    · exact h
  · intro _ _ h
    split
    · exact h.ite h.trace.unfile.trapThread
    · exact h

protected theorem Safe.poisonLoad {g : Gone} {r : Req} (hs : Safe s) : Safe (s.poisonLoad g r) := by
  unfold State.poisonLoad
  refine hs.foldl ?_
  intro _ _ h
  split
  · split
    · exact h.tick.gotPiece
    · exact h
  · exact h

protected theorem Safe.cutLoads {g : Gone} (hs : Safe s) : Safe (s.cutLoads g) :=
  Safe.foldl (hs.foldl fun _ _ h => h.poisonLoad) fun _ _ h => h.redoGroup.ite h

protected theorem Safe.cutCommands {g : Gone} (hs : Safe s) : Safe (s.cutCommands g) := hs.frame rfl rfl

protected theorem Safe.updPort {n : Nat} {f : Port → Port} (hs : Safe s) : Safe (s.updPort n f) := hs.frame rfl rfl

protected theorem Safe.salvage {port line : Nat} {bs : List (Nat × Byte)} (hs : Safe s) : Safe (s.salvage port line bs) :=
  hs.updPort.ite (hs.updPort.ite hs.devWrite.updPort)

protected theorem Safe.salvageEntries {port : Nat} (hs : Safe s) : Safe (s.salvageEntries port) := by
  unfold State.salvageEntries
  refine Safe.frame (s := (List.foldl _ _ _)) ?_ rfl rfl
  exact Safe.foldl (hs.foldl_fst fun _ _ h => h.tick) fun _ _ h => h.salvage

protected theorem Safe.salvageLine {port : Nat} {l : HomeLine} (hs : Safe s) : Safe (s.salvageLine port l) := by
  unfold State.salvageLine
  dsimp only
  split
  · exact hs
  · refine hs.salvage.tick.withMem ?_ rfl
    refine List.foldlRecOn (motive := fun m : Mem => m.wf = true) _ _ hs.salvage.mem_wf fun m hm i _ => ?_
    rw [Mem.wf_iff] at hm ⊢
    exact ⟨setCells_canonical _ _ hm.1, hm.2⟩

protected theorem Safe.salvageLines {port : Nat} (hs : Safe s) : Safe (s.salvageLines port) := by
  unfold State.salvageLines
  refine Safe.frame (s := (List.foldl _ _ _)) ?_ rfl rfl
  exact hs.foldl fun _ _ h => h.salvageLine.trigger

protected theorem Safe.losePort {port : Nat} (hs : Safe s) : Safe (s.losePort port) :=
  Safe.postEvent (Safe.cutCommands (Safe.salvageLines (Safe.salvageEntries (Safe.cutLoads (Safe.cutAll (hs.frame rfl rfl))))))

protected theorem Safe.portLost {port : Nat} (hs : Safe s) : SafeOut (s.portLost port) := SafeOut.ite trivial hs.losePort.next

protected theorem Safe.giveUp {peer : Nat} (hs : Safe s) : Safe (s.giveUp peer) :=
  Safe.foldl (hs.frame rfl rfl) fun _ _ h => h.ackCmd

protected theorem Safe.losePeer {peer : Nat} (hs : Safe s) : Safe (s.losePeer peer) := by
  unfold State.losePeer
  exact Safe.foldl (Safe.giveUp (Safe.cutCommands (hs.cutAll.cutLoads.frame rfl rfl))) fun _ _ h => h.answerRecord

protected theorem Safe.afterLinks {before : State} (hs : Safe s) : Safe (s.afterLinks before) :=
  hs.foldl fun _ _ h => h.losePeer

protected theorem Safe.execSwirilLinkDown (hs : Safe s) : SafeOut (execSwirilLinkDown s) :=
  SafeOut.ite (Safe.next (Safe.afterLinks (hs.frame rfl rfl))) trivial

protected theorem Safe.fillPeer {die peer : Nat} {p : Piece} {data : Nat} {psn : Bool} (hs : Safe s) :
    Safe (s.fillPeer die peer p data psn) := hs.foldl fun _ _ h => h.noteRemote

protected theorem Safe.peerRead {r : Req} {j : Nat} {p : Piece} {peer data : Nat} {psn : Bool} (hs : Safe s) :
    Safe (s.peerRead r j p peer data psn) := ((hs.sheetOf.ite hs).send.fillPeer.ite (hs.sheetOf.ite hs).send).gotPiece

protected theorem Safe.peerAtom {r : Req} {data : Nat} {psn : Bool} (hs : Safe s) : Safe (s.peerAtom r data psn) := by
  unfold State.peerAtom
  dsimp only
  split
  · exact hs.sheetOf.atomPiece.atomDone
  · exact hs.sheetOf

protected theorem Safe.peerAnswer {id sub value data : Nat} {psn : Bool} (hs : Safe s) :
    Safe (s.peerAnswer id sub value data psn) := by
  unfold State.peerAnswer
  dsimp only
  split
  · exact hs.frame rfl rfl
  · split
    · exact hs.answerRecord.frame rfl rfl
    · exact Safe.ite (hs.frame rfl rfl) (hs.frame rfl rfl)

protected theorem Safe.acknowledged {m : PeerMsg} (hs : Safe s) : Safe (s.acknowledged m) :=
  Safe.ackCmd (Safe.trigger (Safe.dropPeerLines (hs.frame rfl rfl)))

protected theorem Safe.answered {m : PeerMsg} {data : Nat} {psn : Bool} (hs : Safe s) : Safe (s.answered m data psn) := by
  unfold State.answered
  dsimp only
  split
  · exact hs.fillPeer.frame rfl rfl
  · exact hs.acknowledged

protected theorem Safe.execPeerResponse (hs : Safe s) : SafeOut (execPeerResponse s) := by
  unfold Machine.execPeerResponse
  extract_lets a
  refine SafeOut.ite (SafeOut.ite hs.peerAnswer.next trivial) ?_
  split
  · next r _ =>
    refine SafeOut.ite (SafeOut.ite (Safe.next ?_) trivial) ?_
    · refine hs.lockReqs.runWord fun l hl t ht => ?_
      obtain ⟨k, hk, rfl⟩ := List.mem_mapIdx.1 hl
      exact ht.peerAtom
    · split
      · split
        · exact SafeOut.ite hs.peerRead.next trivial
        · trivial
      · trivial
  · split
    · exact SafeOut.ite trivial hs.answered.next
    · trivial

protected theorem Safe.serve {sub data len : Nat} {ps : List Piece} (hs : Safe s) : Safe (s.serve sub data len ps).1 := by
  unfold State.serve
  dsimp only
  split
  · exact hs
  · exact hs.ite_fst (hs.ite_fst (hs.writePieces.ite_fst (hs.wsumPiece.ite_fst hs.atomPiece)))

protected theorem Safe.lend {peer obj : Nat} {ps : List Piece} (hs : Safe s) : Safe (s.lend peer obj ps) := hs.frame rfl rfl

protected theorem Safe.execPeerRequest (hs : Safe s) : SafeOut (execPeerRequest s) := by
  unfold Machine.execPeerRequest
  dsimp only
  split
  · trivial
  · split
    · exact hs.dropPeerLines.trigger.next
    · split
      · next e2 => exact SafeOut.ite trivial ((hs.translate.of_fst e2).lend.ite (hs.translate.of_fst e2)).serve.dropAsks.send.next
      · next e2 => exact (hs.translate.of_fst e2).dropAsks.send.next
      · next e2 => exact (hs.translate.of_fst e2).dropAsks.send.next.ite (hs.translate.of_fst e2).dropAsks.send.next
      · next e2 => exact (hs.translate.of_fst e2).next
      · next e2 => exact Safe.next (Safe.send (Safe.dropAsks ((hs.translate.of_fst e2).recordFaults.frame rfl rfl)))
      · trivial

/-! ### Doorbells, feeds and the firmware core -/

protected theorem Safe.setPending {q : Nat} {on : Bool} (hs : Safe s) : Safe (s.setPending q on) := hs.frame rfl rfl

protected theorem Safe.noticeKick {q : Nat} (hs : Safe s) : Safe (s.noticeKick q) := hs.updSlot.ite hs.setPending.postEvent

protected theorem Safe.kick {q v : Nat} (hs : Safe s) : SafeOut (s.kick q v) := SafeOut.ite trivial hs.devStore.noticeKick.next

protected theorem Safe.kickAll {l : List (Nat × Nat)} (hs : Safe s) : SafeOut (kickAll l s) := by
  induction l generalizing s with
  | nil => exact hs
  | cons q l ih =>
    simp only [Machine.kickAll]
    split
    · next e => exact ih (hs.kick.of_next e)
    · exact hs.kick

protected theorem Safe.execNotifyKick (hs : Safe s) : SafeOut (execNotifyKick s) := SafeOut.ite trivial hs.kick

protected theorem Safe.execCatcherKick (hs : Safe s) : SafeOut (execCatcherKick s) :=
  SafeOut.ite trivial (Safe.next (hs.frame rfl rfl))

protected theorem Safe.execCatcherReplay (hs : Safe s) : SafeOut (execCatcherReplay s) := by
  unfold Machine.execCatcherReplay
  dsimp only
  split
  · trivial
  · split
    · next e1 =>
      split
      · refine Safe.foldl ?_ fun _ _ h => h.noticeKick
        refine SafeOut.of_next ?_ e1
        exact Safe.kickAll (hs.frame rfl rfl)
      · refine SafeOut.of_next ?_ e1
        exact Safe.kickAll (hs.frame rfl rfl)
    · exact Safe.kickAll (hs.frame rfl rfl)

protected theorem Safe.clearPending {k v : Nat} (hs : Safe s) : Safe (s.clearPending k v) := hs.frame rfl rfl

protected theorem Safe.writeCatchstat {v : Nat} (hs : Safe s) : Safe (s.writeCatchstat v) := hs.frame rfl rfl

protected theorem Safe.setEff {q e : Nat} (hs : Safe s) : Safe (s.setEff q e) := hs.devStore

protected theorem Safe.evictSlot {j : Nat} (hs : Safe s) : Safe (s.evictSlot j) := hs.unbindSlot.setEff.setPending

protected theorem Safe.bindSlot {j q : Nat} (hs : Safe s) : Safe (s.bindSlot j q) := hs.frame rfl rfl

protected theorem Safe.fillSlot {j : Nat} (hs : Safe s) : Safe (s.fillSlot j) := by
  unfold State.fillSlot
  split
  · exact hs
  · split
    · exact hs.bindSlot
    · exact hs

protected theorem Safe.swapSlot (hs : Safe s) : Safe s.swapSlot := by
  unfold State.swapSlot
  split
  · exact hs.evictSlot.bindSlot.ite hs
  · exact hs

protected theorem Safe.ageSlots (hs : Safe s) : Safe s.ageSlots := hs.frame rfl rfl

protected theorem Safe.execAgeingInterval (hs : Safe s) : SafeOut (execAgeingInterval s) :=
  SafeOut.ite trivial (Safe.next (Safe.ageSlots (Safe.foldl (Safe.foldl (Safe.foldl (hs.foldl fun _ _ h => h.evictSlot.ite h)
    fun _ _ h => h.setEff) fun _ _ h => h.fillSlot) fun _ _ h => h.swapSlot)))

protected theorem Safe.execEventRecordWrite (hs : Safe s) : SafeOut (execEventRecordWrite s) := by
  unfold Machine.execEventRecordWrite
  dsimp only
  split
  · trivial
  · exact SafeOut.ite trivial (SafeOut.ite trivial (SafeOut.ite trivial (Safe.next (hs.devWrite.frame rfl rfl))))

protected theorem Safe.writeExres {i d0 d1 : Nat} (hs : Safe s) : Safe (s.writeExres i d0 d1) := Safe.ite (hs.frame rfl rfl) hs

protected theorem Safe.writeExwridx {v : Nat} (hs : Safe s) : Safe (s.writeExwridx v) := hs.writeExres

protected theorem Safe.setFeed {f : Feed} (hs : Safe s) : Safe (s.setFeed f) := hs.frame rfl rfl

protected theorem Safe.writeStage {f off : Nat} {bs : List Byte} (hs : Safe s) : Safe (s.writeStage f off bs) :=
  hs.frame rfl rfl

protected theorem Safe.appendRecords {c : Ctx} {f : Feed} {h : FeedHeader} {n j : Nat} {bs : List Byte} (hs : Safe s) :
    SafeOpt (appendRecords c f h n j bs s) := by
  induction n generalizing s j bs with
  | zero => exact hs
  | succ n ih => exact SafeOpt.ite trivial (hs.objWrite.bind fun _ h => ih h)

protected theorem Safe.append {f v : Nat} (hs : Safe s) : Safe (s.append f v) := by
  unfold State.append
  dsimp only
  split
  · exact hs.setFeed
  · split
    · exact hs.setFeed
    · split
      · exact hs.setFeed
      · split
        · exact hs.setFeed
        · split
          · exact hs.setFeed
          · split
            · exact hs.setFeed
            · next e5 =>
              refine Safe.setFeed ?_
              refine SafeOpt.of_some ?_ e5
              exact hs.appendRecords.bind fun _ h => h.objWrite

protected theorem Safe.execFeedAppend (hs : Safe s) : SafeOut (execFeedAppend s) :=
  SafeOut.ite trivial (SafeOut.ite trivial hs.append.next)

protected theorem Safe.resetFirmware (hs : Safe s) : Safe s.resetFirmware := hs.frame rfl rfl

protected theorem Safe.writeWdkick {v : Nat} (hs : Safe s) : Safe (s.writeWdkick v) :=
  Safe.ite (Safe.resetFirmware (hs.frame rfl rfl)) (hs.frame rfl rfl)

protected theorem Safe.execSdcWindowBoundary (hs : Safe s) : SafeOut (execSdcWindowBoundary s) := Safe.next (hs.frame rfl rfl)

protected theorem Safe.writeErrlost {v : Nat} (hs : Safe s) : Safe (s.writeErrlost v) := Safe.ite (hs.frame rfl rfl) hs

protected theorem Safe.writeCecount {code v : Nat} (hs : Safe s) : Safe (s.writeCecount code v) :=
  Safe.ite (hs.frame rfl rfl) hs

/-! ### The debug unit -/

protected theorem Safe.writeChunk {c : Chunk} {rest : List Chunk} (hs : Safe s) : Safe (s.writeChunk c rest) :=
  hs.devWrite.frame rfl rfl

protected theorem Safe.flushChunk (hs : Safe s) : Safe s.flushChunk := by
  unfold State.flushChunk
  split
  · exact hs
  · exact hs.ite hs.writeChunk

protected theorem Safe.execRrChunkWrite (hs : Safe s) : SafeOut (execRrChunkWrite s) := by
  unfold Machine.execRrChunkWrite
  split
  · trivial
  · exact SafeOut.ite trivial (SafeOut.ite trivial (SafeOut.ite trivial hs.writeChunk.next))

protected theorem Safe.writeDbgctl {v0 : Nat} (hs : Safe s) : Safe (s.writeDbgctl v0) :=
  hs.ite (Safe.ite (Safe.foldl ((hs.updCtx.ite hs).frame rfl rfl) fun _ _ h => h.flushChunk) ((hs.updCtx.ite hs).frame rfl rfl))

protected theorem Safe.resumeBlock {b : Block} (hs : Safe s) : Safe (s.resumeBlock b) := by
  unfold State.resumeBlock
  extract_lets s1
  have h1 : Safe s1 := by
    refine Safe.drawCore ?_
    exact hs.mapBlocks rfl rfl fun _ h => Block.canonical_ite h h
  clear_value s1
  exact h1.frame rfl rfl

protected theorem Safe.writeDbgcmd {v : Nat} (hs : Safe s) : Safe (s.writeDbgcmd v) :=
  hs.ite (Safe.ite (Safe.foldl (hs.frame rfl rfl) fun _ _ h => h.haltBlock) (Safe.ite (Safe.foldl (hs.frame rfl rfl) fun _ _ h
    => h.resumeBlock) hs))

protected theorem Safe.writeDbgdata {v0 : Nat} (hs : Safe s) : Safe (s.writeDbgdata v0) := by
  unfold State.writeDbgdata
  dsimp only
  split
  · exact hs
  · exact Safe.ite (hs.updThread.tick.frame rfl rfl) hs

protected theorem Safe.execHaltComplete (hs : Safe s) : SafeOut (execHaltComplete s) := by
  unfold Machine.execHaltComplete
  split
  · trivial
  · split
    · refine SafeOut.ite trivial (SafeOut.ite trivial ?_)
      exact Safe.next (hs.mapBlocks rfl rfl fun _ h => Block.canonical_ite h h)
    · trivial

protected theorem Safe.ringWrite {ws : List Nat} (hs : Safe s) : SafeOut (s.ringWrite ws) :=
  SafeOut.ite trivial (Safe.next (hs.devWrite.frame rfl rfl))

protected theorem Safe.execTraceDrain (hs : Safe s) : SafeOut (execTraceDrain s) := by
  unfold Machine.execTraceDrain
  dsimp only
  split
  · exact Safe.ringWrite (hs.frame rfl rfl)
  · split
    · trivial
    · split
      · exact SafeOut.ite trivial (Safe.next (hs.frame rfl rfl))
      · split
        · split
          · split
            · trivial
            · split
              · next e6 =>
                refine Safe.ringWrite ?_
                refine SafeOut.of_next ?_ e6
                exact SafeOut.ite (Safe.next (hs.frame rfl rfl)) (Safe.ringWrite (hs.frame rfl rfl))
              · exact SafeOut.ite (Safe.next (hs.frame rfl rfl)) (Safe.ringWrite (hs.frame rfl rfl))
          · exact SafeOut.ite trivial (Safe.ringWrite (hs.frame rfl rfl))
        · exact Safe.ringWrite (hs.frame rfl rfl)

/-! ### What a turn begins -/

protected theorem Safe.illegalWord {v : View} {g : Machine.Group} {b : Block} (hs : Safe s) :
    SafeOut (illegalWord v g b s) := hs.compared (hs.combine fun _ _ _ h => h.complete)

protected theorem Safe.unbindAt {b : Block} {xs : List Thread} (hs : Safe s) : Safe (s.unbindAt b xs) :=
  Safe.ite (hs.updBlock fun _ h => h) hs

protected theorem Safe.occupyFor {g : Machine.Group} {b : Block} {clocks : Nat} (hs : Safe s) : Safe (s.occupyFor g b clocks) :=
  hs.frame rfl rfl

protected theorem Safe.occupy {g : Machine.Group} {b : Block} {i : Instr} (hs : Safe s) : Safe (s.occupy g b i) :=
  hs.frame rfl rfl

protected theorem Safe.issueWord {g : Machine.Group} {b : Block} {xs : List Thread} {w : Nat} (hs : Safe s) :
    SafeBegun (issueWord g b xs w s) := by
  unfold Machine.issueWord
  dsimp only
  split
  · split
    · exact hs.occupy
    · exact hs.unbindAt.occupy
  · exact hs.unbindAt.occupyFor.illegalWord

protected theorem Safe.fetchGroup {g : Machine.Group} {b : Block} (hs : Safe s) : SafeBegun (fetchGroup g b s) := by
  unfold Machine.fetchGroup
  dsimp only
  split
  · next e => exact (hs.fetchWord.of_fst e).issueWord
  · next e => exact (hs.fetchWord.of_fst e).combine fun _ _ _ h => h.complete
  · next e => exact (hs.fetchWord.of_fst e).stall.next
  · next e => exact (hs.fetchWord.of_fst e).stall.next
  · next e => exact (hs.fetchWord.of_fst e).combine fun _ _ _ h => h.complete
  · trivial

protected theorem Safe.beginIssue {core part : Nat} (hs : Safe s) : SafeBegun (beginIssue core part s) := by
  unfold Machine.beginIssue
  dsimp only
  split
  · trivial
  · split
    · trivial
    · exact Safe.fetchGroup (hs.frame rfl rfl)

protected theorem Safe.beginCommand (hs : Safe s) : SafeBegun (beginCommand s) := by
  unfold Machine.beginCommand
  extract_lets l
  split
  · trivial
  split
  · trivial
  split
  · trivial
  split
  · trivial
  split
  · exact hs.frame rfl rfl
  · exact Safe.finishCommand (hs.frame rfl rfl)

protected theorem Safe.outsideWrite {addr : Nat} {data : List Byte} {poisoned : Bool} (hs : Safe s) :
    SafeOut (outsideWrite addr data poisoned s) :=
  SafeOut.ite trivial (SafeOut.ite (Safe.next (Safe.ite (hs.writePiece.withMem (Mem.addPoison_wf hs.writePiece.mem_wf _) rfl)
    hs.writePiece)) trivial)

protected theorem Safe.nextTurn (hs : Safe s) : Safe s.nextTurn.2 := by
  unfold State.nextTurn
  split
  · exact hs
  · exact hs.frame rfl rfl

protected theorem Safe.pass {n : Nat} (hs : Safe s) : Safe (s.pass n) := hs.frame rfl rfl

protected theorem Safe.beginTurn {t : Turn} (hs : Safe s) : SafeBegun (beginTurn t s) := by
  unfold Machine.beginTurn
  dsimp only
  split
  · exact hs.pass.next
  · exact hs.beginIssue
  · exact hs.frame rfl rfl
  · exact hs.beginCommand
  · exact hs.outsideWrite
  · split
    · exact hs.corrected.next
    · split
      · next e1 => exact (hs.upset.of_some e1).next
      · trivial
  · exact Safe.next (hs.frame rfl rfl)

/-! ### Floating point words -/

protected theorem Safe.floatWord {op n kind : Nat} {f : Nat → Nat → Nat → FRes} {w : Rounded} (hs : Safe s) :
    SafeOut (floatWord op n kind f w s) := hs.laneWord keepsSafe_pure

protected theorem Safe.dotWord {op n : Nat} {w : Rounded} (hs : Safe s) : SafeOut (dotWord op n w s) := by
  unfold Machine.dotWord
  exact hs.laneWord keepsSafe_pure

protected theorem Safe.convWord {op : Nat} {accept : List Tag} {extra : Thread → List Src}
    {conv : Thread → Tag → Nat → FRes} {w : Rounded} (hs : Safe s) : SafeOut (convWord op accept extra conv w s) := by
  unfold Machine.convWord
  exact hs.laneWord keepsSafe_pure

/-! ### Lane words -/

protected theorem Safe.crossWord {f : Form} {lane : List Thread → Thread → Eff} (hs : Safe s) :
    SafeOut (crossWord f lane s) := hs.laneWord keepsSafe_pure

protected theorem Safe.spanWord {op : Nat} {t : Tag} {f : List Nat → List Nat × Nat} {w : Plain} (hs : Safe s) :
    SafeOut (spanWord op t f w s) := hs.crossWord

/-! ### Matrix words -/

protected theorem Safe.matWord {op : Nat} {srcs : MatrixW → List Src} {f : MatrixW → Thread → Nat → Nat → FRes}
    {w : MatrixW} (hs : Safe s) : SafeOut (matWord op srcs f w s) := hs.laneWord keepsSafe_pure

protected theorem Safe.execMsolve {w : MatrixW} (hs : Safe s) : SafeOut (execMsolve w s) := by
  unfold Machine.execMsolve
  exact hs.laneWord keepsSafe_pure

/-! ### Paired words -/

protected theorem Safe.pairedWord {op0 : PairOp} {h0 : Half} {op1 : PairOp} {h1 : Half} (hs : Safe s) :
    SafeOut (pairedWord op0 h0 op1 h1 s) := hs.laneWord keepsSafe_pure

/-! ### Power and reset -/

protected theorem Safe.setStep {die k : Nat} (hs : Safe s) : Safe (s.setStep die k) := hs.frame rfl rfl

protected theorem Safe.execThermalThrottle (hs : Safe s) : SafeOut (execThermalThrottle s) :=
  SafeOut.ite trivial (Safe.next (Safe.setStep (hs.frame rfl rfl)))

protected theorem Safe.execThrottleRelease (hs : Safe s) : SafeOut (execThrottleRelease s) :=
  SafeOut.ite (Safe.next (hs.frame rfl rfl)) trivial

protected theorem Safe.execThermalTrip (hs : Safe s) : SafeOut (execThermalTrip s) := by
  unfold Machine.execThermalTrip
  dsimp only
  split
  · trivial
  · refine Safe.frame (s := (List.foldl _ _ _)) ?_ rfl rfl
    exact hs.foldl fun _ _ h => h.stopContext

protected theorem Safe.writeKmax {v0 : Nat} (hs : Safe s) : Safe (s.writeKmax v0) :=
  hs.ite (Safe.foldl (hs.frame rfl rfl) fun _ _ h => h.setStep.ite h)

protected theorem Safe.gateQuad {quad : Nat} {forced : Bool} (hs : Safe s) : Safe (s.gateQuad quad forced) := hs.frame rfl rfl

protected theorem Safe.ungateQuad {quad : Nat} (hs : Safe s) : Safe (s.ungateQuad quad) := hs.frame rfl rfl

protected theorem Safe.writeQgate {k v : Nat} (hs : Safe s) : Safe (s.writeQgate k v) :=
  hs.foldl fun _ _ h => h.gateQuad.ite (h.ungateQuad.ite h)

protected theorem Safe.execQuadUngateComplete (hs : Safe s) : SafeOut (execQuadUngateComplete s) :=
  SafeOut.ite (Safe.next (hs.frame rfl rfl)) trivial

protected theorem Safe.startFirmware {version measurement : Nat} (hs : Safe s) : Safe (s.startFirmware version measurement) :=
  hs.frame rfl rfl

protected theorem Safe.deviceReset (hs : Safe s) : Safe s.deviceReset := ⟨hs.mem_wf, fun _ h => absurd h List.not_mem_nil⟩

protected theorem Safe.execResetBoot (hs : Safe s) : SafeOut (execResetBoot s) :=
  SafeOut.ite trivial ((hs.deviceReset.ite hs).startFirmware.next.ite (Safe.next ((hs.deviceReset.ite hs).frame rfl rfl)))

protected theorem Safe.writeAttctl {v : Nat} (hs : Safe s) : Safe (s.writeAttctl v) :=
  Safe.ite (hs.frame rfl rfl) (hs.frame rfl rfl)

protected theorem Safe.execAttestDone (hs : Safe s) : SafeOut (execAttestDone s) :=
  SafeOut.ite trivial (SafeOut.ite trivial (Safe.next (hs.tick.devWrite.frame rfl rfl)))

/-! ### Predicate and capability words -/

protected theorem Safe.predWord {op : Nat} {srcs : List Src} {f : Thread → Bool} {w : Plain} (hs : Safe s) :
    SafeOut (predWord op srcs f w s) := hs.laneWord keepsSafe_pure

protected theorem Safe.capWord {op : Nat} {srcs : List Src} {f : Thread → CapReg → CapReg} {w : Plain} (hs : Safe s) :
    SafeOut (capWord op srcs f w s) := hs.laneWord keepsSafe_pure

protected theorem Safe.execCtest {w : Plain} (hs : Safe s) : SafeOut (execCtest w s) := by
  unfold Machine.execCtest
  exact hs.laneWord keepsSafe_pure

/-! ### Control registers -/

protected theorem Safe.setIf {good : Bool} {f : State → State} (hs : Safe s) (hf : Safe (f s)) :
    Safe (s.setIf good f) := hf.ite hs

protected theorem Safe.onLink {f : HostLink → HostLink} (hs : Safe s) : Safe (State.onLink f s) := hs.frame rfl rfl

protected theorem Safe.onFw {f : Firmware → Firmware} (hs : Safe s) : Safe (State.onFw f s) := hs.frame rfl rfl

protected theorem Safe.onRel {f : Reliab → Reliab} (hs : Safe s) : Safe (State.onRel f s) := hs.frame rfl rfl

protected theorem Safe.onDbg {f : Debug → Debug} (hs : Safe s) : Safe (State.onDbg f s) := hs.frame rfl rfl

protected theorem Safe.onTables {f : Tables → Tables} (hs : Safe s) : Safe (State.onTables f s) := hs.frame rfl rfl

protected theorem Safe.writeRings {off v : Nat} (hs : Safe s) : Safe (s.writeRings off v) := by
  unfold State.writeRings
  split
  · exact hs.setIf hs.onLink
  · exact hs.setIf hs.onLink
  · exact hs.onLink
  · exact hs.onLink
  · exact hs.setIf hs.onLink
  · exact hs.setIf hs.onLink
  · exact hs.onLink
  · exact hs.onLink
  · exact hs.setIf hs.onLink
  · exact hs

protected theorem Safe.writePort {p off v : Nat} (hs : Safe s) : Safe (s.writePort p off v) := by
  unfold State.writePort
  split
  · exact hs.updPort
  · exact hs.setIf hs.updPort
  · exact hs.setIf hs.updPort
  · exact hs.updPort
  · exact hs

protected theorem Safe.writeReplica {k v : Nat} (hs : Safe s) : Safe (s.writeReplica k v) := hs.frame rfl rfl

protected theorem Safe.setSdcwin {k : Nat} (hs : Safe s) : Safe (s.setSdcwin k) := hs.frame rfl rfl

protected theorem Safe.writeErrors {off v : Nat} (hs : Safe s) : Safe (s.writeErrors off v) := by
  unfold State.writeErrors
  split
  · exact hs.setIf hs.onRel
  · exact hs.onRel
  · exact hs.onRel
  · exact hs.writeErrlost
  · exact hs.setIf hs.setSdcwin
  · exact hs.setIf hs.onRel
  · exact hs.writeCecount.ite hs

protected theorem Safe.writeDebug {off v : Nat} (hs : Safe s) : Safe (s.writeDebug off v) := by
  unfold State.writeDebug
  split
  · exact hs.writeDbgctl
  · exact hs.writeDbgcmd
  · exact hs.onDbg
  · exact hs.setIf hs.onDbg
  · exact hs.setIf hs.onDbg
  · exact hs.onDbg
  · exact hs.onDbg
  · exact hs.setIf hs.onDbg
  · exact hs.onDbg
  · exact hs.setIf hs.onDbg
  · exact hs.onDbg
  · exact hs.onDbg
  · exact hs.onDbg
  · exact hs.setIf hs.onDbg
  · exact hs.writeDbgdata
  · exact hs

protected theorem Safe.writePower {off v : Nat} (hs : Safe s) : Safe (s.writePower off v) := by
  unfold State.writePower
  dsimp only
  split
  · exact hs.setIf (hs.frame rfl rfl)
  · exact hs.writeKmax
  · exact hs.setIf hs.onFw
  · exact hs.writeAttctl
  · exact hs.writeQgate.ite (hs.onFw.ite hs)

protected theorem Safe.writeCounter {level h v : Nat} (hs : Safe s) : Safe (s.writeCounter level h v) := hs.frame rfl rfl

protected theorem Safe.writeQmap {k v : Nat} (hs : Safe s) : Safe (s.writeQmap k v) := hs.foldl fun _ _ h => h.setMap

protected theorem Safe.writeRoute {k v : Nat} (hs : Safe s) : Safe (s.writeRoute k v) := Safe.afterLinks (hs.frame rfl rfl)

protected theorem Safe.writeControl {off v : Nat} (hs : Safe s) : Safe (s.writeControl off v) := by
  unfold State.writeControl
  refine hs.writeRings.ite (hs.writePort.ite (hs.writeReplica.ite (hs.writeQmap.ite (hs.clearPending.ite
    (hs.writeCatchstat.ite (hs.writeWdkick.ite (hs.onFw.ite (hs.onFw.ite (hs.writeErrors.ite (hs.writeDebug.ite
    (hs.writePower.ite (hs.onTables.ite (hs.onTables.ite (hs.writeExwridx.ite (hs.writeRoute.ite (hs.onTables.ite
    ((hs.setIf hs.onFw).ite ?_)))))))))))))))))
  split
  · exact hs.writeCounter
  · exact hs

protected theorem Safe.writeBar {bar off len v : Nat} (hs : Safe s) : SafeOut (s.writeBar bar off len v) := by
  unfold State.writeBar
  dsimp only
  split
  · exact hs.writeExres.next.ite (hs.writeControl.next.ite hs.next)
  · exact (hs.onLink.next.ite hs.kick).ite hs.next
  · exact hs.next.ite (hs.writeStage.next.ite (SafeOut.ite (SafeOut.ite trivial hs.append.next) hs.next))
  · exact hs.next

protected theorem Safe.execHostCxlMemAccess (hs : Safe s) : SafeOut (execHostCxlMemAccess s) :=
  SafeOut.ite trivial (SafeOut.ite trivial (hs.devStore.next.ite hs.touchHome.next))

/-! ### Every instruction and event -/

protected theorem Safe.exec {i : Instr} (hs : Safe s) : SafeOut (exec i s) := by
  unfold Machine.exec
  cases i
  case mov | sel | cmp | pack | unpack | retag | cget | fcmp | fclass | fscale | mvmul | mchol | mlu | lbarm | ecntAdd |
      ecntRd | exlook | getsr | setsr | cancel | xget | xput | movi | movhi | addi | andi | ori | cmpi | bra | call | ret |
      jmpr | loop | nop => exact hs.laneWord keepsSafe_pure
  case movPaired | addPaired | subPaired | mulPaired | minPaired | maxPaired | absPaired | negPaired | andPaired | orPaired |
      xorPaired | notPaired | andnPaired | shlPaired | shrPaired | sarPaired | faddPaired | fsubPaired | fmulPaired |
      fminPaired | fmaxPaired | fabsPaired | fnegPaired => exact hs.pairedWord
  case fadd | fsub | fmul | fma | fms | fnma | fmin | fmax | fabs | fneg | frint | rcp | rsqrt | sqrt | div | exp2 | log2 |
      sin | cos | tanh => exact hs.floatWord
  case and | or | xor | not | andn | shl | shr | sar | rot | clz | popc | brev | bfx | bfi => exact hs.elemWord
  case add | sub | mul | mulhi | mad | min | max | abs | neg => exact hs.intWord
  case atomAdd | atomMin | atomMax | atomAnd | atomOr | atomXor | atomXchg | atomCas => exact hs.atomWord
  case atomsAdd | atomsMin | atomsMax | atomsAnd | atomsOr | atomsXor | atomsXchg | atomsCas => exact hs.atomsWord
  case pand | por | pxor | pnot | pmask | pset => exact hs.predWord
  case redAdd | redMin | redMax | redAnd | redOr | redXor => exact hs.redWord
  case cmov | cincoff | csetoff | csetbnd | candperm => exact hs.capWord
  case cvtF | cvtFi | cvtIf | cvtQ | cvtM => exact hs.convWord
  case shfl | bcast | ballot | vote | matchLanes => exact hs.crossWord
  case mset | madd | mmul | mmad | mtrans => exact hs.matWord
  case scan | reduce | sort | rank => exact hs.spanWord
  case ppass | cpy | cpyg | cpym => exact hs.commandWord fun _ _ => ChecksSafe.rangeChecks
  case ld | ldacq | st | ldcap => exact hs.laneWord fun _ _ _ _ h => h.capLane
  case cachectlWb | cachectlEvict | cachectlL1drop => exact hs.cacheWord
  case poolRecoveryTimeout | poolCompletionTimeout | poolViralSignal => exact hs.portLost.ite trivial
  case poolLinkUp | portstatWrite | poolLinkExitL0 => exact hs.updPort.next.ite trivial
  case dot2 | dot4 => exact hs.dotWord
  case bar | gbar => exact hs.barrierWord
  case lds | sts => exact hs.laneWord fun _ _ _ _ h => h.spadLane
  case mld | mst => exact hs.laneWord fun _ _ _ _ h => h.matLane
  case pgm | erase => exact hs.malformedCmd.ite hs.startFlash.next
  case dbgcmdStop | dbgcmdResume => exact hs.writeDbgcmd.next
  case supplySag | clockStepRise => exact hs.setStep.next.ite trivial
  case cvtI => exact hs.execCvtI
  case ctest => exact hs.execCtest
  case msolve => exact hs.execMsolve
  case pacq => exact hs.execPacq
  case prel => exact hs.execPrel
  case rack => exact hs.execRack
  case qfence => exact hs.commandWord fun _ _ => ChecksSafe.nil
  case rbacq => exact hs.execRbacq
  case rbrel => exact hs.execRbrel
  case mon => exact hs.execMon
  case mwait => exact hs.execMwait
  case launch => exact hs.execLaunch
  case waitc => exact hs.execWaitc
  case yield => exact hs.execYield
  case fpop => exact hs.execFpop
  case brk => exact hs.execBrk
  case reform => exact hs.execReform
  case rgn => exact hs.execRgn
  case exit => exact hs.execExit
  case trap => exact hs.trapWord
  case assert => exact hs.execAssert
  case rte => exact hs.execRte
  case strel => exact hs.commitWord (fun _ _ _ _ h => h.capLane) performPlain_safe
  case wsum => exact hs.execWsum
  case wrd => exact hs.execWrd
  case stcap => exact hs.execStcap
  case fence => exact hs.commitWord keepsSafe_pure PerformsSafe.fencePerform
  case prefetch => exact hs.execPrefetch
  case memoryResponse => exact hs.execMemoryResponse
  case storeBufferPerform => exact hs.execStoreBufferPerform
  case commandEnqueue => exact hs.execCommandEnqueue
  case copyUnit => exact hs.execCopyUnit
  case commandComplete => exact hs.execCommandComplete
  case passJoin => exact hs.execPassJoin
  case cpymPassPost => exact hs.execCpymPassPost
  case pressGrant => exact hs.execPressGrant
  case passComplete => exact hs.execPassComplete
  case reservationFree => exact hs.execReservationFree
  case watchTrigger => exact hs.execWatchTrigger
  case mwaitTimeout => exact hs.execMwaitTimeout
  case binAgedDraw => exact hs.execBinAgedDraw
  case slotHeadCheck => exact hs.execSlotHeadCheck
  case launchRelease => exact hs.execLaunchRelease
  case pageReadStart => exact hs.execPageReadStart
  case senseDone => exact hs.execSenseDone
  case transferDone => exact hs.execTransferDone
  case correctionDone => exact hs.execCorrectionDone
  case pageBufferEnter => exact hs.execPageBufferEnter
  case pageDelivery => exact hs.execPageDelivery
  case blockPlace => exact hs.execBlockPlace
  case placementOverdue => exact hs.execPlacementOverdue
  case blockClearingDone => exact hs.execBlockClearingDone
  case blockFinish => exact hs.execBlockFinish
  case waitConditionMet => exact hs.execWaitConditionMet
  case blockSave => exact hs.execBlockSave
  case pinnedWaitLimit => exact hs.execPinnedWaitLimit
  case trapDelivery => exact hs.execTrapDelivery
  case faultRecordWrite => exact hs.execFaultRecordWrite
  case replicaLockTimeout => exact hs.execReplicaLockTimeout
  case atsCompletion => exact hs.execAtsCompletion
  case atsInvalidate => exact hs.invalidate.next
  case hostSnoop => exact hs.execHostSnoop
  case bisnp => exact hs.execBisnp
  case swirilLinkDown => exact hs.execSwirilLinkDown
  case peerRequest => exact hs.execPeerRequest
  case peerResponse => exact hs.execPeerResponse
  case ctxload => exact hs.execCtxload
  case objcreate => exact hs.execObjcreate
  case objinv => exact hs.malformedCmd.ite hs.invalidate.next
  case objinvComplete => exact hs.execObjinvComplete
  case faultans => exact hs.execFaultans
  case preempt => exact hs.execPreempt
  case preemptComplete => exact hs.execPreemptComplete
  case resume => exact hs.execResume
  case slotbind => exact hs.execSlotbind
  case slotunbind => exact hs.execSlotunbind
  case feedmap => exact hs.malformedCmd.ite (Safe.finishCommand (hs.frame rfl rfl))
  case pgread => exact hs.malformedCmd.ite hs.startRead.next
  case notifyKick => exact hs.execNotifyKick
  case catcherKick => exact hs.execCatcherKick
  case catcherReplay => exact hs.execCatcherReplay
  case exresWrite => exact hs.writeExres.next.ite trivial
  case exwridx => exact hs.writeExwridx.next
  case pendingWrite => exact hs.clearPending.next.ite trivial
  case catchstatWrite => exact hs.writeCatchstat.next
  case feedAppend => exact hs.execFeedAppend
  case ageingInterval => exact hs.execAgeingInterval
  case eventRecordWrite => exact hs.execEventRecordWrite
  case wdkick => exact hs.writeWdkick.next
  case watchdogTimeout => exact hs.resetFirmware.next.ite trivial
  case sdcWindowBoundary => exact hs.execSdcWindowBoundary
  case errlostWrite => exact hs.writeErrlost.next
  case cecountWrite => exact hs.writeCecount.next.ite trivial
  case dbgctlWrite => exact hs.writeDbgctl.next
  case dbgdataWrite => exact hs.writeDbgdata.next
  case haltComplete => exact hs.execHaltComplete
  case traceDrain => exact hs.execTraceDrain
  case rrChunkWrite => exact hs.execRrChunkWrite
  case replayGateRelease => exact hs.execReplayGateRelease
  case replayGateTimeout => exact hs.execReplayGateTimeout
  case thermalThrottle => exact hs.execThermalThrottle
  case thermalTrip => exact hs.execThermalTrip
  case powerWindow => exact hs.writeKmax.next.ite trivial
  case attctlGo => exact hs.writeAttctl.next
  case attestDone => exact hs.execAttestDone
  case resetBoot => exact hs.execResetBoot
  case registerWrite => exact hs.writeBar
  case hostCxlMemAccess => exact hs.execHostCxlMemAccess
  case throttleRelease => exact hs.execThrottleRelease
  case quadUngateComplete => exact hs.execQuadUngateComplete
  case pgmEraseComplete => exact hs.execPgmEraseComplete

/-! ### The end of a turn -/

protected theorem Safe.endTurn {t : Turn} (hs : Safe s) : Safe (endTurn t s) := hs.ite (hs.frame rfl rfl)

/-! ### Every step -/

protected theorem SafeOut.finishTurn {o : Out} {t : Turn} (ho : SafeOut o) : SafeOut (finishTurn t o) := by
  cases o with
  | next s => exact Safe.endTurn ho
  | fault r => trivial
  | refused r => trivial

protected theorem Safe.step (hs : Safe s) : SafeOut (step s) := by
  have h := hs.nextTurn.beginTurn (t := s.nextTurn.1)
  unfold Machine.step
  dsimp only
  split
  · next e => rw [e] at h; exact (Safe.exec h).finishTurn
  · next e => rw [e] at h; exact SafeOut.finishTurn h

end

/-- Settles O60: every operation of the state keeps memory and scratch canonical, so every instruction and event does. -/
theorem stepKeepsSafe : Obligations.StepKeepsSafe := fun _ _ hs e => hs.step.of_next e

end Sys2Proof

/-! ### Requests and committed entries (R46, R79, R82, R115, R121, R125, R348) -/

namespace Sys2Proof.Machine

open Sys2Proof

/-- Requests that no log orders are performed one after another (R121). -/
theorem State.runWord_reqLanes {rs : List Req} {r : State} (h : ∀ q ∈ rs, r.reqKey q = none) (s : State) :
    State.runWord (r.reqLanes rs) s = rs.foldl (fun t q => t.respondAtom q) s := by
  have hfree : ∀ l ∈ r.reqLanes rs, l.1 = none := fun l hl => by
    obtain ⟨q, hq, rfl⟩ := List.mem_map.1 hl
    exact h q hq
  rw [runWord_free hfree, State.reqLanes, List.foldl_map]

/-- Committed entries that no log orders are performed one after another (R121). -/
theorem State.runWord_itemLanes {is : List Item} {r : State} (h : ∀ j ∈ is, r.itemKey j = none) (s : State) :
    State.runWord (r.itemLanes is) s = is.foldl State.performItem s := by
  have hfree : ∀ l ∈ r.itemLanes is, l.1 = none := fun l hl => by
    obtain ⟨j, hj, rfl⟩ := List.mem_map.1 hl
    exact h j hj
  rw [runWord_free hfree, State.itemLanes, List.foldl_map]

theorem execMemoryResponse_of_piece {s : State} {r : Req} (hr : (s.reqs.find? fun r => r.id == s.sched.args.id) = some r)
    (hload : r.isAtom = false) (hready : s.pieceReady r s.sched.args.sub = true) :
    exec .memoryResponse s = .next (s.respondPiece r s.sched.args.sub) := by
  show execMemoryResponse s = _
  simp [execMemoryResponse, hr, hload, hready]

theorem execMemoryResponse_of_atom {s : State} {r : Req} (hr : (s.reqs.find? fun r => r.id == s.sched.args.id) = some r)
    (hatom : r.isAtom = true) (hready : s.atomReady r = true) (hkey : s.reqKey r = none) :
    exec .memoryResponse s = .next (s.performWord r) := by
  show execMemoryResponse s = _
  simp [execMemoryResponse, hr, hatom, hready, State.reqGated, hkey]

theorem State.performWord_of_unordered {s : State} {r : Req} (hready : s.atomReady r = true)
    (h : ∀ q ∈ s.sameWord r, s.reqKey q = none) :
    s.performWord r = (s.sameWord r).foldl (fun t q => t.respondAtom q) (s.lockReqs (s.sameWord r)) := by
  rw [State.performWord, if_pos hready, State.runWord_reqLanes h]

theorem execStoreBufferPerform_of_entry {s : State} {i : Item}
    (hi : (if s.sched.args.alt then s.outOfTurn s.sched.args.id s.sched.args.sub else s.nextItem s.sched.args.id) = some i) :
    exec .storeBufferPerform s = .next (s.performEntry i) := by
  show execStoreBufferPerform s = _
  simp only [execStoreBufferPerform, hi]

theorem State.performEntry_of_unordered {s : State} {i : Item} (h : ∀ j ∈ s.itemsWith i, s.itemKey j = none) :
    s.performEntry i =
      if (s.itemsWith i).any Item.psn then (s.itemsWith i).foldl State.performItem (s.lockItems (s.itemsWith i))
      else ((s.itemsWith i).foldl State.performItem (s.lockItems (s.itemsWith i))).mend i.core
        ((s.itemsWith i).flatMap fun j => j.eff.stores) := by
  simp only [State.performEntry, State.runWord_itemLanes h]

theorem execCommandEnqueue_of_command {s : State} {i : Item} {c : Cmd} (hi : s.nextCommand s.sched.args.id = some i)
    (hc : i.eff = .command c) :
    exec .commandEnqueue s = .next ({ s with items := s.items.filter fun j => j.id != i.id }.enqueue c) := by
  show execCommandEnqueue s = _
  simp only [execCommandEnqueue, hi, hc]

/-- Settles O32: an access and a command go alone; the lanes of a word, and the entries performed together, go one after another
where no log orders them. -/
theorem requestsAndEntries : Obligations.RequestsAndEntries := by
  refine ⟨?_, ?_, ?_, ?_⟩
  · intro s r hr hload hready
    exact execMemoryResponse_of_piece hr hload hready
  · intro s r hr hatom hready hword hkey
    rw [execMemoryResponse_of_atom hr hatom hready hkey, State.performWord_of_unordered hready hword]
  · intro s i hi hkeys
    rw [execStoreBufferPerform_of_entry hi, State.performEntry_of_unordered hkeys]
  · intro s i c hi hc
    exact execCommandEnqueue_of_command hi hc

end Sys2Proof.Machine

/-! ### Translations, snoops, pool ports, links and peers (R49 to R53, R75, R77, R99 to R107) -/

namespace Sys2Proof.Machine

open Sys2Proof

/-! #### Translations by the host -/

/-- The page and the rights that the host answers (R49). -/
def hostDesc (a : EventArgs) : Nat := a.data % 2 ^ 64 / 4096 * 4096 + a.value % 4

theorem execAtsCompletion_of_grant {s : State} {q : Ask}
    (hq : (s.caches.asks.find? fun q => q.id == s.sched.args.id && q.peer.isNone && q.state == 0) = some q)
    (hsub : s.sched.args.sub = 0)
    (hgrant : hostGrants (.ofCode q.op) (hostDesc s.sched.args) = true) :
    exec .atsCompletion s = .next
      (({ s with caches := { s.caches with asks := s.caches.asks.filter fun k => k.id != s.sched.args.id } } : State).enterExtent
        q.units q.ctx q.obj q.off q.entry (hostDesc s.sched.args)) := by
  show execAtsCompletion s = _
  unfold hostDesc at hgrant ⊢
  simp only [execAtsCompletion, hq, hsub, hgrant, decide_true, Bool.and_self, if_true]

theorem execAtsCompletion_of_refusal {s : State} {q : Ask}
    (hq : (s.caches.asks.find? fun q => q.id == s.sched.args.id && q.peer.isNone && q.state == 0) = some q)
    (hrefused : s.sched.args.sub ≠ 0 ∨ hostGrants (.ofCode q.op) (hostDesc s.sched.args) = false) :
    exec .atsCompletion s = .next { s with caches := { s.caches with asks := s.caches.asks.map fun (k : Ask) =>
      if k.id = s.sched.args.id then { k with state := hostRefusal (.ofCode q.op) s.sched.args.sub (hostDesc s.sched.args) } else k } } := by
  have hno : ¬(decide (s.sched.args.sub = 0) && hostGrants (.ofCode q.op) (hostDesc s.sched.args)) = true := by
    rcases hrefused with h | h
    · rw [decide_eq_false h, Bool.false_and]
      exact Bool.false_ne_true
    · rw [h, Bool.and_false]
      exact Bool.false_ne_true
  show execAtsCompletion s = _
  unfold hostDesc at hno ⊢
  simp only [execAtsCompletion, hq, if_neg hno]

/-- A denial (R47) is what gives some right, and write where the operation writes; the rest is a translation fault (R49). -/
theorem hostRefusal_eq (op : AccOp) (sub desc : Nat) :
    hostRefusal op sub desc = if sub > 1 then 3
      else if sub = 0 ∧ desc % 4 ≠ 0 ∧ (op.write = true → bitAt desc 1 = true) then 6 else 2 := by
  simp only [hostRefusal, imp_iff_not_or, Bool.not_eq_true]

/-! #### Snoops -/

theorem execHostSnoop_of_host {s : State} (h : 128 * s.sched.args.data ≥ hostKey 0) :
    exec .hostSnoop s = .next (s.snoop s.sched.args.data s.sched.args.ok) := by
  show execHostSnoop s = _
  simp only [execHostSnoop, if_neg (Nat.not_lt.2 h)]

theorem execBisnp_of_up {s : State} {p : Nat} (hp : poolPort (128 * s.sched.args.data / 65536) = some p)
    (hup : (s.ports.getD p {}).up = true) : exec .bisnp s = .next (s.snoop s.sched.args.data s.sched.args.ok) := by
  show execBisnp s = _
  simp only [execBisnp, hp, hup, if_true]

/-! #### Pool ports -/

/-- A port is lost where its salvage area, if it has one, has its place. -/
theorem State.portLost_of_placed {s : State} {n : Nat} {p : Port} (hp : s.ports.getD n {} = p)
    (h : p.salvbase = 0 ∨ s.hbmHas p.salvbase p.salvlen = true) : s.portLost n = .next (s.losePort n) := by
  have hno : ¬(p.salvbase ≠ 0 ∧ s.hbmHas p.salvbase p.salvlen = false) := by
    rcases h with h | h <;> simp [h]
  simp only [State.portLost, hp, if_neg hno]

theorem execPoolRecoveryTimeout_of_late {s : State} {p : Port} (hp : s.port? s.sched.args.id = some p) (hleft : p.left = true)
    (hlost : p.lost = false) (hlate : p.leftAt + p.recLimit < s.sched.now) :
    exec .poolRecoveryTimeout s = s.portLost s.sched.args.id := by
  show execPoolRecoveryTimeout s = _
  simp [execPoolRecoveryTimeout, hp, hleft, hlost, hlate]

theorem execPoolViralSignal_of_up {s : State} {p : Port} (hp : s.port? s.sched.args.id = some p) (hup : p.up = true)
    (hlost : p.lost = false) : exec .poolViralSignal s = s.portLost s.sched.args.id := by
  show execPoolViralSignal s = _
  simp [execPoolViralSignal, hp, hup, hlost]

theorem execPoolCompletionTimeout_of_overdue {s : State} {p : Port} (hp : s.port? s.sched.args.id = some p) (hlost : p.lost = false)
    (hover : s.overdueAt (.port s.sched.args.id) p.cplLimit = true) :
    exec .poolCompletionTimeout s = s.portLost s.sched.args.id := by
  show execPoolCompletionTimeout s = _
  simp [execPoolCompletionTimeout, hp, hlost, hover]

theorem State.overdueAt_of_request {s : State} {g : Gone} {limit : Nat}
    (h : ∃ r ∈ s.reqs, r.pieces.any g.holds = true ∧ r.gateSince + limit < s.sched.now) : s.overdueAt g limit = true := by
  obtain ⟨r, hr, hg, hlate⟩ := h
  have hany : (s.reqs.any fun r => r.pieces.any g.holds && decide (r.gateSince + limit < s.sched.now)) = true :=
    List.any_eq_true.2 ⟨r, hr, by rw [hg, decide_eq_true hlate]; rfl⟩
  rw [State.overdueAt, hany, Bool.true_or]

theorem State.overdueAt_of_entry {s : State} {g : Gone} {limit : Nat}
    (h : ∃ i ∈ s.items, i.committed ≠ none ∧ i.eff.pieces.any g.holds = true ∧ i.gateSince + limit < s.sched.now) :
    s.overdueAt g limit = true := by
  obtain ⟨i, hi, hc, hg, hlate⟩ := h
  have hreach : g.reaches i.eff = true := hg
  have hany : (s.items.any fun i => i.committed.isSome && g.reaches i.eff && decide (i.gateSince + limit < s.sched.now)) = true :=
    List.any_eq_true.2 ⟨i, hi, by rw [Option.isSome_iff_ne_none.2 hc, hreach, decide_eq_true hlate]; rfl⟩
  rw [State.overdueAt, hany, Bool.or_true]

theorem execPoolLinkUp_of_down {s : State} {p : Port} (hp : s.port? s.sched.args.id = some p) (hdown : p.up = false)
    (hthere : bitAt s.presence.ports s.sched.args.id = true) :
    exec .poolLinkUp s = .next (s.updPort s.sched.args.id fun p =>
      { p with up := true, left := false, recLimit := limitClocks s.sched.args.len p.recLimit,
               cplLimit := limitClocks s.sched.args.sub p.cplLimit }) := by
  show execPoolLinkUp s = _
  simp [execPoolLinkUp, hp, hdown, hthere]

theorem execPoolLinkExitL0_of_up {s : State} {p : Port} (hp : s.port? s.sched.args.id = some p) (hup : p.up = true) :
    exec .poolLinkExitL0 s = .next (s.updPort s.sched.args.id fun p =>
      { p with up := false, left := true, leftAt := s.sched.now }) := by
  show execPoolLinkExitL0 s = _
  simp [execPoolLinkExitL0, hp, hup]

theorem execPortstatWrite_of_port {s : State} {p : Port} (hp : s.port? s.sched.args.id = some p) :
    exec .portstatWrite s = .next (s.updPort s.sched.args.id fun p => p.writeStat s.sched.args.value) := by
  show execPortstatWrite s = _
  simp [execPortstatWrite, hp]

/-! #### Replicas and Swiril links -/

/-- A die that holds a copy in a replica set loses it (R77). -/
theorem execReplicaLockTimeout_of_copy {s : State} (h : bitAt (s.replica s.sched.args.id s.sched.args.tid) 0 = true) :
    let k := s.sched.args.id
    let row := (s.caches.replicas.getD k []).set s.sched.args.tid (clearBit (s.replica k s.sched.args.tid) 0)
    exec .replicaLockTimeout s = .next ((({ s with caches := { s.caches with replicas := s.caches.replicas.set k row } } : State).errorRecord
      7 9 s.sched.args.tid 0 0 0 0).postEvent 5 0 (k % 64 + s.sched.args.tid % 8 * 2 ^ 8)) := by
  show execReplicaLockTimeout s = _
  simp only [execReplicaLockTimeout, h, Bool.true_eq_false, if_false]

theorem execSwirilLinkDown_of_up {s : State} (h : bitAt s.linksUp s.sched.args.id = true) :
    exec .swirilLinkDown s = .next ({ s with linksUp := clearBit s.linksUp s.sched.args.id }.afterLinks s) := by
  show execSwirilLinkDown s = _
  simp only [execSwirilLinkDown, h, if_true]

/-! #### Requests of peers -/

/-- The message in which the device answers the peer whose request stands in the arguments of the turn (R107). -/
def State.answerPeer (s t : State) (op data : Nat) : State :=
  let a := s.sched.args
  (t.dropAsks (t.asker none)).send { peer := a.id / 65536, obj := a.tid, off := a.value, len := a.len, op := op, data := data }

/-- The walk of a peer's request in this device's table (R46, R107). -/
def State.peerWalk (s : State) : State × AccOut :=
  let a := s.sched.args
  translate s none 0 (a.id % 65536) a.tid a.value a.len (peerOp a.sub a.data)

theorem execPeerRequest_of_served {s t : State} {ps : List Piece}
    (hform : peerForm s.sched.args.sub s.sched.args.value s.sched.args.len = true) (hsub : s.sched.args.sub ≠ 4)
    (hwalk : s.peerWalk = (t, .ok ps))
    (hfree : s.sched.args.sub = 0 ∨ ∀ p ∈ ps, t.lockedOut 0 p = false ∧ t.cutOff p = false) :
    let a := s.sched.args
    let r := (if a.sub = 1 ∧ a.alt = true then t.lend (a.id / 65536) a.tid ps else t).serve a.sub a.data a.len ps
    exec .peerRequest s = .next (s.answerPeer r.1 (if r.2.2 then 5 else 4) r.2.1) := by
  have hnow : ¬(s.sched.args.sub ≠ 0 ∧ (ps.any fun p => t.lockedOut 0 p || t.cutOff p) = true) := by
    rintro ⟨hne, hany⟩
    obtain ⟨p, hp, hheld⟩ := List.any_eq_true.1 hany
    obtain ⟨hlock, hcut⟩ := (hfree.resolve_left hne) p hp
    simp [hlock, hcut] at hheld
  show execPeerRequest s = _
  unfold State.peerWalk at hwalk
  simp only [execPeerRequest, hform, Bool.true_eq_false, if_false, if_neg hsub, hwalk, if_neg hnow]
  rfl

theorem execPeerRequest_of_denied {s t : State} {aux : Nat}
    (hform : peerForm s.sched.args.sub s.sched.args.value s.sched.args.len = true) (hsub : s.sched.args.sub ≠ 4)
    (hwalk : s.peerWalk = (t, .trap cPermission aux)) :
    exec .peerRequest s = .next (s.answerPeer t 6 (aux % 2 ^ 16)) := by
  show execPeerRequest s = _
  unfold State.peerWalk at hwalk
  simp only [execPeerRequest, hform, Bool.true_eq_false, if_false, if_neg hsub, hwalk, if_true]
  rfl

theorem execPeerRequest_of_copiesEnd {s : State}
    (hform : peerForm s.sched.args.sub s.sched.args.value s.sched.args.len = true) (hsub : s.sched.args.sub = 4) :
    let a := s.sched.args
    let place := peerPlace a.tid a.value
    exec .peerRequest s = .next ((s.dropPeerLines (a.id / 65536) place a.len).trigger none (watchAt (some (a.id / 65536)) place) a.len) := by
  show execPeerRequest s = _
  rw [hsub] at hform
  simp only [execPeerRequest, hsub, hform, Bool.true_eq_false, if_false, if_true]

/-! #### Answers of peers -/

theorem execPeerResponse_of_check {s : State} {q : Ask} (hok : s.sched.args.ok = true) (hq : q ∈ s.caches.asks)
    (hid : q.id = s.sched.args.id) (hpeer : q.peer.isSome = true) (hopen : q.state = 0) (h1 : 1 ≤ s.sched.args.sub)
    (h4 : s.sched.args.sub ≤ 4) :
    let a := s.sched.args
    exec .peerResponse s = .next (s.peerAnswer a.id a.sub a.value a.data a.alt) := by
  have hany : (s.caches.asks.any fun q => q.id == s.sched.args.id && q.peer.isSome && q.state == 0) = true :=
    List.any_eq_true.2 ⟨q, hq, by simp [hid, hpeer, hopen]⟩
  have hcheck : s.checkOpen s.sched.args.id s.sched.args.sub = true := by
    simp only [State.checkOpen, hany, h1, h4, decide_true, Bool.and_self, Bool.true_or]
  show execPeerResponse s = _
  simp only [execPeerResponse, hok, hcheck, if_true]

/-- An answer 1 to 4 is kept in the check that asked for it; 3 is kept as 5. -/
theorem State.peerAnswer_of_le {s : State} {id sub value data : Nat} {psn : Bool} (h : sub ≤ 4) :
    s.peerAnswer id sub value data psn = { s with caches := { s.caches with asks := s.caches.asks.map fun (q : Ask) =>
      if q.id = id then { q with state := if sub = 3 then 5 else sub, sub := value % 2 ^ 16, data := data, psn := psn } else q } } := by
  simp only [State.peerAnswer, if_pos h]

theorem execPeerResponse_of_piece {s : State} {r : Req} {p : Piece} {peer : Nat} (hok : s.sched.args.ok = false)
    (hr : (s.reqs.find? fun r => r.id == s.sched.args.id) = some r) (hload : r.isAtom = false)
    (hdue : r.due s.sched.args.sub = some p) (hpeer : p.peer = some peer) (hready : s.respondable r = true) :
    exec .peerResponse s = .next (s.peerRead r s.sched.args.sub p peer s.sched.args.data s.sched.args.alt) := by
  show execPeerResponse s = _
  simp only [execPeerResponse, hok, hr, hload, hdue, hpeer, hready, Bool.false_eq_true, if_false, if_true]

theorem execPeerResponse_of_atom {s : State} {r : Req} (hok : s.sched.args.ok = false)
    (hr : (s.reqs.find? fun r => r.id == s.sched.args.id) = some r) (hatom : r.isAtom = true) (hready : s.wordReady r = true)
    (hpeer : ∀ p ∈ r.pieces, p.peer.isSome = true) (hkey : s.reqKey r = none) :
    exec .peerResponse s = .next
      (State.runWord (s.peerLanes r s.sched.args.data s.sched.args.alt) (s.lockReqs (s.sameWord r))) := by
  have hall : (r.pieces.all fun p => p.peer.isSome) = true := List.all_eq_true.2 hpeer
  show execPeerResponse s = _
  simp only [execPeerResponse, hok, hr, hatom, hready, hall, hkey, Option.all_none, Bool.and_self, Bool.false_eq_true, if_false,
    if_true]

theorem execPeerResponse_of_message {s : State} {m : PeerMsg} (hok : s.sched.args.ok = false) (hid : s.sched.args.id ≠ 0)
    (hnone : ∀ r ∈ s.reqs, r.id ≠ s.sched.args.id)
    (hm : (s.caches.peerOut.find? fun m => m.id == s.sched.args.id && m.op != 0 && m.op != 9) = some m) :
    exec .peerResponse s = .next (s.answered m s.sched.args.data s.sched.args.alt) := by
  have hreq : (s.reqs.find? fun r => r.id == s.sched.args.id) = none :=
    List.find?_eq_none.2 fun r hr => by simpa using hnone r hr
  show execPeerResponse s = _
  simp only [execPeerResponse, hok, hreq, hm, hid, Bool.false_eq_true, if_false]

theorem State.answered_of_write {s : State} {m : PeerMsg} (h : m.fill = none) (data : Nat) (psn : Bool) :
    s.answered m data psn = s.acknowledged m := by
  simp only [State.answered, h]

theorem State.answered_of_fill {s : State} {m : PeerMsg} {die : Nat} (h : m.fill = some die) (data : Nat) (psn : Bool) :
    s.answered m data psn =
      let t := s.fillPeer die m.peer { addr := peerPlace m.obj m.off, len := m.len, peer := some m.peer, cached := true } data psn
      { t with caches := { t.caches with peerOut := t.caches.peerOut.map fun (q : PeerMsg) => if q.id = m.id then { q with id := 0 } else q } } := by
  simp only [State.answered, h]

/-- Settles O41, move by move. -/
theorem linksAndPeers : Obligations.LinksAndPeers := by
  refine ⟨?_, ?_, ?_, ?_, ?_, ?_, ?_, ?_, ?_, ?_, ?_, ?_, ?_, ?_, ?_⟩
  · intro s hcopy
    exact execReplicaLockTimeout_of_copy hcopy
  · intro s q a hq
    refine ⟨fun hsub hgrant => execAtsCompletion_of_grant hq hsub hgrant, fun hrefused => ?_⟩
    rw [execAtsCompletion_of_refusal hq hrefused, hostRefusal_eq]
    rfl
  · intro s
    exact rfl
  · intro s hhost
    exact execHostSnoop_of_host hhost
  · intro s p hp hup
    exact execBisnp_of_up hp hup
  · intro s p hp hlost hplace hget
    have hgone : s.portLost s.sched.args.id = .next (s.losePort s.sched.args.id) := State.portLost_of_placed hget hplace
    exact ⟨fun hleft hlate => (execPoolRecoveryTimeout_of_late hp hleft hlost hlate).trans hgone,
      fun hup => (execPoolViralSignal_of_up hp hup hlost).trans hgone,
      fun h => (execPoolCompletionTimeout_of_overdue hp hlost (State.overdueAt_of_request h)).trans hgone,
      fun h => (execPoolCompletionTimeout_of_overdue hp hlost (State.overdueAt_of_entry h)).trans hgone⟩
  · intro s p hp
    exact ⟨fun hdown hthere => execPoolLinkUp_of_down hp hdown hthere, fun hup => execPoolLinkExitL0_of_up hp hup,
      execPortstatWrite_of_port hp⟩
  · intro s hup
    exact execSwirilLinkDown_of_up hup
  · intro s t ps a hform hsub hwalk hfree
    exact execPeerRequest_of_served hform hsub hwalk hfree
  · intro s a place hform hsub
    exact execPeerRequest_of_copiesEnd hform hsub
  · intro s t aux a hform hsub hwalk
    exact execPeerRequest_of_denied hform hsub hwalk
  · intro s q hok hq hid hpeer hopen h1 h4
    exact (execPeerResponse_of_check hok hq hid hpeer hopen h1 h4).trans (congrArg _ (State.peerAnswer_of_le h4))
  · intro s r p peer hok hr hload hdue hpeer hready
    exact execPeerResponse_of_piece hok hr hload hdue hpeer hready
  · intro s r hok hr hatom hready hpeer hkey
    exact execPeerResponse_of_atom hok hr hatom hready hpeer hkey
  · intro s m a hok hid hnone hm
    have hans := execPeerResponse_of_message hok hid hnone hm
    exact ⟨fun h => hans.trans (congrArg _ (State.answered_of_write h _ _)),
      fun die h => hans.trans (congrArg _ (State.answered_of_fill h _ _))⟩

end Sys2Proof.Machine

/-! ### What a word that changes registers alone leaves alone (R83, R176, R275) -/

namespace Sys2Proof.Machine

open Sys2Proof

/-- One thread is another but for where it goes on: its PC, its code space, its state and RETIRED (R176, R179, R456). -/
def Thread.GoneOn (x y : Thread) : Prop := y = { x with pc := y.pc, space := y.space, st := y.st, retired := y.retired }

theorem Thread.GoneOn.refl (x : Thread) : x.GoneOn x := rfl

theorem Thread.GoneOn.trans {x y z : Thread} (h : x.GoneOn y) (g : y.GoneOn z) : x.GoneOn z := by
  unfold Thread.GoneOn at *
  rw [g, h]

theorem Thread.GoneOn.tid_eq {x y : Thread} (h : x.GoneOn y) : y.tid = x.tid := by
  unfold Thread.GoneOn at h
  rw [h]

section
variable {s t u : State} {e : Nat → Thread → Thread}

/-- From one state to another, each thread of block k has changed by `e k` and in where it goes on. Besides the threads, only
groups, bins, what is asked of hosts and peers, the scheduler and the debug unit may have changed. -/
structure Changed (e : Nat → Thread → Thread) (s t : State) : Prop where
  rest : t = { s with sched := t.sched, caches := { s.caches with asks := t.caches.asks }, blocks := t.blocks, groups := t.groups,
                      bins := t.bins, dbg := t.dbg }
  blocks : ∃ f : Nat → Thread → Thread, (∀ k x, (e k x).GoneOn (f k x)) ∧ t.blocks = s.blocks.map fun b => b.updThreads (f b.uid)

/-- The threads go on, and no register changes. -/
abbrev GoesOn (s t : State) : Prop := Changed (fun _ => id) s t

theorem Changed.of_blocks_eq
    (hr : t = { s with sched := t.sched, caches := { s.caches with asks := t.caches.asks }, blocks := t.blocks,
                       groups := t.groups, bins := t.bins, dbg := t.dbg })
    (hb : t.blocks = s.blocks) : GoesOn s t :=
  ⟨hr, fun _ => id, fun _ => .refl, by rw [hb]; exact (map_updThreads_id s.blocks).symm⟩

theorem Changed.refl (s : State) : GoesOn s s := .of_blocks_eq rfl rfl

/-- Threads that have changed go on. -/
theorem Changed.trans (h : Changed e s t) (g : GoesOn t u) : Changed e s u := by
  obtain ⟨f1, hf1, hb1⟩ := h.blocks
  obtain ⟨f2, hf2, hb2⟩ := g.blocks
  refine ⟨?_, fun k => f2 k ∘ f1 k, fun k x => (hf1 k x).trans (hf2 k (f1 k x)), ?_⟩
  · rw [g.rest, h.rest]
  · rw [hb2, hb1, List.map_map]
    exact List.map_congr_left fun b _ => by simp [Block.updThreads]

theorem Changed.foldl {α : Type} {f : State → α → State} (hf : ∀ t a, GoesOn t (f t a)) :
    ∀ (l : List α) (s : State), GoesOn s (l.foldl f s)
  | [], s => .refl s
  | a :: l, s => (hf s a).trans (foldl hf l (f s a))

/-! #### Threads that go on (R176, R179) -/

theorem State.goesOn_updThreads (s : State) (uid : Nat) {f : Thread → Thread} (hf : ∀ x : Thread, x.GoneOn (f x)) :
    GoesOn s (s.updBlock uid fun b => b.updThreads f) := by
  refine ⟨rfl, fun k => if k = uid then f else id, fun k x => ?_, List.map_congr_left fun b _ => ?_⟩
  · by_cases h : k = uid
    · simpa [h] using hf x
    · simpa [h] using Thread.GoneOn.refl x
  · by_cases h : b.uid = uid <;> simp [h, Block.updThreads]

theorem State.goesOn_updThread (s : State) (uid tid : Nat) {f : Thread → Thread} (hf : ∀ x : Thread, x.GoneOn (f x)) :
    GoesOn s (s.updThread uid tid f) :=
  s.goesOn_updThreads uid fun x => by
    split
    · exact hf x
    · exact .refl x

theorem State.goesOn_updGroup (s : State) (gid : Nat) (f : Group → Group) : GoesOn s (s.updGroup gid f) := .of_blocks_eq rfl rfl

theorem State.goesOn_draw (s : State) (b : Bin) : GoesOn s (s.draw b) := by
  unfold State.draw
  dsimp only
  refine Changed.trans ?_ (State.goesOn_updThreads _ _ fun x => ?_)
  · exact .of_blocks_eq rfl rfl
  · split <;> rfl

theorem State.goesOn_drawAll (s : State) (core part : Nat) : GoesOn s (s.drawAll core part) := .foldl goesOn_draw _ s

theorem State.goesOn_file (s : State) (uid tid : Nat) (pc : Int) (space : Space) : GoesOn s (s.file uid tid pc space) := by
  have filed : GoesOn s (s.updThread uid tid fun x => { x with st := .filed, pc := pc, space := space }) :=
    s.goesOn_updThread uid tid fun _ => rfl
  unfold State.file
  dsimp only
  split
  · exact .refl s
  · split
    · exact (s.goesOn_updThread uid tid (f := fun x => { x with st := .running, pc := pc, space := space }) fun _ => rfl).trans
        (.of_blocks_eq rfl rfl)
    · split
      · exact filed.trans (.of_blocks_eq rfl rfl)
      · refine Changed.trans (t := ite _ _ _) ?_ (.of_blocks_eq rfl rfl)
        split
        · split
          · exact filed.trans (State.goesOn_draw _ _)
          · exact filed
        · exact filed

theorem State.goesOn_fileAll (s : State) (uid : Nat) (xs : List Thread) : GoesOn s (s.fileAll uid xs) :=
  .foldl (fun t (x : Thread) => t.goesOn_file uid x.tid x.pc x.space) _ s

theorem State.goesOn_regroup (s : State) (gid : Nat) : GoesOn s (s.regroup gid) := by
  unfold State.regroup
  dsimp only
  split
  · exact .refl s
  · split
    · exact .refl s
    · exact s.goesOn_updGroup _ _
    · exact ((s.goesOn_updGroup _ _).trans (State.goesOn_fileAll _ _ _)).trans (State.goesOn_drawAll _ _ _)

theorem State.goesOn_stepPcs (s : State) (b : Block) (xs : List Thread) (oks : List (Thread × Eff)) :
    GoesOn s (s.stepPcs b xs oks) := by
  refine .foldl (fun t x => ?_) xs s
  exact t.goesOn_updThread _ _ fun _ => rfl

theorem State.goesOn_branchTrace (s : State) (g : Group) (b : Block) (pinned : Bool) (xs : List Thread)
    (oks : List (Thread × Eff)) : GoesOn s (s.branchTrace g b pinned xs oks) := by
  have h := branchTrace_dbg s g b pinned xs oks
  exact .of_blocks_eq (by rw [h]) (by rw [h])

/-! #### Threads that change their registers (R61, R199, R266) -/

theorem foldl_keeps_tid {α : Type} {f : Thread → α → Thread} (hf : ∀ x a, (f x a).tid = x.tid) :
    ∀ (l : List α) (x : Thread), (l.foldl f x).tid = x.tid
  | [], _ => rfl
  | a :: l, x => (foldl_keeps_tid hf l (f x a)).trans (hf x a)

@[simp] theorem setFpflags_tid (x : Thread) (v : Word) : (setFpflags x v).tid = x.tid := by
  unfold setFpflags
  split <;> rfl

@[simp] theorem setMstat_tid (x : Thread) (v : Word) : (setMstat x v).tid = x.tid := by
  unfold setMstat
  split <;> rfl

@[simp] theorem setScratchfault_tid (x : Thread) (v : Word) : (setScratchfault x v).tid = x.tid := by
  unfold setScratchfault
  split <;> rfl

@[simp] theorem Thread.apply_tid (x : Thread) (e : Eff) : (x.apply e).tid = x.tid := by
  unfold Thread.apply
  extract_lets xv xp xc xf xm xo xd
  have hc : xc.tid = x.tid :=
    (foldl_keeps_tid (f := fun x w => x.putC w.1 w.2) (fun _ _ => rfl) e.c xp).trans
      ((foldl_keeps_tid (f := fun x w => x.putP w.1 w.2) (fun _ _ => rfl) e.p xv).trans
        (foldl_keeps_tid (f := fun x w => x.putV w.1 w.2) (fun _ _ => rfl) e.v x))
  have hd : xd.tid = xc.tid := by
    simp only [xd, xo, xm]
    cases e.passed <;> cases e.off <;> cases e.ms <;> rfl
  split <;> simp [hd, hc]

theorem effectOn_cons (o : Thread × Eff) (oks : List (Thread × Eff)) (x : Thread) :
    effectOn (o :: oks) x = effectOn oks (if x.tid = o.1.tid then x.apply o.2 else x) := by
  by_cases h : x.tid = o.1.tid
  · simp [effectOn, h]
  · simp [effectOn, h, Ne.symm h]

theorem effectOn_tid (oks : List (Thread × Eff)) (x : Thread) : (effectOn oks x).tid = x.tid :=
  foldl_keeps_tid (fun _ _ => Thread.apply_tid _ _) _ x

/-- The effects of a word on the threads of a block: those of its own block alone have any. -/
def effectIn (uid : Nat) (oks : List (Thread × Eff)) (k : Nat) (x : Thread) : Thread := if k = uid then effectOn oks x else x

theorem effectIn_tid (uid : Nat) (oks : List (Thread × Eff)) (k : Nat) (x : Thread) : (effectIn uid oks k x).tid = x.tid := by
  unfold effectIn
  split
  · exact effectOn_tid oks x
  · rfl

theorem State.applyAll_blocks_eq_map (uid : Nat) : ∀ (oks : List (Thread × Eff)) (s : State),
    (s.applyAll uid oks).blocks = s.blocks.map fun b => b.updThreads (effectIn uid oks b.uid)
  | [], s => by
    have h : ∀ k, effectIn uid [] k = id := fun k => funext fun x => ite_self x
    simp only [h]
    exact (map_updThreads_id s.blocks).symm
  | o :: oks, s => by
    have ih := applyAll_blocks_eq_map uid oks (s.updThread uid o.1.tid fun y => y.apply o.2)
    refine ih.trans ?_
    rw [State.updThread_blocks, List.map_map]
    refine List.map_congr_left fun b _ => ?_
    by_cases h : b.uid = uid
    · simp [h, Block.updThreads, Block.updThread, effectIn, effectOn_cons]
    · simp [h, Block.updThreads, effectIn]

theorem State.changed_applyAll (s : State) (uid : Nat) (oks : List (Thread × Eff)) :
    Changed (effectIn uid oks) s (s.applyAll uid oks) :=
  ⟨by rw [applyAll_blocks], effectIn uid oks, fun _ _ => .refl _, applyAll_blocks_eq_map uid oks s⟩

/-! #### The state after the word -/

/-- A word whose effects are all on registers changes its threads by them, and they go on. -/
theorem State.changed_wordDone (s : State) (g : Group) (b : Block) {oks : List (Thread × Eff)} (h : ∀ o ∈ oks, o.2.inner) :
    Changed (effectIn b.uid oks) s (s.wordDone g b oks) := by
  obtain ⟨hrest, hblocks⟩ := State.changed_applyAll (s.dropAsks s.sched.cur).bump b.uid oks
  have applied : Changed (effectIn b.uid oks) s ((s.dropAsks s.sched.cur).bump.applyAll b.uid oks) := ⟨hrest, hblocks⟩
  unfold State.wordDone State.effectsDone
  rw [putLanes_inner _ _ _ _ h]
  exact ((applied.trans (State.goesOn_branchTrace _ _ _ _ _ _)).trans (State.goesOn_stepPcs _ _ _ _)).trans
    (State.goesOn_regroup _ _)

/-- Where every thread of every block is changed without its index, it is found changed. -/
theorem State.thread?_of_updThreads {f : Nat → Thread → Thread} (hf : ∀ k x, (f k x).tid = x.tid)
    (hb : t.blocks = s.blocks.map fun b => b.updThreads (f b.uid)) (uid tid : Nat) :
    t.thread? uid tid = (s.thread? uid tid).map (f uid) := by
  have hu : ((fun b : Block => b.uid == uid) ∘ fun b : Block => b.updThreads (f b.uid)) = fun b => b.uid == uid := rfl
  have hk : ((fun x : Thread => x.tid == tid) ∘ f uid) = fun x => x.tid == tid := funext fun x => by
    rw [Function.comp_apply, hf]
  unfold State.thread? State.block?
  rw [hb, List.find?_map, hu]
  cases h : s.blocks.find? fun b => b.uid == uid with
  | none => rfl
  | some b =>
    obtain rfl : b.uid = uid := by simpa using List.find?_some h
    show (b.threads.map (f b.uid)).find? _ = (b.threads.find? _).map (f b.uid)
    rw [List.find?_map, hk]

/-- What changes threads by effects on registers alone leaves all else as it was. -/
theorem Changed.onlyRegisters {uid : Nat} {oks : List (Thread × Eff)} (h : Changed (effectIn uid oks) s t) :
    OnlyRegisters s t uid oks := by
  obtain ⟨f, hf, hb⟩ := h.blocks
  have htid : ∀ k x, (f k x).tid = x.tid := fun k x => (hf k x).tid_eq.trans (effectIn_tid uid oks k x)
  refine ⟨h.rest, ?_, fun k tid x hx => ⟨f k x, ?_, hf k x⟩⟩
  · rw [hb, List.map_map]
    rfl
  · rw [State.thread?_of_updThreads htid hb, hx]
    rfl

theorem State.onlyRegisters_wordDone (s : State) (g : Group) (b : Block) {oks : List (Thread × Eff)}
    (h : ∀ o ∈ oks, o.2.inner) : OnlyRegisters s (s.wordDone g b oks) b.uid oks :=
  (s.changed_wordDone g b h).onlyRegisters

end

/-- Settles O53: the threads of the word are changed by their effects, and what follows only files, draws and moves them. -/
theorem registerFrame : Obligations.RegisterFrame := by
  refine ⟨fun s g b oks _ hin => s.onlyRegisters_wordDone g b hin, fun i fs kind e hword hin s t g b hc hu hp he => ?_⟩
  obtain rfl := Host.Outcome.next.inj ((hword s g b hc hu hp).symm.trans he)
  refine s.onlyRegisters_wordDone g b fun o ho => ?_
  obtain ⟨x, -, rfl⟩ := List.mem_map.1 ho
  exact hin s b _ x

/-! ### Registers of a thread that starts, and of blocks gained (R59) -/

theorem Thread.start_vreg {tid h r : Nat} {entry : Int} {slots : List CapReg} :
    (Thread.start tid h entry slots).vreg r = {} :=
  List.getElem?_getD_replicate_default_eq _ _ _

theorem Thread.start_pred {tid h p : Nat} {entry : Int} {slots : List CapReg} :
    (Thread.start tid h entry slots).pred p = false :=
  List.getElem?_getD_replicate_default_eq _ 32 p

/-- Blocks gained leave the registers held as they were. -/
theorem Thread.grow_vreg_of_lt {x : Thread} {n r : Nat} {e : Bool} (h : r < x.v.length) : (x.grow n e).vreg r = x.vreg r :=
  List.getD_append _ _ _ _ h

/-- The registers of blocks gained start as those of a new thread. -/
theorem Thread.grow_vreg_of_ge {x : Thread} {n r : Nat} {e : Bool} (h : x.v.length ≤ r) : (x.grow n e).vreg r = {} :=
  (List.getD_append_right _ _ _ _ h).trans (List.getElem?_getD_replicate_default_eq _ _ _)

theorem Thread.shrink_length {x : Thread} {n : Nat} (h : x.v.length = 32 * x.h) :
    (x.shrink n).v.length = 32 * (x.h - n) := by
  show (x.v.take (32 * (x.h - n))).length = _
  rw [List.length_take, h]
  omega

theorem Thread.shrink_vreg {x : Thread} {n r : Nat} (h : r < 32 * (x.h - n)) : (x.shrink n).vreg r = x.vreg r := by
  show (x.v.take (32 * (x.h - n))).getD r {} = x.v.getD r {}
  simp [h]

/-- Settles O57: registers gained, by a new thread or by new blocks, are all in the state of R59. -/
theorem threadStart : Obligations.ThreadStart := by
  refine ⟨fun tid h entry slots => ⟨fun r _ => Thread.start_vreg, fun p => Thread.start_pred⟩,
    fun x n e hx => ⟨fun r hr => ?_, fun p => rfl, fun r hr _ => ?_⟩, fun x n e hx _ => ⟨fun r hr => ?_, fun r hr _ => ?_⟩⟩
  · exact Thread.grow_vreg_of_lt (hx ▸ hr)
  · exact Thread.grow_vreg_of_ge (hx ▸ hr)
  · exact (Thread.grow_vreg_of_lt ((Thread.shrink_length hx).symm ▸ hr)).trans (Thread.shrink_vreg hr)
  · exact Thread.grow_vreg_of_ge ((Thread.shrink_length hx).symm ▸ hr)

end Sys2Proof.Machine

/-! ### Units of the Copy Engines, and the completion of commands (R107, R144 to R155) -/

namespace Sys2Proof.Machine

open Sys2Proof

/-! #### A unit that has been written -/

/-- A unit counts, with its bytes where they are credited only after the acknowledgements of its writes. -/
def Cmd.unitCounted (d : Cmd) (failed : Bool) (acks : List Nat) (owed : Nat) : Cmd :=
  { d with unit := d.unit + 1, failed := d.failed || failed, acks := acks, owed := owed }

theorem State.unitDone_of_unsent (s : State) (c : Cmd) {n : Nat} (failed : Bool) {sent : List Nat} (hsent : sent = []) (hn : n ≠ 0) :
    s.unitDone c n failed sent = (s.creditCmd c n).updCmd c.id fun d =>
      { d.unitCounted failed [] 0 with credited := decide (d.unit + 1 ≥ d.units) } := by
  subst hsent
  exact if_pos ⟨rfl, hn⟩

theorem State.unitDone_of_sent (s : State) (c : Cmd) (n : Nat) (failed : Bool) {sent : List Nat} {id : Nat} {ids : List Nat}
    (hsent : sent = id :: ids) :
    s.unitDone c n failed sent = s.updCmd c.id fun d => d.unitCounted failed (id :: ids) n := by
  subst hsent
  simp [State.unitDone, Cmd.unitCounted]

/-- The stretches of a unit of a copy have landed. -/
def State.unitLanded (s : State) (b : Block) (c : Cmd) (rs : List Ready) : State := s.tick.landAll (s.copied b c rs)

theorem State.copyUnit_of_ready {s t : State} {c : Cmd} {b : Block} {rs : List Ready}
    (hready : prepare (dieOf c.core) c b (c.rowOf (s.unitList c b)) (s.unitList c b) s = (t, .ready rs)) :
    s.copyUnit c b = .next (((t.unitLanded b c rs).unitDone c (min 128 (c.nominal - 128 * c.unit)) (rs.any Ready.failed)
      ((t.unitLanded b c rs).sentSince t)).servedCmd c) := by
  simp only [State.copyUnit, hready, State.unitLanded]

theorem State.rackUnit_of_allServed (s : State) {c : Cmd} (b : Block) (hserved : c.unit ≥ c.units) :
    s.rackUnit c b = .next (((if c.invalid then s else s.rackCount c).creditCmd c c.nominal).updCmd c.id fun c =>
      { c with credited := true }) :=
  if_pos hserved

/-! #### The turn of an engine -/

/-- The head that the Copy Engine of a quad serves next: the first one after the queue it served last (R145). -/
def State.headInTurn (s : State) : Option (Nat × Cmd) :=
  ((List.range 16).map fun i => (lookupD 15 s.sched.args.id s.engines.rr + 1 + i) % 16).findSome? fun k =>
    (s.headOf s.sched.args.id k).map fun c => (k, c)

/-- The engine of the quad has turned to queue k, whose head is a command. -/
def State.turnedTo (s : State) (k : Nat) (c : Cmd) : State :=
  { s with engines := { s.engines with rr := setAt s.sched.args.id k s.engines.rr } }.about c.id

section

variable {s : State} {k : Nat} {c : Cmd} {b : Block}

theorem exec_copyUnit_of_head (hhead : s.headInTurn = some (k, c)) (hb : (s.turnedTo k c).cmdBlock c = some b) :
    exec .copyUnit s =
      if c.kind = .rack then (s.turnedTo k c).rackUnit c b
      else if c.units = 0 then .next (((s.turnedTo k c).creditCmd c 0).updCmd c.id fun c => { c with credited := true })
      else (s.turnedTo k c).copyUnit c b := by
  unfold State.headInTurn at hhead
  unfold State.turnedTo at hb ⊢
  show execCopyUnit s = _
  simp only [execCopyUnit, hhead, hb]

theorem exec_copyUnit_of_copy {t : State} {rs : List Ready}
    (hhead : s.headInTurn = some (k, c)) (hb : (s.turnedTo k c).cmdBlock c = some b) (hrack : c.kind ≠ .rack) (hunits : c.units ≠ 0)
    (hready : prepare (dieOf c.core) c b (c.rowOf ((s.turnedTo k c).unitList c b)) ((s.turnedTo k c).unitList c b) (s.turnedTo k c)
      = (t, .ready rs)) :
    exec .copyUnit s = .next (((t.unitLanded b c rs).unitDone c (min 128 (c.nominal - 128 * c.unit)) (rs.any Ready.failed)
      ((t.unitLanded b c rs).sentSince t)).servedCmd c) := by
  rw [exec_copyUnit_of_head hhead hb, if_neg hrack, if_neg hunits, State.copyUnit_of_ready hready]

theorem exec_copyUnit_of_empty (hhead : s.headInTurn = some (k, c)) (hb : (s.turnedTo k c).cmdBlock c = some b)
    (hrack : c.kind ≠ .rack) (hunits : c.units = 0) :
    exec .copyUnit s = .next (((s.turnedTo k c).creditCmd c 0).updCmd c.id fun c => { c with credited := true }) := by
  rw [exec_copyUnit_of_head hhead hb, if_neg hrack, if_pos hunits]

theorem exec_copyUnit_of_rackServed (hhead : s.headInTurn = some (k, c)) (hb : (s.turnedTo k c).cmdBlock c = some b)
    (hrack : c.kind = .rack) (hserved : c.unit ≥ c.units) :
    exec .copyUnit s = .next (((if c.invalid then s.turnedTo k c else (s.turnedTo k c).rackCount c).creditCmd c c.nominal).updCmd c.id
      fun c => { c with credited := true }) := by
  rw [exec_copyUnit_of_head hhead hb, if_pos hrack, State.rackUnit_of_allServed _ b hserved]

end

/-! #### Completion -/

/-- Nothing of a command is left but its notify word (R144, R155): it may start and waits for no answer or acknowledgement, and a
command of the engine has credited its bytes and posted its pass. -/
structure Cmd.Done (s : State) (c : Cmd) : Prop where
  mayStart : s.mayStart c = true
  waits : c.waits = []
  acks : c.acks = []
  notPass : c.kind ≠ .ppass
  served : c.kind = .qfence ∨ c.credited = true ∧ (c.kind = .cpym → c.posted = true)

/-- The word that the notify of a command writes: its value, with bit 31 where it has failed (R155). -/
def Cmd.notifyWord (c : Cmd) : Nat := if c.failed then c.value ||| 0x80000000 else c.value

/-- A command that is done completes: without a word where its block is gone, else with its notify word where that is placed. -/
theorem exec_commandComplete_of_done {s : State} {c : Cmd} (hc : s.cmd? s.sched.args.id = some c) (hdone : c.Done s) :
    (s.cmdBlock c = none → exec .commandComplete s = .next (s.endCmd c false))
    ∧ ∀ t b ps, s.cmdBlock c = some b → s.notifyCmd c b = (t, .ok ps) →
      exec .commandComplete s = .next (((t.writePieces none ps (natToBytes 4 c.notifyWord)).notifyDone c
        ((t.writePieces none ps (natToBytes 4 c.notifyWord)).sentSince t)).servedCmd c) := by
  obtain ⟨hmay, hwaits, hacks, hpass, hserved⟩ := hdone
  refine ⟨fun hb => ?_, fun t b ps hb hn => ?_⟩
  all_goals
    show execCommandComplete s = _
    cases hk : c.kind with
    | ppass => exact absurd hk hpass
    | qfence => simp [execCommandComplete, Cmd.notifyWord, *]
    | cpym =>
      obtain ⟨hcred, hposted⟩ := hserved.resolve_left (by simp [hk])
      simp [execCommandComplete, hposted hk, Cmd.notifyWord, *]
    | cpy | cpyg | rack =>
      obtain ⟨hcred, -⟩ := hserved.resolve_left (by simp [hk])
      simp [execCommandComplete, Cmd.notifyWord, *]

theorem State.notifyDone_of_unsent (s : State) (c : Cmd) {sent : List Nat} (hsent : sent = []) :
    s.notifyDone c sent = s.endCmd c c.failed := by
  subst hsent
  rfl

theorem State.notifyDone_of_sent (s : State) (c : Cmd) {sent : List Nat} {id : Nat} {ids : List Nat} (hsent : sent = id :: ids) :
    s.notifyDone c sent = s.updCmd c.id fun c => { c with acks := id :: ids, notified := true } := by
  subst hsent
  rfl

/-- A unit and a notify end alike, once the answers that they have waited for have served them: only what was written differs. -/
theorem next_servedCmd_congr (c : Cmd) {u v : State} (h : u = v) :
    (.next (u.servedCmd c) : Out) = .next (v.servedCmd c) := by rw [h]

/-- Settles O34: the turn of an engine, for each kind of head, and the completion of a command that is done. -/
theorem copyUnits : Obligations.CopyUnits := by
  refine ⟨?_, ?_, ?_, ?_, ?_⟩
  · intro s t k c b rs hhead u hb hrack hunits hready n v
    have hexec := exec_copyUnit_of_copy hhead hb hrack hunits hready
    exact ⟨fun hsent hn => hexec.trans (next_servedCmd_congr c (v.unitDone_of_unsent c _ hsent hn)),
      fun id ids hsent => hexec.trans (next_servedCmd_congr c (v.unitDone_of_sent c n _ hsent))⟩
  · intro s k c b hhead u hb hrack hunits
    exact exec_copyUnit_of_empty hhead hb hrack hunits
  · intro s k c b hhead u hb hrack hserved
    exact exec_copyUnit_of_rackServed hhead hb hrack hserved
  · intro s c hc hmay hwaits hacks hpass hserved hb
    exact (exec_commandComplete_of_done hc ⟨hmay, hwaits, hacks, hpass, hserved⟩).1 hb
  · intro s t c b ps hc hmay hwaits hacks hpass hserved hb hn v
    have hexec := (exec_commandComplete_of_done hc ⟨hmay, hwaits, hacks, hpass, hserved⟩).2 t b ps hb hn
    exact ⟨fun hsent => hexec.trans (next_servedCmd_congr c (v.notifyDone_of_unsent c hsent)),
      fun id ids hsent => hexec.trans (next_servedCmd_congr c (v.notifyDone_of_sent c hsent))⟩

end Sys2Proof.Machine

/-! ### The end of a block, of a wait, of a save and of a pre-emption (R138, R184, R212 to R217, R233, R250, R390) -/

namespace Sys2Proof.Machine

open Sys2Proof

/-! #### The end of a block -/

/-- What BLOCK_FINISH needs before it takes anything from a block: the block has ended, and waits for no answer to a fault of its
exit record (R184, R390). -/
structure EndedBlock (s : State) (b : Block) (l : Launch) : Prop where
  block : s.block? s.sched.args.id = some b
  launch : s.launchOf b = some l
  ended : s.mayFinish b = true
  answered : b.exitWait = []

/-- A block that has ended, whose commands are all complete, and whose exit record is not written yet (R138, R149). -/
structure RecordDue (s : State) (b : Block) (l : Launch) : Prop extends EndedBlock s b l where
  complete : s.commandsEnded b = true
  unsent : b.recSent = []

section

variable {s : State} {b : Block} {l : Launch}

theorem EndedBlock.vacates (h : EndedBlock s b l) (hcmds : s.commandsEnded b = false) (hvac : b.vacated = false)
    (hst : b.st = .resident) : exec .blockFinish s = .next (s.vacate b) := by
  obtain ⟨hb, hl, hend, hans⟩ := h
  show execBlockFinish s = _
  simp [execBlockFinish, hb, hl, hend, hans, hcmds, hvac, hst]

theorem EndedBlock.finishes_of_performed (h : EndedBlock s b l) (hcmds : s.commandsEnded b = true) (hsent : b.recSent ≠ [])
    (hperf : b.recSent.any s.awaited = false) : exec .blockFinish s = .next (s.finishBlock b) := by
  obtain ⟨hb, hl, hend, hans⟩ := h
  show execBlockFinish s = _
  simp only [execBlockFinish, hb, hl, hend, hans, hcmds, hsent, hperf, ne_eq, not_true_eq_false, not_false_eq_true,
    or_self, if_true, if_false, Bool.true_eq_false, Bool.false_eq_true]

theorem RecordDue.finishes_of_untagged (h : RecordDue s b l) (htag : l.exitrec.tag = false) :
    exec .blockFinish s = .next (s.finishBlock b) := by
  obtain ⟨⟨hb, hl, hend, hans⟩, hcmds, hsent⟩ := h
  show execBlockFinish s = _
  simp [execBlockFinish, hb, hl, hend, hans, hcmds, hsent, htag]

/-- The record of a block a fault of which was answered with FAIL is told of and not written (R184, R438). -/
theorem RecordDue.finishes_of_lost (h : RecordDue s b l) (htag : l.exitrec.tag = true) (hlost : b.lost ≠ []) :
    exec .blockFinish s = .next ((s.unwritten b l cFatal 3).finishBlock b) := by
  obtain ⟨⟨hb, hl, hend, hans⟩, hcmds, hsent⟩ := h
  show execBlockFinish s = _
  simp [execBlockFinish, hb, hl, hend, hans, hcmds, hsent, htag, hlost]

/-- A record whose place the access grants is written there (R184). -/
theorem RecordDue.writes_record (h : RecordDue s b l) (htag : l.exitrec.tag = true) (hlost : b.lost = []) {t : State}
    {ps : List Piece} (hacc : s.access b l.exitrec (l.exitrec.cursor + 256 * b.blk : Nat) 256 1 opStore = (t, .ok ps)) :
    let u := t.writePieces none ps (b.exitRecord l.paged (!b.threads.isEmpty))
    exec .blockFinish s = .next (u.endRecorded b (u.sentSince t)) := by
  obtain ⟨⟨hb, hl, hend, hans⟩, hcmds, hsent⟩ := h
  show execBlockFinish s = _
  simp only [execBlockFinish, hb, hl, hend, hans, hcmds, hsent, htag, hlost, hacc, ne_eq, not_true_eq_false, or_self, if_false,
    Bool.true_eq_false]

end

theorem State.endRecorded_of_unsent (s : State) (b : Block) {sent : List Nat} (hsent : sent = []) :
    s.endRecorded b sent = s.finishBlock b := by
  subst hsent
  rfl

theorem State.endRecorded_of_sent (s : State) (b : Block) {sent : List Nat} {id : Nat} {ids : List Nat} (hsent : sent = id :: ids) :
    s.endRecorded b sent = (if b.st = .resident then s.vacate b else s).updBlock b.uid fun b => { b with recSent := id :: ids } := by
  subst hsent
  rfl

/-! #### The end of a wait -/

/-- A gang that has nothing left to save and waits for something returns once all that it waits for is met (R233). -/
theorem exec_waitConditionMet_of_met {s : State} {b : Block} {bs : List Block} (hb : s.block? s.sched.args.id = some b)
    (hst : b.st = .saved) (hbs : bs = (s.gangOf b).filter fun k => k.st == .saved) (hsave : ∀ k ∈ bs, k.save = none)
    (hwaits : ∃ k ∈ bs, k.waits ≠ []) (hmet : ∀ k ∈ bs, ∀ c ∈ k.waits, s.met c = true) :
    exec .waitConditionMet s =
      .next (bs.foldl (fun s k => (s.updBlock k.uid fun k => { k with waits := [] }).toPending k.uid) s) := by
  have hsaving : (bs.any fun k => k.save.isSome) = false := List.any_eq_false.2 fun k hk => by simp [hsave k hk]
  have hidle : (bs.all fun k => k.waits.isEmpty) = false := by
    obtain ⟨k, hk, hw⟩ := hwaits
    exact List.all_eq_false.2 ⟨k, hk, by simpa using hw⟩
  have hall : (bs.all fun k => k.waits.all s.met) = true := List.all_eq_true.2 fun k hk => List.all_eq_true.2 (hmet k hk)
  show execWaitConditionMet s = _
  simp only [execWaitConditionMet, hb, hst, ← hbs, hsaving, hidle, hall]
  rfl

/-! #### The end of a save -/

/-- What BLOCK_SAVE needs before it looks for what each thread saves: every thread of the block is held, and its gang has performed
its effects and commands (R215, R216). -/
structure HeldSave (s : State) (b : Block) (c : Ctx) (why : SaveFor) : Prop where
  block : s.block? s.sched.args.id = some b
  save : b.save = some why
  ctx : s.ctx? b.ctx = some c
  keeps : why.keeps = true
  resident : b.st = .resident
  held : b.held = true
  running : b.ended = false
  answered : b.exitWait = []
  quiet : ∀ k ∈ s.gangOf b, s.quiet k = true

/-- Every thread has a set to save: no place is missing, no fault is met, and none must wait or run on (R203, R207). -/
structure SaveSets.Complete (q : SaveSets) : Prop where
  placed : q.noMem = none
  faultless : q.faults = []
  ready : q.waiting = false
  stopped : q.running = []

/-- A save with every set, slots for its record, and room in them writes the record, and its block is SAVED (R217). -/
theorem HeldSave.writes_record {s t u v : State} {b : Block} {c : Ctx} {why : SaveFor} {sets : SaveSets} {slots : List Nat}
    (h : HeldSave s b c why) (hsets : s.savedSets b b.threads = (t, sets)) (hall : sets.Complete)
    (hslots : t.popSlots c (((t.blockRecord b why sets.sets).1.length + c.room - 1) / c.room) = some (u, slots))
    (hwrite : u.writeSlots c c.room slots (t.blockRecord b why sets.sets).1 = some v) :
    exec .blockSave s = .next ((((v.dropClaims b.uid).updBlock b.uid fun b => b.afterSave why slots (s.rrMode b.ctx != 0)).updCtx b.ctx
      fun c => { c with saved := c.saved + 1 }).gangSaved b.uid) := by
  obtain ⟨hb, hsave, hc, hkeeps, hst, hheld, hrun, hans, hquiet⟩ := h
  obtain ⟨hmem, hfaults, hwait, hon⟩ := hall
  have hgang : ((s.gangOf b).all fun k => s.quiet k) = true := List.all_eq_true.2 hquiet
  show execBlockSave s = _
  simp [execBlockSave, hb, hsave, hc, hkeeps, hst, hheld, hrun, hans, hgang, hsets, hmem, hfaults, hwait, hon, hslots, hwrite]

/-! #### The pinned wait limit -/

theorem stopsBefore_iff (p q : Block × Thread) : stopsBefore p q = true ↔ p.1.saveSince < q.1.saveSince
    ∨ p.1.saveSince = q.1.saveSince ∧ (p.1.core < q.1.core ∨ p.1.core = q.1.core ∧ p.2.tid < q.2.tid) := by
  simp [stopsBefore]

/-- No wait comes before the first one. -/
theorem not_stopsBefore_of_first {q r : Block × Thread} (h : r = q ∨ stopsBefore q r = true) : ¬ stopsBefore r q = true := by
  simp only [stopsBefore_iff] at *
  rcases h with rfl | h <;> omega

/-- A wait that comes before every other one is the one that the search for the first ends with (R252). -/
theorem foldl_stopsBefore_eq {q : Block × Thread} (rs : List (Block × Thread)) (m : Block × Thread)
    (hfirst : ∀ r ∈ m :: rs, r = q ∨ stopsBefore q r = true) (hq : q ∈ m :: rs) :
    rs.foldl (fun m r => if stopsBefore r m then r else m) m = q := by
  induction rs generalizing m with
  | nil => exact (List.mem_singleton.1 hq).symm
  | cons r rs ih =>
    obtain ⟨hm, hr, hrs⟩ : (m = q ∨ stopsBefore q m = true) ∧ (r = q ∨ stopsBefore q r = true)
      ∧ ∀ x ∈ rs, x = q ∨ stopsBefore q x = true := by simpa using hfirst
    rw [List.foldl_cons]
    split
    · next hlt =>
      have hne : q ≠ m := by rintro rfl; exact not_stopsBefore_of_first hr hlt
      exact ih r (List.forall_mem_cons.2 ⟨hr, hrs⟩) ((List.mem_cons.1 hq).resolve_left hne)
    · next hge =>
      refine ih m (List.forall_mem_cons.2 ⟨hm, hrs⟩) ?_
      rcases List.mem_cons.1 hq with rfl | hq
      · exact List.mem_cons_self
      · rcases List.mem_cons.1 hq with rfl | hq
        · exact (hm.resolve_right hge) ▸ List.mem_cons_self
        · exact List.mem_cons_of_mem _ hq

/-- A block whose save has waited beyond the limit stops its context, in the name of the first wait of the context (R212, R252). -/
theorem exec_pinnedWaitLimit_of_first {s : State} {b : Block} {c : Ctx} {p q : Block × Thread}
    (hb : s.block? s.sched.args.id = some b) (hc : s.ctx? b.ctx = some c) (hp : p ∈ s.waitedOut c) (hpb : p.1.uid = b.uid)
    (hq : q ∈ s.waitedOut c) (hfirst : ∀ r ∈ s.waitedOut c, r = q ∨ stopsBefore q r = true) :
    exec .pinnedWaitLimit s = .next (s.stopContext b.ctx
      { cause := 0x10, core := q.1.core, tid := q.2.tid, pc := pc48 q.2.pc, blk := q.1.blk }) := by
  show execPinnedWaitLimit s = _
  simp only [execPinnedWaitLimit, hb, hc]
  cases hown : (s.waitedOut c).filter fun p => p.1.uid == b.uid with
  | nil => exact absurd hpb (by simpa using List.filter_eq_nil_iff.1 hown p hp)
  | cons o os =>
    have ho : o ∈ s.waitedOut c := List.mem_of_mem_filter (hown ▸ List.mem_cons_self)
    have hfold : (s.waitedOut c).foldl (fun m r => if stopsBefore r m then r else m) o = q :=
      foldl_stopsBefore_eq _ o (List.forall_mem_cons.2 ⟨hfirst o ho, hfirst⟩) (List.mem_cons_of_mem _ hq)
    simp only [hfold]

/-! #### The end of a pre-emption -/

/-- A PREEMPT whose blocks are all saved, or have ended with what a save waits for performed, is finished (R250). -/
theorem exec_preemptComplete_of_saved {s : State} {c : Ctx} {i : Nat} {is : List Nat} (hc : s.ctx? s.sched.args.id = some c)
    (hpre : c.preempts = i :: is)
    (hblocks : ∀ b ∈ s.blocks, b.ctx = c.n → b.st ≠ .clearing ∧ (b.st = .resident → b.ended = true ∧ s.quiet b = true)) :
    exec .preemptComplete s = (s.updCtx c.n fun c => { c with preempts := is, saved := 0 }).finishCommand i 5 0 c.saved := by
  have hnone : (s.blocks.any fun b => b.ctx == c.n && ((b.st == .resident && !(b.ended && s.quiet b)) || b.st == .clearing)) = false := by
    rw [List.any_eq_false]
    intro b hb
    by_cases hn : b.ctx = c.n
    · obtain ⟨hclear, hres⟩ := hblocks b hb hn
      by_cases hst : b.st = .resident
      · obtain ⟨hend, hq⟩ := hres hst
        simp [hst, hend, hq]
      · simp [hst, hclear]
    · simp [hn]
  show execPreemptComplete s = _
  simp only [execPreemptComplete, hc, hpre, hnone, Bool.false_eq_true, if_false]

/-- Settles O37: BLOCK_FINISH for each way that an ended block goes, then the ends of a wait, of a save, of a save that waits too
long, and of a pre-emption. -/
theorem endsAndSaves : Obligations.EndsAndSaves := by
  refine ⟨?_, ?_, ?_, ?_, ?_, ?_, ?_, ?_, ?_⟩
  · intro s b l hb hl hend hans hcmds hsent htag
    exact RecordDue.finishes_of_untagged ⟨⟨hb, hl, hend, hans⟩, hcmds, hsent⟩ htag
  · intro s b l hb hl hend hans hcmds hvac hst
    exact EndedBlock.vacates ⟨hb, hl, hend, hans⟩ hcmds hvac hst
  · intro s b l hb hl hend hans hcmds hsent htag hlost
    exact RecordDue.finishes_of_lost ⟨⟨hb, hl, hend, hans⟩, hcmds, hsent⟩ htag hlost
  · intro s t b l ps hb hl hend hans hcmds hsent hlost htag hacc u
    have hexec := RecordDue.writes_record ⟨⟨hb, hl, hend, hans⟩, hcmds, hsent⟩ htag hlost hacc
    exact ⟨fun hnone => hexec.trans (congrArg Host.Outcome.next (u.endRecorded_of_unsent b hnone)),
      fun id ids hids => hexec.trans (congrArg Host.Outcome.next (u.endRecorded_of_sent b hids))⟩
  · intro s b l hb hl hend hans hcmds hsent hperf
    exact EndedBlock.finishes_of_performed ⟨hb, hl, hend, hans⟩ hcmds hsent hperf
  · intro s b hb hst bs hsave hwaits hmet
    exact exec_waitConditionMet_of_met hb hst rfl hsave hwaits hmet
  · intro s t u v b c why sets slots hb hsave hc hkeeps hst hheld hrun hans hquiet hsets hmem hfaults hwait hon record hslots hwrite
    exact HeldSave.writes_record ⟨hb, hsave, hc, hkeeps, hst, hheld, hrun, hans, hquiet⟩ hsets ⟨hmem, hfaults, hwait, hon⟩ hslots hwrite
  · intro s b c p q hb hc hp hpb hq hfirst
    exact exec_pinnedWaitLimit_of_first hb hc hp hpb hq hfirst
  · intro s c i is hc hpre hblocks t hroom
    exact (exec_preemptComplete_of_saved hc hpre hblocks).trans (State.finishCommand_of_room hroom 5 0 c.saved)

end Sys2Proof.Machine

/-! ### Prefetch, cache control, watches and fences (R100, R156, R158, R358 to R362) -/

namespace Sys2Proof.Machine

open Sys2Proof

/-! #### Prefetch -/

theorem execPrefetch_memoryWord (w : MemW) : MemoryWord (.prefetch w) (w.form 0x39 (w.width != 0) true [] []) false
    (fun _ => opLoad) (throughCap w 1) fun _ _ ps => { acts := (ps.filter Piece.cached).map fun p => .fill w.scope p.line } :=
  memoryWord_of _ (fun _ => rfl) fun s s1 b act x ps hacc => by
    simp only [throughCap] at hacc
    simp only [hacc]

/-- A `prefetch` whose accesses all fail, and wait for nothing, does nothing (R359). -/
theorem exec_prefetch_of_failing {w : MemW} {s : State} {g : Group} {b : Block} (hc : s.current = some (g, b))
    (hu : Unhindered s b [w.form 0x39 (w.width != 0) true [] []] false 1 (actives w.guard g b))
    (hp : Passes [w.form 0x39 (w.width != 0) true [] []] (actives w.guard g b))
    (hfail : ∀ x ∈ actives w.guard g b, (∀ ps, (s.access b (x.creg w.cap) (MemW.offset w x true) 1 1 opLoad).2 ≠ .ok ps)
      ∧ (s.access b (x.creg w.cap) (MemW.offset w x true) 1 1 opLoad).2 ≠ .wait) :
    exec (.prefetch w) s = .next (s.wordDone g b (each (actives w.guard g b) fun _ => {})) := by
  show execPrefetch w s = _
  refine laneWord_register (e := fun _ => {}) hc hu hp (fun x hx => ?_) fun _ => ⟨rfl, rfl, rfl⟩
  obtain ⟨hok, hwait⟩ := hfail x hx
  split
  case h_1 s' ps hacc => exact absurd (congrArg Prod.snd hacc) (hok ps)
  case h_2 s' hacc => exact absurd (congrArg Prod.snd hacc) hwait
  case h_3 => rfl

/-! #### Cache control -/

/-- Lanes that read memory one after another, where a lane passes with the pieces that its access finds. -/
theorem lanesPass_access_of_found {op : Thread → AccOp} {at1 : Thread → CapReg × Int × Nat × Nat} {b : Block} {act : List Thread}
    {e : Thread → State → List Piece → Eff} {lane : LaneFn} :
    ∀ {xs : List Thread} {s s' : State} {qs : List (Thread × State × List Piece)},
      (∀ q ∈ qs, ∀ t, t.access b (at1 q.1).1 (at1 q.1).2.1 (at1 q.1).2.2.1 (at1 q.1).2.2.2 (op q.1) = (q.2.1, .ok q.2.2) →
        lane t b act q.1 = (q.2.1, .ok (e q.1 q.2.1 q.2.2))) →
      accessesPass op at1 b xs s = some (s', qs) → lanesPass lane b act xs s = some (s', withPieces qs e)
  | [], s, s', qs, _, h => by
    obtain ⟨rfl, rfl⟩ : s = s' ∧ [] = qs := by simpa [accessesPass] using h
    rfl
  | x :: xs, s, s', qs, hl, h => by
    simp only [accessesPass] at h
    split at h
    · next s1 ps hacc =>
      obtain ⟨⟨s2, qs'⟩, hrest, heq⟩ := Option.map_eq_some_iff.1 h
      obtain ⟨rfl, rfl⟩ := Prod.mk.inj heq
      have ih := lanesPass_access_of_found (fun q hq => hl q (List.mem_cons_of_mem _ hq)) hrest
      simp only [lanesPass, hl _ List.mem_cons_self s hacc, ih]
      rfl
    · cases h

/-- What a `cachectl` does with the pieces of its access: it acts on every present copy of their lines (R360). -/
def cacheEffect (k : Nat) (t : State) (ps : List Piece) : Eff :=
  { acts := if (ps.flatMap fun p => t.copies p).isEmpty then [] else [.cache k (ps.flatMap fun p => t.copies p)] }

theorem cacheWord_of_performed {k : Nat} {w : MemW} {s s' : State} {g : Group} {b : Block} {qs : List (Thread × State × List Piece)}
    (hc : s.current = some (g, b)) (hu : Unhindered s b [w.form 0x3A (w.width != 0) true [] []] true 1 (actives w.guard g b))
    (hp : Passes [w.form 0x3A (w.width != 0) true [] []] (actives w.guard g b))
    (hacc : accessesPass (fun _ => opCachectl) (throughCap w 1) b (actives w.guard g b) s = some (s', qs))
    (hstores : ∀ q ∈ qs, q.2.1.storesTo b.uid q.1.tid (q.2.2.flatMap fun p => q.2.1.copies p) = false)
    (hroom : RoomFor s' g b (withPieces qs fun _ => cacheEffect k)) :
    cacheWord k w s = .next (s'.wordDone g b (withPieces qs fun _ => cacheEffect k)) := by
  refine laneWord_done hc hu hp (lanesPass_access_of_found (fun q hq t hq1 => ?_) hacc) hroom
  simp only [throughCap] at hq1
  simp only [hq1, hstores q hq, Bool.false_eq_true, if_false]
  rfl

/-! #### Watches -/

/-- The lane of a `mon` of memory: it arms a watch on the place that its access finds (R361). -/
def monLane (w : Plain) : LaneFn := fun s b _ x =>
  let r := s.access b (x.creg w.a) ((x.creg w.a).cursor + (x.vreg w.b).val.toInt) 1 1 opLoad
  (r.1, r.2.map fun ps => { acts := (ps.take 1).map fun p => .watch none (watchPlace p) })

theorem exec_mon_of_memory {w : Plain} (h : w.opx = 0) (s : State) : exec (.mon w) s =
    laneWord [{ guard := w.guard, regs := (w.view 0xE4).regs, srcs := [srcWord 1 w.b], caps := [w.a] }] true 1 (monLane w) s := by
  show execMon w s = _
  simp only [execMon, if_pos h]
  rfl

/-- A `mon` of an address of scratch: one that is out of range disarms the watch (R361). -/
def scratchWatch (q : Thread → Option Piece) (x : Thread) : Eff := match q x with
  | some p => { acts := [.watch p.scratch p.addr] }
  | none => { off := true, acts := [.unwatch] }

theorem exec_mon_of_scratch {w : Plain} (h : w.opx ≠ 0) {s : State} {g : Group} {b : Block} {q : Thread → Option Piece}
    (hc : s.current = some (g, b))
    (hu : Unhindered s b [{ guard := w.guard, regs := (w.view 0xE4).regs, srcs := [srcWord 1 w.b] }] true 1 (actives w.guard g b))
    (hp : Passes [{ guard := w.guard, regs := (w.view 0xE4).regs, srcs := [srcWord 1 w.b] }] (actives w.guard g b))
    (hq : ∀ x ∈ actives w.guard g b, s.scratchAccess b ((x.vreg w.b).val.toNat : Nat) 4 4 = .ok (q x))
    (hroom : RoomFor s g b (each (actives w.guard g b) (scratchWatch q))) :
    exec (.mon w) s = .next (s.wordDone g b (each (actives w.guard g b) (scratchWatch q))) := by
  show execMon w s = _
  simp only [execMon, if_neg h]
  refine laneWord_done hc hu hp (lanesPass_pure fun x hx => ?_) hroom
  simp only [hq x hx, LaneRes.map]
  rfl

/-! #### Fences -/

/-- What a fence makes its core's later loads miss, by the field that selects `all` (R70, R100, R358). -/
theorem State.missAfter_of_field (s : State) (core : Nat) (scope : Scope) (n : Nat) : s.missAfter core scope (n != 0) =
    if scope = .block then s
    else if scope = .pool then
      let t := s.dropL1 core [1, 2] none
      { t with caches := { t.caches with rdc := t.caches.rdc.filter fun r => r.die != dieOf core } }
    else s.dropL1 core (if n = 0 then [1] else [1, 2]) none := by
  have hkinds : (if (n != 0) = true then [1, 2] else [1]) = if n = 0 then [1] else [1, 2] := by
    simp only [bne_iff_ne, ne_eq, ite_not]
  rw [missAfter, hkinds]

theorem fence_commitWord (w : MemW) : CommitWord (.fence w) (fun _ => w.form 0x38 false false [] []) (drainFence (w.size != 0))
    fun s _ b _ => s.missAfter b.core w.scope (w.size != 0) :=
  commitWord_of fun _ => rfl

/-- Settles O18, word by word. -/
theorem cachesAndWatches : Obligations.CachesAndWatches := by
  refine ⟨execPrefetch_memoryWord, ?_, ?_, ?_, ?_, ?_, ?_⟩
  · intro w s g b hc hu hp hfail
    exact exec_prefetch_of_failing hc hu hp hfail
  · intro w k i hi s s' g b qs hc hu hp hacc hstores oks hroom
    have hexec : exec i s = cacheWord k w s := by
      simp only [List.mem_cons, Prod.mk.injEq, List.not_mem_nil, or_false] at hi
      rcases hi with ⟨rfl, rfl⟩ | ⟨rfl, rfl⟩ | ⟨rfl, rfl⟩ <;> rfl
    exact hexec.trans (cacheWord_of_performed hc hu hp hacc hstores hroom)
  · intro w h
    exact memoryWord_of (monLane w) (exec_mon_of_memory h) fun s s1 b act x ps hacc => by
      simp only [monLane, hacc, LaneRes.map]
  · intro w h s g b q hc f hu hp hq oks hroom
    exact exec_mon_of_scratch h hc hu hp hq hroom
  · intro w
    simpa only [State.missAfter_of_field] using fence_commitWord w
  · intro w
    exact commitWord_of fun _ => rfl

end Sys2Proof.Machine

/-! ### Commands of the engines (R142, R375 to R380) -/

namespace Sys2Proof.Machine

open Sys2Proof

/-- Settles O19: each word is by definition `commandWord` of its form, its checks and its command, and `commandWord_of` says what
such a word does. -/
theorem engineCommands : Obligations.EngineCommands :=
  ⟨fun _ => commandWord_of fun _ => rfl, fun _ => commandWord_of fun _ => rfl, fun _ => commandWord_of fun _ => rfl,
    fun _ => commandWord_of fun _ => rfl, fun _ => commandWord_of fun _ => rfl, fun _ => commandWord_of fun _ => rfl⟩

end Sys2Proof.Machine

/-! ### `launch` (R142, R232, R404) -/

namespace Sys2Proof.Machine

open Sys2Proof

theorem isLeader_of_lowest {pre rest : List Thread} {x : Thread} (h : ∀ y ∈ pre ++ rest, x.tid < y.tid) :
    isLeader (pre ++ x :: rest) x = true := by
  simp only [isLeader, List.all_eq_true, decide_eq_true_eq, List.mem_append, List.mem_cons] at h ⊢
  rintro y (hy | rfl | hy)
  · exact (h y (.inl hy)).le
  · exact le_rfl
  · exact (h y (.inr hy)).le

theorem not_isLeader_of_higher {act : List Thread} {x y : Thread} (hx : x ∈ act) (h : x.tid < y.tid) : isLeader act y = false :=
  List.all_eq_false.2 ⟨x, hx, by simpa using h⟩

/-- The lanes of a word that only its leader performs: the others pass and do nothing (R142). -/
theorem lanesPass_leader {lane : LaneFn} {b : Block} {pre rest : List Thread} {x : Thread} {s s' : State} {e : Eff}
    (hlow : ∀ y ∈ pre ++ rest, x.tid < y.tid) (hlead : lane s b (pre ++ x :: rest) x = (s', .ok e))
    (hrest : ∀ t y, isLeader (pre ++ x :: rest) y = false → lane t b (pre ++ x :: rest) y = (t, .ok {})) :
    lanesPass lane b (pre ++ x :: rest) (pre ++ x :: rest) s = some (s', each pre (fun _ => {}) ++ (x, e) :: each rest fun _ => {}) := by
  have hothers : ∀ t, ∀ y ∈ pre ++ rest, lane t b (pre ++ x :: rest) y = (t, .ok {}) := fun t y hy =>
    hrest t y (not_isLeader_of_higher (by simp) (hlow y hy))
  refine lanesPass_append (lanesPass_rest fun y hy => hothers s y (List.mem_append_left _ hy)) ?_
  rw [lanesPass, hlead]
  simp only [lanesPass_rest fun y hy => hothers s' y (List.mem_append_right _ hy), Option.map_some]

/-- Where only the leader's checks count, those of the leader alone have to pass (R142). -/
theorem screened_of_leader {f : Form} {pre rest : List Thread} {x : Thread} (hf : f.leader = true)
    (hlow : ∀ y ∈ pre ++ rest, x.tid < y.tid) (hx : checkAll x [f] = none) :
    ∀ y ∈ pre ++ x :: rest, Screened [f] (pre ++ x :: rest) y := by
  have hothers : ∀ y ∈ pre ++ rest, Screened [f] (pre ++ x :: rest) y := fun y hy => by
    simp [Screened, hf, not_isLeader_of_higher (by simp : x ∈ pre ++ x :: rest) (hlow y hy)]
  intro y hy
  rcases List.mem_append.1 hy with hpre | htail
  · exact hothers y (List.mem_append_left _ hpre)
  · rcases List.mem_cons.1 htail with rfl | hrest
    · exact .of_check hx
    · exact hothers y (List.mem_append_right _ hrest)

theorem noPeer_ok_of_local {obj : Nat} {ps : List Piece} (h : ∀ p ∈ ps, p.peer = none) : noPeer obj (.ok ps) = .ok ps := by
  have hany : (ps.any fun p => p.peer.isSome) = false := List.any_eq_false.2 fun p hp => by simp [h p hp]
  simp only [noPeer, hany, Bool.false_eq_true, if_false]

/-- What the leader of a `launch` keeps of its record until the word is performed: the slot, the dwords and the tags (R404). -/
def keptRecord (slot : Nat) (e : Entry) : Eff := { kept := { nums := slot :: e.dwords ++ e.tags.map bit } }

/-- The leader of a `launch` keeps the record that its capability names, where neither the record nor the ring is refused. -/
theorem launchLane_of_leader {w : Plain} {s s' : State} {b : Block} {act : List Thread} {x : Thread} {ps : List Piece}
    (hlead : isLeader act x = true) (hacc : s.access b (x.creg w.a) ((x.creg w.a).cursor : Nat) 256 16 opLoad = (s', .ok ps))
    (hlocal : ∀ p ∈ ps, p.peer = none) {e : Entry} (he : e = s'.readRecord b x (x.creg w.a) ps)
    (hrecord : s'.refusal { id := 0, ctx := b.ctx, slot := numOf x w.b, prio := 0, record := e.dwords, tags := e.tags } = none)
    (hring : s'.badRing b.ctx (numOf x w.b) = none) :
    launchLane w s b act x = (s', .ok (keptRecord (numOf x w.b) e)) := by
  subst he
  simp only [launchLane, hlead, hacc, noPeer_ok_of_local hlocal, hrecord, hring, Bool.true_eq_false, if_false, keptRecord]

/-- The record that a launch queues is read back from what a thread keeps. -/
def recordOf (nums : List Nat) : Entry := { dwords := (nums.drop 1).take 32, tags := (nums.drop 33).map fun t => t == 1 }

theorem recordOf_kept {slot : Nat} {e : Entry} (h : e.dwords.length = 32) :
    recordOf (slot :: e.dwords ++ e.tags.map bit) = e := by
  have hdwords : ((slot :: e.dwords ++ e.tags.map bit).drop 1).take 32 = e.dwords := by
    rw [List.cons_append, List.drop_one, List.tail_cons, ← h, List.take_left']; rfl
  have htags : (slot :: e.dwords ++ e.tags.map bit).drop 33 = e.tags.map bit := by
    rw [show 33 = (slot :: e.dwords).length by simp [h], List.drop_left']; rfl
  simp only [recordOf, hdwords, htags, List.map_map, Function.comp_def, bit_beq, List.map_id']

/-- What the threads of a `launch` do before the commit: the leader keeps its record, and the others do nothing. -/
def launchEffects (pre rest : List Thread) (x : Thread) (slot : Nat) (e : Entry) : List (Thread × Eff) :=
  each pre (fun _ => {}) ++ (x, keptRecord slot e) :: each rest fun _ => {}

section

variable (pre rest : List Thread) (x : Thread) (slot : Nat) (e : Entry)

theorem launchEffects_ne_nil : launchEffects pre rest x slot e ≠ [] := by simp [launchEffects]

theorem launchEffects_req : ∀ o ∈ launchEffects pre rest x slot e, o.2.req = none := by
  simp only [launchEffects, each, keptRecord, List.mem_append, List.mem_cons, List.mem_map]
  rintro o (⟨y, -, rfl⟩ | rfl | ⟨y, -, rfl⟩) <;> rfl

/-- After the commit too the leader is the one thread that keeps a record. -/
theorem find?_kept_standing_launchEffects (b2 : Block) :
    (standing b2 (launchEffects pre rest x slot e)).find? (fun o => !(o.2.kept.nums.isEmpty))
      = some ((b2.thread? x.tid).getD x, keptRecord slot e) := by
  have hpre : (standing b2 (each pre fun _ => {})).find? (fun o => !(o.2.kept.nums.isEmpty)) = none := by
    simp [standing, each, List.find?_eq_none]
  have hcons : standing b2 (launchEffects pre rest x slot e) = standing b2 (each pre fun _ => {})
      ++ ((b2.thread? x.tid).getD x, keptRecord slot e) :: standing b2 (each rest fun _ => {}) := by
    simp [standing, launchEffects]
  rw [hcons, List.find?_append, hpre]
  rfl

end

/-- The performance of a `launch`: the ring takes the record that was kept, and every thread is told (R232, R404). -/
def launchPerform (w : Plain) (s : State) (b : Block) (oks : List (Thread × Eff)) : State :=
  let r : State × Bool := match oks.find? fun o => !(o.2.kept.nums.isEmpty) with
    | some o => s.queueLaunch b.ctx (o.2.kept.nums.headD 0) (recordOf o.2.kept.nums)
    | none => (s, false)
  oks.foldl (fun s o => s.updThread b.uid o.1.tid fun y => y.setP w.d r.2) r.1

theorem launchPerform_of_kept {w : Plain} {s : State} {b : Block} {oks : List (Thread × Eff)} {x : Thread} {slot : Nat} {e : Entry}
    (hfind : oks.find? (fun o => !(o.2.kept.nums.isEmpty)) = some (x, keptRecord slot e)) (hlen : e.dwords.length = 32) :
    launchPerform w s b oks = oks.foldl (fun u o => u.updThread b.uid o.1.tid fun y =>
      y.setP w.d (s.queueLaunch b.ctx slot e).2) (s.queueLaunch b.ctx slot e).1 := by
  simp only [launchPerform, hfind, keptRecord, recordOf_kept hlen]
  rfl

/-- The form of a `launch`: the checks of the leader count alone (R142, R404). -/
def launchForm (w : Plain) : Form :=
  { guard := w.guard, regs := (w.view 0xE8).regs, srcs := [srcWord 1 w.b], caps := [w.a], leader := true,
    values := fun x => if numOf x w.b ≥ 64 then [rangeViol 3] else [] }

theorem exec_launch_eq_commitWord (w : Plain) (s : State) : exec (.launch w) s =
    commitWord [launchForm w] drainAll (launchLane w) (performThen fun s _ b oks => launchPerform w s b oks) s := rfl

/-- Settles O24: the leader's lane keeps the record, which the performance gives to the ring. -/
theorem launchWord : Obligations.LaunchWord := by
  intro w s s' g b b2 x pre rest ps hc hmay hact hlow hchecks hacc hlocal e hrecord hring hlen oks t hdrained hb2 r
  obtain ⟨hmid, hout, hglitch, -⟩ := hmay
  have hoks : oks = launchEffects pre rest x (numOf x w.b) e := rfl
  have hlead : launchLane w s b (pre ++ x :: rest) x = (s', .ok (keptRecord (numOf x w.b) e)) :=
    launchLane_of_leader (isLeader_of_lowest hlow) hacc hlocal rfl hrecord hring
  have hform : actives (launchForm w).guard g b = pre ++ x :: rest := hact
  have hscreened : ∀ y ∈ actives (launchForm w).guard g b, Screened [launchForm w] (actives (launchForm w).guard g b) y := by
    rw [hform]
    exact screened_of_leader rfl hlow hchecks
  have hlanes : lanesPass (launchLane w) b (actives (launchForm w).guard g b) (actives (launchForm w).guard g b) s = some (s', oks) := by
    rw [hform]
    exact lanesPass_leader hlow hlead fun t y hy => if_pos hy
  have hreq : ∀ o ∈ oks, o.2.req = none := hoks ▸ launchEffects_req pre rest x (numOf x w.b) e
  have hne : oks ≠ [] := hoks ▸ launchEffects_ne_nil pre rest x (numOf x w.b) e
  have hfind := find?_kept_standing_launchEffects pre rest x (numOf x w.b) e b2
  rw [exec_launch_eq_commitWord, commitWord_done hc hmid hout hglitch hscreened hlanes hne hdrained hb2 (.inl ⟨hreq, rfl⟩)]
  exact congrArg (fun u : State => Host.Outcome.next (u.afterCommits g b2 (g.issuers b) (standing b2 oks)))
    (launchPerform_of_kept hfind hlen)

end Sys2Proof.Machine

/-! ### Sleepers, aged bins, traps that wait and fault records (R51, R157, R158, R179, R247) -/

namespace Sys2Proof.Machine

open Sys2Proof

theorem State.asleepIn_eq_some_iff {s : State} {uid tid : Nat} {x : Thread} :
    s.asleepIn uid tid = some x ↔ s.thread? uid tid = some x ∧ x.st = .asleep := by
  rw [asleepIn, Option.bind_eq_some_iff]
  refine ⟨fun ⟨y, hy, h⟩ => ?_, fun ⟨hx, h⟩ => ⟨x, hx, if_pos h⟩⟩
  obtain ⟨hst, heq⟩ := Option.ite_none_right_eq_some.1 h
  obtain rfl := Option.some.inj heq
  exact ⟨hy, hst⟩

theorem exec_watchTrigger_of_asleep {s : State} {x : Thread} (hx : s.asleepIn s.sched.args.id s.sched.args.tid = some x)
    (hwake : x.watch.any Watch.triggered = true ∨ s.sched.args.alt = true ∧ x.watch.any Watch.hasEntry = true) :
    exec .watchTrigger s = .next (s.wakeThread s.sched.args.id s.sched.args.tid) := by
  show execWatchTrigger s = _
  simp only [execWatchTrigger, hx]
  split
  case isTrue => rfl
  case isFalse hnot => exact if_pos (hwake.resolve_left hnot)

theorem exec_mwaitTimeout_of_asleep {s : State} {x : Thread} (hx : s.asleepIn s.sched.args.id s.sched.args.tid = some x)
    (hlate : x.sleptAt + (if x.watch.any Watch.hasEntry then 2 ^ 20 else 1024) ≤ s.sched.now) :
    exec .mwaitTimeout s = .next (s.wakeThread s.sched.args.id s.sched.args.tid) := by
  show execMwaitTimeout s = _
  simp only [execMwaitTimeout, hx]
  exact if_neg (Nat.not_lt.2 hlate)

theorem exec_binAgedDraw_of_aged {s : State} {b : Bin}
    (hb : (s.bins.find? fun b => b.core == s.sched.args.id && b.part == s.sched.args.tid && b.idx == s.sched.args.sub) = some b)
    (hage : b.first + s.binAge b.blk ≤ s.sched.now) (hfree : s.heldBin b = false) : exec .binAgedDraw s = .next (s.draw b) := by
  show execBinAgedDraw s = _
  simp only [execBinAgedDraw, hb, if_neg (Nat.not_lt.2 hage), hfree, Bool.false_eq_true, if_false]

/-- A trap that waits is delivered where its handler finds a slot: the thread waits no longer then (R247). -/
theorem exec_trapDelivery_of_slot {s s1 : State} {x : Thread} {t : PendTrap}
    (hx : s.thread? s.sched.args.id s.sched.args.tid = some x) (hst : x.st = .trapWait) (hpend : x.pend = some t)
    (henter : s.enterHandler s.sched.args.id s.sched.args.tid t = s1)
    (hslot : ∀ y, s1.thread? s.sched.args.id s.sched.args.tid = some y → y.st ≠ .trapWait) :
    exec .trapDelivery s = .next s1 := by
  have hno : ((s1.thread? s.sched.args.id s.sched.args.tid).any fun y => y.st == .trapWait) = false :=
    (Option.any_eq_false_iff_get _ _).2 fun h => by simpa using hslot _ (Option.some_get h).symm
  show execTrapDelivery s = _
  simp only [execTrapDelivery, hx, hst, hpend, henter, hno, Bool.false_eq_true, if_false]

/-- The oldest record that waits goes to the place that the ring's PROD names, where the ring is not full: `d` is the descriptor
of the context, which holds PROD and CONS (R51, R426, R429). -/
theorem exec_faultRecordWrite_of_room {s : State} {c : Ctx} {r : FaultRec} {d prod size : Nat}
    (hc : s.ctx? s.sched.args.id = some c) (hr : (s.faults.find? fun r => r.ctx == s.sched.args.id && !r.written) = some r)
    (hd : s.ctxAt s.sched.args.id = d) (hprod : s.mem.read (d + 64) 8 = prod) (hsize : 2 ^ (c.frlog2 + 4) = size)
    (hdesc : s.hbmHas d 256 = true) (hroom : (prod + 2 ^ 64 - s.mem.read (d + 72) 8) % 2 ^ 64 < size)
    (hplace : s.hbmHas (c.frbase + 32 * (prod % size)) 32 = true) :
    let t := (s.devWrite (c.frbase + 32 * (prod % size)) r.bytes).devStore (d + 64) 8 ((prod + 1) % 2 ^ 64)
    exec .faultRecordWrite s = .next ({ t with faults := t.faults.map fun (q : FaultRec) =>
      if q.ctx = s.sched.args.id ∧ q.seq = r.seq then { q with written := true } else q }.postEvent 2 s.sched.args.id
        ((prod + 1) % 2 ^ 64)) := by
  show execFaultRecordWrite s = _
  simp only [execFaultRecordWrite, hc, hr, hd, hprod, hsize, hdesc, hplace, Nat.not_le.2 hroom, Bool.true_eq_false, if_false]

/-- Settles O33, event by event. -/
theorem sleepersBinsAndRecords : Obligations.SleepersBinsAndRecords := by
  refine ⟨?_, ?_, ?_, ?_, ?_⟩
  · intro s x hx hst hwake
    exact exec_watchTrigger_of_asleep (State.asleepIn_eq_some_iff.2 ⟨hx, hst⟩) hwake
  · intro s x hx hst hlate
    exact exec_mwaitTimeout_of_asleep (State.asleepIn_eq_some_iff.2 ⟨hx, hst⟩) hlate
  · intro s b hb hage hfree
    exact exec_binAgedDraw_of_aged hb hage hfree
  · intro s x t hx hst hpend s1 hslot
    exact exec_trapDelivery_of_slot hx hst hpend rfl hslot
  · intro s c r hc hr d prod size hdesc hroom hplace
    exact exec_faultRecordWrite_of_room hc hr rfl rfl rfl hdesc hroom hplace

end Sys2Proof.Machine

/-! ### Passes of the Press and their reservations (R160 to R169) -/

namespace Sys2Proof.Machine

open Sys2Proof

/-- A pass whose reservation has room for it, or that goes on to fail, is posted from its queue (R163). -/
theorem exec_passJoin_of_posted {s t : State} {c : Cmd}
    (hc : (s.engines.cmds.find? fun c => c.core == s.sched.args.id && c.kind == .ppass && !c.posted) = some c)
    (hstart : s.mayStart c = true) (hpost : s.postPass c = some t) :
    exec .passJoin s = .next (t.updCmd c.id fun c => { c with posted := true }) := by
  show execPassJoin s = _
  simp only [execPassJoin, hc, hstart, hpost, Bool.true_eq_false, if_false]

theorem exec_cpymPassPost_of_posted {s t : State} {c : Cmd} (hc : s.cmd? s.sched.args.id = some c) (hkind : c.kind = .cpym)
    (hdone : c.credited = true) (hwaits : c.posted = false) (hpost : s.postPass c = some t) :
    exec .cpymPassPost s = .next (t.updCmd c.id fun c => { c with posted := true }) := by
  show execCpymPassPost s = _
  simp only [execCpymPassPost, hc, hkind, hdone, hwaits, hpost, ne_eq, not_true_eq_false, Bool.true_eq_false,
    Bool.false_eq_true, or_self, if_false]

/-- The passes behind a granted one: the first of them is at the head of its list from now on (R162). -/
def passesBehind (now : Nat) : List Pass → List Pass
  | q :: qs => { q with headAt := now } :: qs
  | [] => []

theorem exec_pressGrant_of_head {s : State} {r : Resv} {p : Pass} {ps : List Pass}
    (hfence : bitAt s.rel.fencedPress s.sched.args.id = false) (hr : s.granting s.sched.args.id = some r) (hp : r.passes = p :: ps) :
    let t := s.updResv r fun q => { q with passes := passesBehind s.sched.now ps }
    exec .pressGrant s = .next { t with engines := { t.engines with granted := t.engines.granted ++ [s.readPass p] } } := by
  show execPressGrant s = _
  simp only [execPressGrant, hfence, hr, hp, Bool.false_eq_true, if_false]
  cases ps <;> rfl

section

variable {s : State} {p : Pass} (hp : (s.engines.granted.find? fun p => quadOf p.core == s.sched.args.id) = some p)
  (hpower : s.diePowered (dieOf (4 * s.sched.args.id)) = true)
include hp hpower

theorem exec_passComplete_of_block {b : Block} (hb : s.block? p.blk = some b) (halt : s.sched.args.alt = false) :
    exec .passComplete s = .next (s.endPass p b) := by
  show execPassComplete s = _
  simp only [execPassComplete, hp, hpower, hb, halt, Bool.true_eq_false, if_true, if_false]

theorem exec_passComplete_of_no_block (hb : s.block? p.blk = none) : exec .passComplete s = .next (s.dropPass p) := by
  show execPassComplete s = _
  simp only [execPassComplete, hp, hpower, hb, Bool.true_eq_false, if_false]

end

/-- A marked reservation is freed once none of its holder's passes is pending, running or still to be posted (R161, R376). -/
theorem exec_reservationFree_of_idle {s : State} {r : Resv} {m : Nat}
    (hr : (s.engines.resv.find? fun r => r.quad == s.sched.args.id && r.idx == s.sched.args.tid) = some r)
    (hmark : r.marked = some m) (hpend : r.passes = []) (hpost : s.posting r.owner m = false)
    (hrun : (s.engines.granted.any fun p => !p.nores && (s.block? p.blk).any fun b => b.holder == r.owner) = false) :
    exec .reservationFree s = .next { s with engines := { s.engines with
      resv := s.engines.resv.filter fun q => !(q.quad == s.sched.args.id && q.idx == s.sched.args.tid) } } := by
  show execReservationFree s = _
  simp only [execReservationFree, hr, hmark, hpend, hpost, hrun, List.isEmpty_nil, Bool.not_true, Bool.or_self,
    Bool.false_eq_true, if_false]

/-- No pass of a holder runs where the block of each granted one with a reservation has another holder. -/
theorem State.no_pass_of_holder {s : State} {owner : Nat}
    (h : ∀ p ∈ s.engines.granted, p.nores = false → ∀ b, s.block? p.blk = some b → b.holder ≠ owner) :
    (s.engines.granted.any fun p => !p.nores && (s.block? p.blk).any fun b => b.holder == owner) = false := by
  rw [List.any_eq_false]
  intro p hp hrun
  simp only [Bool.and_eq_true, Bool.not_eq_true', Option.any_eq_true, beq_iff_eq] at hrun
  obtain ⟨hres, b, hb, howner⟩ := hrun
  exact h p hp hres b hb howner

/-- Settles O35, event by event. -/
theorem pressPasses : Obligations.PressPasses := by
  refine ⟨?_, ?_, ?_, ?_, ?_, ?_⟩
  · intro s t c hc hstart hpost
    exact exec_passJoin_of_posted hc hstart hpost
  · intro s t c hc hkind hdone hwaits hpost
    exact exec_cpymPassPost_of_posted hc hkind hdone hwaits hpost
  · intro s r p ps hfence hr hp
    have hexec := exec_pressGrant_of_head hfence hr hp
    cases ps with
    | nil => exact hexec
    | cons q qs => exact hexec
  · intro s p b hp hpower hb halt
    exact exec_passComplete_of_block hp hpower hb halt
  · intro s p hp hpower hb
    exact exec_passComplete_of_no_block hp hpower hb
  · intro s r m hr hmark hpend hpost hrun
    exact exec_reservationFree_of_idle hr hmark hpend hpost (State.no_pass_of_holder hrun)

end Sys2Proof.Machine

/-! ### Slots, placement and the start of a block (R70, R182 to R187, R220 to R227) -/

namespace Sys2Proof.Machine

open Sys2Proof

/-! #### The head of a slot -/

/-- Where the ring of a slot holds the command at its head (R220). -/
def Slot.headAt (q : Slot) : Nat := q.ring + 256 * (q.head % 2 ^ q.log2n)

/-- The launch that slot `i` reads at its head (R183). -/
def State.launchAtHead (s : State) (i : Nat) : Launch :=
  let q := s.queues.slots.getD i {}
  let e := s.readRing q.headAt
  { id := s.sched.nextId, ctx := q.ctx, slot := i, prio := q.prio, record := e.dwords, tags := e.tags }

/-- What SLOT_HEAD_CHECK needs before it judges a command: a bound slot that has taken none, and a command in its ring (R220). -/
structure HeadWaits (s : State) (q : Slot) : Prop where
  slot : s.queues.slots.getD s.sched.args.id {} = q
  bound : q.bound = true
  idle : q.launch = none
  filled : q.head ≠ q.tail
  held : s.hbmHas q.headAt 256 = true

section

variable {s : State} {q : Slot}

theorem HeadWaits.takes_launch (h : HeadWaits s q) (hok : s.refusal (s.launchAtHead s.sched.args.id) = none) :
    exec .slotHeadCheck s = .next (({ s.bump with launches := s.launches ++ [s.launchAtHead s.sched.args.id] } : State).updSlot
      s.sched.args.id fun q => { q with launch := some s.sched.nextId }) := by
  obtain ⟨rfl, hbound, hidle, hfilled, hheld⟩ := h
  simp only [State.launchAtHead, Slot.headAt] at hok hheld ⊢
  show execSlotHeadCheck s = _
  simp only [execSlotHeadCheck, hbound, hidle, hfilled, hheld, hok, Option.isSome_none, Bool.true_eq_false, Bool.false_eq_true,
    or_self, if_false]
  rfl

/-- A refused command is told of, and the slot moves on (R183, R438). -/
theorem HeadWaits.refuses_launch (h : HeadWaits s q) {why : Nat × Nat × Nat}
    (hno : s.refusal (s.launchAtHead s.sched.args.id) = some why) :
    exec .slotHeadCheck s = .next (s.refuseHead s.sched.args.id why) := by
  obtain ⟨rfl, hbound, hidle, hfilled, hheld⟩ := h
  simp only [State.launchAtHead, Slot.headAt] at hno hheld
  show execSlotHeadCheck s = _
  simp only [execSlotHeadCheck, hbound, hidle, hfilled, hheld, hno, Option.isSome_none, Bool.true_eq_false, Bool.false_eq_true,
    or_self, if_false]

end

/-! #### The end of WAITING, and placement -/

theorem exec_launchRelease_of_met {s : State} {l : Launch} (hl : s.launch? s.sched.args.id = some l) (hst : l.st = .waiting)
    (hmet : ∀ c ∈ l.deps, s.met c = true) : exec .launchRelease s = .next (s.release l.id) := by
  show execLaunchRelease s = _
  simp only [execLaunchRelease, hl, hst, List.all_eq_true.2 hmet, ne_eq, not_true_eq_false, if_false, if_true]

theorem exec_blockPlace_of_fits {s : State} {b : Block} {l : Launch} {places : List (Nat × Nat × Nat)}
    (hnext : s.nextPlaced = some (b, places)) (hl : s.launchOf b = some l) :
    exec .blockPlace s
      = .next (places.foldl (fun s p => (s.firstOn l p.2.1).updBlock p.1 fun k => k.placed l p.2.1 p.2.2) s) := by
  show execBlockPlace s = _
  simp only [execBlockPlace, hnext, hl]

/-- A candidate that has waited beyond the limit of its context: it fits nowhere, holds no place, and no block leaves a core for
it (R227). -/
structure Overdue (s : State) (b : Block) (c : Ctx) : Prop where
  block : s.block? s.sched.args.id = some b
  ctx : s.ctx? b.ctx = some c
  candidate : s.candidate b = true
  late : s.sched.now - b.pendSince > 2 ^ c.placewait
  homeless : s.placeFor b = none
  holdless : b.holds = none
  unawaited : s.leaving b = false

/-- The cores of a place that a candidate could use now. -/
abbrev State.usableAt (s : State) (b : Block) (n : Nat) : List Nat :=
  (coresAt (decide (b.gangSize > 1)) n).filter fun k => s.usable b k

/-- The places with a usable core for each member of a candidate's gang. -/
abbrev State.widePlaces (s : State) (b : Block) : List Nat :=
  (List.range (if b.gangSize > 1 then 256 else 1024)).filter fun n => (s.gangOf b).length ≤ (s.usableAt b n).length

section

variable {s : State} {b : Block} {c : Ctx}

/-- Where at most two moves make room nowhere, the place with the most free resources that no other candidate holds is held
(R227). -/
theorem Overdue.holds_place (h : Overdue s b c)
    (hquad : (s.couldHold b).isEmpty = true ∨ (s.couldHold b).all s.gatedQuad = false)
    (hmove : ((s.widePlaces b).findSome? fun n => (s.moving b (coresAt (decide (b.gangSize > 1)) n)).map fun r => (n, r)) = none)
    {n : Nat} (hbest : leastBy (fun n => 2 ^ 40 - (s.usableAt b n).foldl (fun m k => m + s.freeRatio b.ctx k) 0)
      ((s.widePlaces b).filter fun n => (coresAt (decide (b.gangSize > 1)) n).all fun k => !(s.heldFrom b k)) = some n) :
    exec .placementOverdue s = .next (s.hold b n) := by
  obtain ⟨hb, hc, hcand, hlate, hfit, hholds, hleave⟩ := h
  have hopen : (!(s.couldHold b).isEmpty && (s.couldHold b).all s.gatedQuad) = false := by
    rcases hquad with hq | hq <;> simp [hq]
  have hrange : (if decide (b.gangSize > 1) = true then 256 else 1024) = if b.gangSize > 1 then 256 else 1024 := by
    simp only [decide_eq_true_eq]
  show execPlacementOverdue s = _
  simp only [execPlacementOverdue, hb, hc, hcand, Nat.not_le.2 hlate, hfit, hholds, hleave, hopen, hrange, hmove, hbest,
    Option.isSome_none, Bool.true_eq_false, Bool.false_eq_true, or_self, if_false]

/-- Where every quad that could hold the candidate is gated, firmware is told once (R469). -/
theorem Overdue.tells_firmware (h : Overdue s b c) (hsome : (s.couldHold b).isEmpty = false)
    (hgated : (s.couldHold b).all s.gatedQuad = true) (huntold : b.overdue = false) :
    exec .placementOverdue s
      = .next ((s.updBlock b.uid fun k => { k with overdue := true }).postEvent 9 b.ctx ((s.couldHold b).headD 0)) := by
  obtain ⟨hb, hc, hcand, hlate, hfit, hholds, hleave⟩ := h
  show execPlacementOverdue s = _
  simp only [execPlacementOverdue, hb, hc, hcand, Nat.not_le.2 hlate, hfit, hholds, hleave, hsome, hgated, huntold,
    Option.isSome_none, Bool.true_eq_false, Bool.false_eq_true, Bool.not_false, Bool.and_self, or_self, if_true, if_false]

end

/-! #### The start of a block -/

/-- A block whose scratch is ready: its threads are halted where it is, its barriers are at their first phase, and it has no save
record (R64, R217). -/
def Block.ready (k : Block) : Block :=
  { k.updThreads (fun x => { x with halted := k.halt.isSome && x.st != .exited }) with
    halt := k.halt.map fun h => (h.1, false), bphase := 0, gphase := 0, slots := [] }

/-- What BLOCK_CLEARING_DONE leaves before the block starts: its record is read into it where it was saved, the record's slots are
free, its commands are those of its core, and a resumed block meets no earlier L1 line (R70, R217, R249). -/
def State.readied (s : State) (b : Block) (l : Launch) (c : Ctx) (bs : List Byte) : State :=
  ((b.slots.foldl (fun (s : State) slot => s.pushSlot c slot) (s.tick.updBlock b.uid fun k =>
    Block.ready (if b.slots.isEmpty then k else k.restored bs l.slots s.sched.fresh))).carry b).resumedOn b

theorem exec_blockClearingDone_of_ready {s t : State} {b : Block} {l : Launch} {c : Ctx} {bs : List Byte}
    (hb : s.block? s.sched.args.id = some b) (hl : s.launchOf b = some l) (hc : s.ctx? b.ctx = some c) (hst : b.st = .clearing)
    (hland : b.landed = true) (hsave : b.save = none) (htake : s.retake b = some t) (hread : t.readSlots c c.room b.slots = some bs)
    (hstart : (t.readied b l c bs).saveAtStart b = none) :
    exec .blockClearingDone s = .next ((t.readied b l c bs).startBlock b.uid) := by
  simp only [State.readied, Block.ready] at hstart ⊢
  show execBlockClearingDone s = _
  simp only [execBlockClearingDone, hb, hl, hc, hst, hland, hsave, htake, hread, hstart, Option.getD_some, Option.isSome_none,
    ne_eq, not_true_eq_false, Bool.true_eq_false, Bool.false_eq_true, or_self, if_false]

/-- Settles O36: the head of a slot, taken or refused, then release, placement, an overdue candidate, and the start of a block. -/
theorem launchingAndPlacement : Obligations.LaunchingAndPlacement := by
  refine ⟨?_, ?_, ?_, ?_, ?_, ?_⟩
  · intro s i q a hbound hidle hfilled hheld e l
    have hhead : HeadWaits s q := ⟨rfl, hbound, hidle, hfilled, hheld⟩
    refine ⟨fun hok => hhead.takes_launch hok, fun reason v right hno => ?_⟩
    rw [hhead.refuses_launch hno]
    rfl
  · intro s l hl hst hmet
    exact exec_launchRelease_of_met hl hst hmet
  · intro s b l places hnext hl
    exact exec_blockPlace_of_fits hnext hl
  · intro s b c n hb hc hcand hlate hfit hholds hleave hquad free places hmove hbest
    exact Overdue.holds_place ⟨hb, hc, hcand, hlate, hfit, hholds, hleave⟩ hquad hmove hbest
  · intro s b c hb hc hcand hlate hfit hholds hleave hsome hgated huntold
    exact Overdue.tells_firmware ⟨hb, hc, hcand, hlate, hfit, hholds, hleave⟩ hsome hgated huntold
  · intro s t b l c bs hb hl hc hst hland hsave htake hread ready u v hstart
    exact exec_blockClearingDone_of_ready hb hl hc hst hland hsave htake hread hstart

end Sys2Proof.Machine

/-! ### Kicks, ageing, events, feeds and the watchdog (R185 to R192, R383, R426, R431 to R440, R446) -/

namespace Sys2Proof.Machine

open Sys2Proof

/-! #### Kicks -/

/-- A kick stores the producer index in the QCB of its queue, and the queue counts as kicked (R430). -/
theorem State.kick_of_held {s : State} {q : Nat} (hheld : s.hbmHas (s.qcbAt q + 12) 4 = true) (v : Nat) :
    s.kick q v = .next ((s.devStore (s.qcbAt q + 12) 4 (v % 2 ^ 32)).noticeKick q) := by
  simp only [State.kick, hheld, Bool.true_eq_false, if_false]

theorem exec_notifyKick_of_open {s : State} (hid : s.sched.args.id < 4096) (hopen : s.link.gated = false) :
    exec .notifyKick s = s.kick s.sched.args.id s.sched.args.value := by
  show execNotifyKick s = _
  simp only [execNotifyKick, ge_iff_le, Nat.not_le.2 hid, hopen, Bool.false_eq_true, or_self, if_false]

theorem exec_catcherKick_of_page {s : State} (hid : s.sched.args.id < 4096) : exec .catcherKick s
    = .next { s with link := { s.link.catchKick s.sched.args.id (s.sched.args.value % 2 ^ 64) with gated := true } } := by
  show execCatcherKick s = _
  simp only [execCatcherKick, ge_iff_le, Nat.not_le.2 hid, if_false]

/-- The kicks that the catcher holds are kicked again; after an overflow, every queue is (R436). -/
theorem exec_catcherReplay_of_gated {s t : State} (hgated : s.link.gated = true)
    (hkicks : kickAll s.link.catcher { s with link := { s.link with gated := false, catcher := [] } } = .next t) :
    exec .catcherReplay s = .next (if s.link.ovf then (List.range 4096).foldl State.noticeKick t else t) := by
  show execCatcherReplay s = _
  simp only [execCatcherReplay, hgated, hkicks, Bool.true_eq_false, if_false]

theorem exec_pendingWrite_of_dword {s : State} (hid : s.sched.args.id < 64) :
    exec .pendingWrite s = .next (s.clearPending s.sched.args.id s.sched.args.value) := if_pos hid

/-! #### Ageing and events -/

/-- Idle slots are given up, the queues that wait age, and slots are filled and swapped (R432). -/
theorem exec_ageingInterval_of_running {s : State} (hrun : s.fw.running = true) :
    let v := (List.range 64).foldl (fun s j => if s.idleSlot j then s.evictSlot j else s) s
    let w := (v.queues.pending.filter fun q => decide (v.mapped q ≥ 64) && v.hbmHas (v.qcbAt q) 64).foldl (fun s q =>
      s.setEff q (if s.qcbEff q < 7 then s.qcbEff q + 1 else 7)) v
    exec .ageingInterval s
      = .next ((List.range 64).foldl (fun s _ => s.swapSlot) ((List.range 64).foldl State.fillSlot w)).ageSlots := by
  show execAgeingInterval s = _
  simp only [execAgeingInterval, hrun, Bool.true_eq_false, if_false]

/-- The number of records that the event ring holds (R437). -/
def HostLink.eventSlots (l : HostLink) : Nat := 2 ^ (l.evlog2 + 4)

/-- Where the next event is written. -/
def HostLink.eventPlace (l : HostLink) : Nat := l.evbase + 16 * (l.evprod % l.eventSlots)

/-- The 16 bytes of an event: its kind, its context, its sequence number and its argument (R437). -/
def HostLink.eventBytes (l : HostLink) (kind ctx arg : Nat) : List Byte :=
  natToBytes 8 (kind + ctx * 2 ^ 16 + l.evseq * 2 ^ 32) ++ natToBytes 8 arg

/-- The oldest event is written where the firmware runs and its ring has room. -/
theorem exec_eventRecordWrite_of_room {s : State} {kind ctx arg : Nat} {rest : List (Nat × Nat × Nat)}
    (hevents : s.link.events = (kind, ctx, arg) :: rest) (hrun : s.fw.running = true) (hring : s.link.evbase ≠ 0)
    (hroom : (s.link.evprod + 2 ^ 64 - s.link.evcons) % 2 ^ 64 < s.link.eventSlots) (hheld : s.memHas s.link.eventPlace 16 = true)
    (hup : s.poolDown s.link.eventPlace 16 = false) :
    let t := s.devWrite s.link.eventPlace (s.link.eventBytes kind ctx arg)
    exec .eventRecordWrite s = .next { t with link := { t.link with
      events := rest, evprod := (s.link.evprod + 1) % 2 ^ 64, evseq := (s.link.evseq + 1) % 2 ^ 32, msix := t.link.msix ++ [1] } } := by
  simp only [HostLink.eventPlace, HostLink.eventSlots, HostLink.eventBytes] at *
  show execEventRecordWrite s = _
  simp only [execEventRecordWrite, hevents, hrun, hring, ge_iff_le, Nat.not_le.2 hroom, hheld, hup, Bool.true_eq_false,
    Bool.false_eq_true, or_self, if_false]

/-! #### The residency table and feeds -/

/-- A field of the low m bits is that of the whole number. -/
theorem bits_mod_two_pow (x : Nat) {lo n m : Nat} (h : lo + n ≤ m) : bits (x % 2 ^ m) lo n = bits x lo n := by
  obtain ⟨k, rfl⟩ := Nat.exists_eq_add_of_le h
  have hfield : 2 ^ n ∣ 2 ^ (n + k) := Nat.pow_dvd_pow 2 (n.le_add_right k)
  rw [bits, bits, Nat.add_assoc, Nat.pow_add, Nat.mod_mul_right_div_self, Nat.mod_mod_of_dvd _ hfield]

/-- An entry is written where its STATE and its CASKLEN are legal; its reserved bits are not kept (R383). -/
theorem State.writeExres_of_dwords (s : State) {i : Nat} (hi : i < 65536) (d0 d1 : Nat) :
    s.writeExres i (d0 % 2 ^ 64) (d1 % 2 ^ 64) = if d0 % 8 < 5 ∧ bits d1 32 21 ≤ 2 ^ 20 then { s with tables := { s.tables with
      exres := setAt i (d0 % 2 ^ 64, d1 % 2 ^ 53) s.tables.exres } } else s := by
  have hstate : d0 % 2 ^ 64 % 8 = d0 % 8 := Nat.mod_mod_of_dvd d0 (by decide)
  have hkept : d1 % 2 ^ 64 % 2 ^ 53 = d1 % 2 ^ 53 := Nat.mod_mod_of_dvd d1 (by decide)
  simp only [State.writeExres, hi, hstate, hkept, bits_mod_two_pow d1 (show 32 + 21 ≤ 64 by decide), Nat.mod_mod, true_and]

theorem exec_exresWrite_of_entry {s : State} (hid : s.sched.args.id < 65536) : exec .exresWrite s
    = .next (s.writeExres s.sched.args.id (s.sched.args.data % 2 ^ 64) (s.sched.args.data / 2 ^ 64 % 2 ^ 64)) := if_pos hid

theorem exec_feedAppend_of_unlocked {s : State} (hid : s.sched.args.id < 4096)
    (hfree : s.appendWaits s.sched.args.id s.sched.args.value = false) :
    exec .feedAppend s = .next (s.append s.sched.args.id (s.sched.args.value % 2 ^ 64)) := by
  show execFeedAppend s = _
  simp only [execFeedAppend, ge_iff_le, Nat.not_le.2 hid, hfree, Bool.false_eq_true, if_false]

/-! #### The watchdog and the counters of errors -/

/-- A kick of the watchdog outside its window resets the firmware core (R440). -/
theorem State.writeWdkick_eq (s : State) (v : Nat) :
    let e := s.sched.now - s.fw.wdlast
    let t := { s with fw := { s.fw with wdkick := v, wdlast := s.sched.now } }
    s.writeWdkick v = if s.fw.running = true ∧ s.fw.wdmax ≠ 0 ∧ (e < clkPerUs * s.fw.wdmin ∨ e > clkPerUs * s.fw.wdmax)
      then t.resetFirmware else t := by
  simp only [State.writeWdkick, Bool.and_eq_true, Bool.or_eq_true, bne_iff_ne, decide_eq_true_eq, and_assoc]

theorem exec_watchdogTimeout_of_late {s : State} (hrun : s.fw.running = true) (hon : s.fw.wdmax ≠ 0)
    (hlate : s.sched.now - s.fw.wdlast > clkPerUs * s.fw.wdmax) : exec .watchdogTimeout s = .next s.resetFirmware := by
  have hover : (s.fw.running && s.fw.wdmax != 0 && decide (s.sched.now - s.fw.wdlast > clkPerUs * s.fw.wdmax)) = true := by
    simp only [hrun, bne_iff_ne.2 hon, decide_eq_true hlate, Bool.and_self]
  exact if_pos hover

theorem exec_cecountWrite_of_code {s : State} (hid : s.sched.args.id < 16) :
    exec .cecountWrite s = .next (s.writeCecount s.sched.args.id s.sched.args.value) := if_pos hid

/-- Settles O42, event by event. -/
theorem queuesAndFirmware : Obligations.QueuesAndFirmware := by
  refine ⟨?_, ?_, ?_, ?_, ?_, ?_, ?_, ?_, ?_, ?_, ?_, ?_, ?_, ?_, ?_⟩
  · intro s hid hopen hheld
    rw [exec_notifyKick_of_open hid hopen, State.kick_of_held hheld]
  · intro s hid
    exact exec_catcherKick_of_page hid
  · intro s t hgated hkicks
    exact exec_catcherReplay_of_gated hgated hkicks
  · intro s hid
    exact exec_pendingWrite_of_dword hid
  · intro s
    rfl
  · intro s hrun
    exact exec_ageingInterval_of_running hrun
  · intro s kind ctx arg rest hevents hrun hring hroom a hheld hup
    exact exec_eventRecordWrite_of_room hevents hrun hring hroom hheld hup
  · intro s hid
    rw [exec_exresWrite_of_entry hid, State.writeExres_of_dwords s hid]
  · intro s
    rfl
  · intro s hid hfree
    exact exec_feedAppend_of_unlocked hid hfree
  · intro s
    exact congrArg Host.Outcome.next (s.writeWdkick_eq (s.sched.args.value % 2 ^ 64))
  · intro s hrun hon hlate
    exact exec_watchdogTimeout_of_late hrun hon hlate
  · intro s
    rfl
  · intro s
    rfl
  · intro s hid
    exact exec_cecountWrite_of_code hid

end Sys2Proof.Machine

/-! ### What an effect leaves alone (R199, R255, R266, R275) -/

namespace Sys2Proof.Machine

open Sys2Proof

/-- Registers written one after another leave a register that none of them names. -/
theorem foldl_set_getD_of_ne {α : Type} {d : α} {r : Nat} :
    ∀ {l : List (Nat × α)} {v : List α}, (∀ w ∈ l, w.1 ≠ r) → (l.foldl (fun v w => v.set w.1 w.2) v).getD r d = v.getD r d
  | [], _, _ => rfl
  | w :: l, v, h => by
    have hw : w.1 ≠ r := h w List.mem_cons_self
    have ih := foldl_set_getD_of_ne (d := d) (v := v.set w.1 w.2) fun u hu => h u (List.mem_cons_of_mem w hu)
    rw [List.foldl_cons, ih, List.getD_eq_getElem?_getD, List.getElem?_set_ne hw, ← List.getD_eq_getElem?_getD]

theorem set_getD_self {α : Type} {d a : α} {r : Nat} {v : List α} (h : r < v.length) : (v.set r a).getD r d = a := by
  rw [List.getD_eq_getElem?_getD, List.getElem?_set_self h, Option.getD_some]

theorem foldl_putV : ∀ (l : List (Nat × VReg)) (x : Thread), l.foldl (fun x w => x.putV w.1 w.2) x =
    { x with v := l.foldl (fun v w => v.set w.1 w.2) x.v, dirtyV := l.foldl (fun ds w => insertNat w.1 ds) x.dirtyV }
  | [], _ => rfl
  | w :: l, x => foldl_putV l (x.putV w.1 w.2)

theorem foldl_putP : ∀ (l : List (Nat × Bool)) (x : Thread), l.foldl (fun x w => x.putP w.1 w.2) x =
    { x with p := l.foldl (fun v w => v.set w.1 w.2) x.p, dirtyP := l.foldl (fun ds w => insertNat w.1 ds) x.dirtyP }
  | [], _ => rfl
  | w :: l, x => foldl_putP l (x.putP w.1 w.2)

theorem foldl_putC : ∀ (l : List (Nat × CapReg)) (x : Thread), l.foldl (fun x w => x.putC w.1 w.2) x =
    { x with c := l.foldl (fun v w => v.set w.1 w.2) x.c, dirtyC := l.foldl (fun ds w => insertNat w.1 ds) x.dirtyC }
  | [], _ => rfl
  | w :: l, x => foldl_putC l (x.putC w.1 w.2)

/-- A thread with the registers of an effect written, and DIRTY of them (R199). -/
def Thread.written (x : Thread) (e : Eff) : Thread :=
  { x with v := e.v.foldl (fun v w => v.set w.1 w.2) x.v, dirtyV := e.v.foldl (fun ds w => insertNat w.1 ds) x.dirtyV,
           p := e.p.foldl (fun v w => v.set w.1 w.2) x.p, dirtyP := e.p.foldl (fun ds w => insertNat w.1 ds) x.dirtyP,
           c := e.c.foldl (fun v w => v.set w.1 w.2) x.c, dirtyC := e.c.foldl (fun ds w => insertNat w.1 ds) x.dirtyC }

/-- The status that a word other than `setsr` leaves: the flags joined (R266), %mstat, %scratchfault and PASS. -/
def Thread.noted (x : Thread) (e : Eff) : Thread :=
  { x with fpflags := x.fpflags ||| BitVec.ofNat 32 e.fl, mstat := e.ms.getD x.mstat, sf := e.off || x.sf, pass := !e.passed && x.pass }

/-- The register that `setsr` writes (R398). -/
def Thread.setStatus (x : Thread) : Option (Nat × Word) → Thread
  | some (0x14, v) => setFpflags x v
  | some (0x13, v) => setMstat x v
  | some (0x12, v) => setScratchfault x v
  | _ => x

/-- An effect on a thread: its registers, then its status. -/
theorem Thread.apply_eq (x : Thread) (e : Eff) : x.apply e = ((x.written e).noted e).setStatus e.set := by
  have hregs : e.c.foldl (fun x w => x.putC w.1 w.2) (e.p.foldl (fun x w => x.putP w.1 w.2)
      (e.v.foldl (fun x w => x.putV w.1 w.2) x)) = x.written e := by
    rw [foldl_putV, foldl_putP, foldl_putC]
    rfl
  rw [← hregs]
  obtain ⟨v, p, c, fl, ms, off, set, pc, effects, req, acts, branch, kept, passed⟩ := e
  cases ms <;> cases off <;> cases passed <;> rfl

/-- A status register written changes no other. -/
theorem Thread.setStatus_frame (x : Thread) (set : Option (Nat × Word)) : x.setStatus set =
    { x with fpflags := (x.setStatus set).fpflags, mstat := (x.setStatus set).mstat, sf := (x.setStatus set).sf } := by
  unfold Thread.setStatus setFpflags setMstat setScratchfault
  split
  case h_1 => split <;> rfl
  case h_2 => split <;> rfl
  case h_3 => split <;> rfl
  case h_4 => rfl

/-- An effect changes nothing but the registers, DIRTY and the status. -/
theorem Thread.apply_frame (x : Thread) (e : Eff) : x.apply e =
    { x.written e with fpflags := (x.apply e).fpflags, mstat := (x.apply e).mstat, sf := (x.apply e).sf, pass := (x.apply e).pass } := by
  rw [Thread.apply_eq, Thread.setStatus_frame]
  rfl

theorem Thread.apply_v (x : Thread) (e : Eff) : (x.apply e).v = e.v.foldl (fun v w => v.set w.1 w.2) x.v := by
  rw [Thread.apply_frame]
  rfl

theorem Thread.apply_p (x : Thread) (e : Eff) : (x.apply e).p = e.p.foldl (fun v w => v.set w.1 w.2) x.p := by
  rw [Thread.apply_frame]
  rfl

theorem Thread.apply_c (x : Thread) (e : Eff) : (x.apply e).c = e.c.foldl (fun v w => v.set w.1 w.2) x.c := by
  rw [Thread.apply_frame]
  rfl

/-- A word other than `setsr` leaves the status that `noted` says. -/
theorem Thread.apply_of_no_set {x : Thread} {e : Eff} (h : e.set = none) : x.apply e = (x.written e).noted e := by
  rw [Thread.apply_eq, h]
  rfl

/-- PASS is used up or stands (R246). -/
theorem Thread.apply_pass (x : Thread) (e : Eff) : (x.apply e).pass = (!e.passed && x.pass) := by
  rw [Thread.apply_eq, Thread.setStatus_frame]
  rfl

/-- Settles O52: an effect writes the registers that it names, then the status, and neither part touches what the other writes. -/
theorem effectFrame : Obligations.EffectFrame := by
  intro x e
  refine ⟨fun r h => ?_, fun r h => ?_, fun r h => ?_, fun d v he hd => ?_, fun d v he hd => ?_, fun d v he hd => ?_,
    fun hset => ?_, fun hset hms => ?_, fun hset hoff => ?_, fun hpassed => ?_, ?_⟩
  · rw [Thread.vreg, Thread.apply_v, foldl_set_getD_of_ne h, Thread.vreg]
  · rw [Thread.pred, Thread.apply_p, foldl_set_getD_of_ne h, Thread.pred]
  · rw [Thread.creg, Thread.apply_c, foldl_set_getD_of_ne h, Thread.creg]
  · rw [Thread.vreg, Thread.apply_v, he]
    exact set_getD_self hd
  · rw [Thread.pred, Thread.apply_p, he]
    exact set_getD_self hd
  · rw [Thread.creg, Thread.apply_c, he]
    exact set_getD_self hd
  · rw [Thread.apply_of_no_set hset]
    rfl
  · rw [Thread.apply_of_no_set hset]
    show e.ms.getD x.mstat = x.mstat
    rw [hms, Option.getD_none]
  · rw [Thread.apply_of_no_set hset]
    show (e.off || x.sf) = x.sf
    rw [hoff, Bool.false_or]
  · rw [Thread.apply_pass, hpassed]
    rfl
  · rw [Thread.apply_frame]
    rfl

end Sys2Proof.Machine

/-! ### Commit-class words of which no thread is active (R176, R206) -/

namespace Sys2Proof.Machine

open Sys2Proof

/-- `atoms` with NR clear returns a value, and is commit-class (R353). -/
theorem atomsWord_of_returning {k : Nat} {w : MemW} (h : w.cap % 2 = 0) (s : State) : atomsWord k w s =
    commitWord [w.form (0x28 + k) (w.width != 0) false (atomSrcs k w) []] drainNone
      (spadLane w (sizeBytes w.size) (sizeBytes w.size) fun x p => atomEff k w x [p]) performPlain s :=
  if_neg (by omega)

/-- `atoms` with NR set is a reduction (R353). -/
theorem atomsWord_of_reduction {k : Nat} {w : MemW} (h : w.cap % 2 = 1) (s : State) : atomsWord k w s =
    laneWord [w.form (0x28 + k) (w.width != 0) false (atomSrcs k w) []] true 1
      (spadLane w (sizeBytes w.size) (sizeBytes w.size) fun x p => redEff k w x [p]) s :=
  if_pos h

theorem idleCommit_of_atomsWord {i : Instr} {k : Nat} {w : MemW} (hi : ∀ s, exec i s = atomsWord k w s) (h : w.cap % 2 = 0) :
    IdleCommit i w.guard :=
  idleCommit_of (f := fun _ => w.form (0x28 + k) (w.width != 0) false (atomSrcs k w) []) _ _
    (fun s => (hi s).trans (atomsWord_of_returning h s)) fun _ => rfl

theorem idleCommit_of_forall {l : List Instr} {gd : Guard} (h : l.Forall fun i => IdleCommit i gd) : ∀ i ∈ l, IdleCommit i gd :=
  List.forall_iff_forall_mem.1 h

/-- Settles O26: each of the words is by definition a commit-class word whose form has its guard, and `idleCommit_of` says what
such a word does. -/
theorem guardedOffCommits : Obligations.GuardedOffCommits := by
  refine ⟨fun w => idleCommit_of_forall ?_, fun w i hcap => idleCommit_of_forall ?_ i, fun w => idleCommit_of_forall ?_,
    fun w => idleCommit_of _ _ (fun _ => rfl) fun _ => rfl⟩
  · and_intros
    all_goals exact idleCommit_of _ _ (fun _ => rfl) fun _ => rfl
  · and_intros
    all_goals exact idleCommit_of_atomsWord (fun _ => rfl) hcap
  · and_intros
    all_goals exact idleCommit_of _ _ (fun _ => rfl) fun _ => rfl

end Sys2Proof.Machine

/-! ### Operands that a check refuses (R237, R238, R301) -/

namespace Sys2Proof.Machine

open Sys2Proof

/-- A property of the pairs of a list, pair by pair. -/
theorem forall_pair_mem {α β : Type} {P : α → β → Prop} {l : List (α × β)} (h : l.Forall fun p => P p.1 p.2) :
    ∀ a b, (a, b) ∈ l → P a b := fun a b => List.forall_iff_forall_mem.1 h (a, b)

theorem forall_triple_mem {α β γ : Type} {P : α → β → γ → Prop} {l : List (α × β × γ)}
    (h : l.Forall fun p => P p.1 p.2.1 p.2.2) : ∀ a b c, (a, b, c) ∈ l → P a b c :=
  fun a b c => List.forall_iff_forall_mem.1 h (a, b, c)

section
variable {i : Instr} {f : Form}

/-- A word of one form that no leader checks takes the exceptions of its operands. -/
theorem refusedWord_of_laneWord {mem : Bool} {kind : Nat} {lane : LaneFn} (hi : ∀ s, exec i s = laneWord [f] mem kind lane s)
    (hf : f.leader = false) : RefusedWord i [f] mem kind :=
  refusedWord_of ⟨lane, hi⟩ (by rw [List.any_cons, hf]; rfl)

theorem refusedCommit_of_commitWord {drain : Item → Bool} {lane : LaneFn} {perform : PerformFn}
    (hi : ∀ s, exec i s = commitWord [f] drain lane perform s) (hf : f.leader = false) : RefusedCommit i f :=
  refusedCommit_of ⟨drain, lane, perform, hi⟩ hf

/-- A word of scratch atomics takes them before its commit, or where it is a reduction, as any word of memory (R353). -/
theorem refused_of_atomsWord {k : Nat} {w : MemW} (hi : ∀ s, exec i s = atomsWord k w s) :
    (w.cap % 2 = 0 → RefusedCommit i (w.form (0x28 + k) (w.width != 0) false (atomSrcs k w) []))
    ∧ (w.cap % 2 = 1 → RefusedWord i [w.form (0x28 + k) (w.width != 0) false (atomSrcs k w) []] true 1) :=
  ⟨fun h => refusedCommit_of_commitWord (fun s => (hi s).trans (atomsWord_of_returning h s)) rfl,
    fun h => refusedWord_of_laneWord (fun s => (hi s).trans (atomsWord_of_reduction h s)) rfl⟩

/-- The halves of a paired word are checked one after the other (R286). -/
theorem refusedWord_of_pairedWord {op0 op1 : PairOp} {h0 h1 : Half} (hi : ∀ s, exec i s = pairedWord op0 h0 op1 h1 s) :
    RefusedWord i [pairForm op0 [(8, h0.d), (8, h0.a), (9, h1.d), (9, h1.a)] h0, pairForm op1 [] h1] false 1 :=
  refusedWord_of ⟨_, hi⟩ rfl

end

/-- Settles O51: each of the words is by definition a word of its form, whose checks stand before its lanes. -/
theorem refusedOperands : Obligations.RefusedOperands := by
  refine ⟨fun w => forall_triple_mem ?integer, fun w => forall_triple_mem ?float, fun w => forall_triple_mem ?special,
    fun w => forall_pair_mem ?rounded, fun w => forall_pair_mem ?plain, fun w => forall_pair_mem ?immediate,
    fun w => forall_pair_mem ?matrix, fun h0 h1 op1 => forall_pair_mem ?paired, fun w => forall_pair_mem ?memory,
    fun w => forall_pair_mem ?reduction, fun w => refusedWord_of_laneWord (fun _ => rfl) rfl,
    fun w => refusedWord_of_laneWord (fun _ => rfl) rfl, fun w => refusedCommit_of_commitWord (fun _ => rfl) rfl,
    fun w => forall_pair_mem ?atomic, fun w => forall_pair_mem ?scratchAtomic,
    fun w => refusedCommit_of_commitWord (fun _ => rfl) rfl⟩
  case paired =>
    and_intros
    all_goals exact refusedWord_of_pairedWord fun _ => rfl
  case atomic =>
    and_intros
    all_goals exact refusedCommit_of_commitWord (fun _ => rfl) rfl
  case scratchAtomic =>
    exact ⟨refused_of_atomsWord fun _ => rfl, refused_of_atomsWord fun _ => rfl, refused_of_atomsWord fun _ => rfl,
      refused_of_atomsWord fun _ => rfl, refused_of_atomsWord fun _ => rfl, refused_of_atomsWord fun _ => rfl,
      refused_of_atomsWord fun _ => rfl, refused_of_atomsWord fun _ => rfl⟩
  case integer | float | special | rounded | plain | immediate | matrix | memory | reduction =>
    and_intros
    all_goals exact refusedWord_of_laneWord (fun _ => rfl) rfl

end Sys2Proof.Machine

/-! ### `rgn` and `reform` (R187, R202, R204, R206, R388, R389) -/

namespace Sys2Proof.Machine

open Sys2Proof

/-- Each thread of a `rgn`, with the descriptor that it keeps to enter by. -/
def withDescs (ds : List (Thread × List Nat)) : List (Thread × Eff) := ds.map fun d => (d.1, { kept := { nums := d.2 } })

@[simp] theorem withDescs_tids (ds : List (Thread × List Nat)) :
    (withDescs ds).map (fun o => o.1.tid) = (ds.map Prod.fst).map Thread.tid := by
  simp [withDescs]

/-- The first of some reads finds a good descriptor, and the others follow it. -/
theorem descsPass_cons {k : Nat} {b : Block} {x : Thread} {xs : List Thread} {s s' : State} {ds : List (Thread × List Nat)}
    (h : descsPass k b (x :: xs) s = some (s', ds)) : ∃ s1 d ds', s.readDesc b k = (s1, .ok d) ∧ badDesc b d = none
      ∧ descsPass k b xs s1 = some (s', ds') ∧ ds = (x, d) :: ds' := by
  simp only [descsPass] at h
  split at h
  case h_2 => cases h
  case h_1 s1 d hread =>
    obtain ⟨hgood, hrest⟩ := Option.ite_none_right_eq_some.1 h
    obtain ⟨⟨s2, ds'⟩, hds, heq⟩ := Option.map_eq_some_iff.1 hrest
    obtain ⟨rfl, rfl⟩ := Prod.mk.inj heq
    exact ⟨s1, d, ds', hread, hgood, hds, rfl⟩

/-- Descriptors are read for the threads in their order. -/
theorem descsPass_threads {k : Nat} {b : Block} : ∀ {xs : List Thread} {s s' : State} {ds : List (Thread × List Nat)},
    descsPass k b xs s = some (s', ds) → ds.map Prod.fst = xs
  | [], _, _, _, h => by
    obtain ⟨-, rfl⟩ := Prod.mk.inj (Option.some.inj h)
    rfl
  | x :: xs, _, _, _, h => by
    obtain ⟨s1, d, ds', -, -, hrest, rfl⟩ := descsPass_cons h
    exact congrArg (x :: ·) (descsPass_threads hrest)

/-- The lane of a thread that is in no handler and reads a good descriptor keeps it. -/
theorem rgnLane_of_read {k : Nat} {s s1 : State} {b : Block} {act : List Thread} {x : Thread} {d : List Nat}
    (hx : x.handler = none) (hread : s.readDesc b k = (s1, .ok d)) (hd : badDesc b d = none) :
    rgnLane k s b act x = (s1, .ok { kept := { nums := d } }) := by
  simp only [rgnLane, hx, Option.isSome_none, Bool.false_eq_true, if_false, hread, hd]

/-- Lanes whose descriptors are all good pass. -/
theorem lanesPass_rgnLane {k : Nat} {b : Block} {act : List Thread} :
    ∀ {xs : List Thread} {s s' : State} {ds : List (Thread × List Nat)}, (∀ x ∈ xs, x.handler = none) →
      descsPass k b xs s = some (s', ds) → lanesPass (rgnLane k) b act xs s = some (s', withDescs ds)
  | [], _, _, _, _, h => by
    obtain ⟨rfl, rfl⟩ := Prod.mk.inj (Option.some.inj h)
    rfl
  | x :: xs, _, _, _, hx, h => by
    obtain ⟨s1, d, ds', hread, hgood, hrest, rfl⟩ := descsPass_cons h
    have ih := lanesPass_rgnLane (act := act) (fun y hy => hx y (List.mem_cons_of_mem x hy)) hrest
    simp only [lanesPass, rgnLane_of_read (hx x List.mem_cons_self) hread hgood, ih]
    rfl

/-- The outcomes of a group of which every thread reads a good descriptor. -/
theorem runLanes_rgnLane {k : Nat} {s s' : State} {b : Block} {xs : List Thread} {ds : List (Thread × List Nat)}
    (hx : ∀ x ∈ xs, x.handler = none) (h : descsPass k b xs s = some (s', ds)) :
    runLanes [] (rgnLane k) b xs xs s = (s', allOk (withDescs ds)) :=
  runLanes_pass (fun _ _ => .of_check rfl) (lanesPass_rgnLane hx h)

/-- The threads of a group have committed, and each has entered region k with its descriptor (R202), or has ended there in a
block that `cancel` ends (R187). -/
def State.enteredRegion (s : State) (k : Nat) (g : Group) (b : Block) (ds : List (Thread × List Nat)) : State :=
  let tids := (g.issuers b).map Thread.tid
  let t := (((s.dropAsks s.sched.cur).retire b tids).commitAll b tids).commitTrace b tids 0 g.pc
  let u := ds.foldl (fun t d => t.updThread b.uid d.1.tid fun x => x.enterRegion k d.2) t
  if b.save = some .cancel then tids.foldl (fun s t => s.cutShort b.uid t) u else u

/-- Where every thread of the group reads a good descriptor, all of them enter, and none is left behind. -/
theorem exec_rgn_of_descs {w : Imm} {s s' : State} {g : Group} {b : Block} {ds : List (Thread × List Nat)}
    (hc : s.current = some (g, b)) (hx : ∀ x ∈ g.issuers b, x.handler = none)
    (hdue : ∀ x ∈ g.issuers b, s.outstanding b.uid x.tid = false)
    (hg : s.glitchOf b (g.issuers b) 1 = none) (hds : descsPass w.imm b (g.issuers b) s = some (s', ds)) :
    exec (.rgn w) s = .next ((((if ds.any fun d => noMigrate d.2 then (s'.enteredRegion w.imm g b ds).stay b.uid
      else s'.enteredRegion w.imm g b ds).regroup g.gid).drawAll g.core g.part).settleSave b.uid) := by
  have hnone : ((g.issuers b).any fun x => s.outstanding b.uid x.tid) = false :=
    List.any_eq_false.2 fun x h => by simp [hdue x h]
  have htids : (withDescs ds).map (fun o => o.1.tid) = (g.issuers b).map Thread.tid := by
    rw [withDescs_tids, descsPass_threads hds]
  have hbehind : ((g.issuers b).filter fun x => !(((g.issuers b).map Thread.tid).contains x.tid)) = [] :=
    List.filter_eq_nil_iff.2 fun x h => by simpa using ⟨x, h, rfl⟩
  have hstay : ((withDescs ds).any fun o => noMigrate o.2.kept.nums) = ds.any fun d => noMigrate d.2 := List.any_map
  show execRgn w s = _
  simp only [execRgn, hc, hnone, Bool.false_eq_true, if_false, compared_clear hg, runLanes_rgnLane hx hds, combine_allOk, htids,
    hbehind, hstay, List.foldl_nil]
  simp only [State.enteredRegion, withDescs, List.foldl_map]

/-- Every thread of a group has gone past the word. -/
def State.pastWord (s : State) (g : Group) (b : Block) : State := s.stepPcs b (g.issuers b) (each (g.issuers b) fun _ => {})

theorem exec_reform_of_block {w : Imm} {s : State} {g : Group} {b b2 : Block} (hc : s.current = some (g, b))
    (hg : s.glitchOf b (g.issuers b) 1 = none) (hb : ((s.pastWord g b).dropGroup g.gid).block? b.uid = some b2) :
    exec (.reform w) s = .next (if g.runner.isSome then (s.pastWord g b).regroup g.gid
      else (((s.pastWord g b).dropGroup g.gid).fileAll b.uid (b2.members g.tids)).drawAll g.core g.part) := by
  simp only [State.pastWord, each] at hb ⊢
  show execReform w s = _
  simp only [execReform, hc, compared_clear hg, hb]
  split <;> rfl

/-- Settles O30: where nothing holds the group back, every lane of `rgn` passes, and `reform` asks for nothing. -/
theorem regionsAndReform : Obligations.RegionsAndReform := by
  refine ⟨fun w s s' g b ds hc hx hg hds => ?_, fun w s g b b2 hc hg => exec_reform_of_block hc hg⟩
  refine exec_rgn_of_descs hc (fun x h => ?_) (fun x h => ?_) hg hds
  · obtain ⟨-, hhandler, -⟩ := hx x h
    exact hhandler
  · obtain ⟨-, -, hdue⟩ := hx x h
    exact hdue

end Sys2Proof.Machine

/-! ### Taking an exception (R237, R241, R242) -/

namespace Sys2Proof.Machine

open Sys2Proof

/-- One thread is another but for where it stands and what it watches. -/
def Thread.Stays (x y : Thread) : Prop := ∃ st w, y = { x with st := st, watch := w }

theorem Thread.Stays.refl (x : Thread) : x.Stays x := ⟨x.st, x.watch, rfl⟩

theorem Thread.Stays.trans {x y z : Thread} (h : x.Stays y) (g : y.Stays z) : x.Stays z := by
  obtain ⟨_, _, rfl⟩ := h
  obtain ⟨st, w, rfl⟩ := g
  exact ⟨st, w, rfl⟩

theorem Thread.Stays.tid_eq {x y : Thread} (h : x.Stays y) : y.tid = x.tid := by
  obtain ⟨_, _, rfl⟩ := h
  rfl

section
variable {s t u : State}

/-- From one state to another every thread is found again, and nothing of it changed but where it stands and what it
watches. -/
def ThreadsStay (s t : State) : Prop :=
  ∀ (uid tid : Nat) (x : Thread), s.thread? uid tid = some x → ∃ y, t.thread? uid tid = some y ∧ x.Stays y

theorem ThreadsStay.of_blocks_eq (h : t.blocks = s.blocks) : ThreadsStay s t := fun _ _ x hx =>
  ⟨x, by rwa [State.thread?, State.block?, h], .refl x⟩

theorem ThreadsStay.refl (s : State) : ThreadsStay s s := .of_blocks_eq rfl

theorem ThreadsStay.trans (h : ThreadsStay s t) (g : ThreadsStay t u) : ThreadsStay s u := fun uid tid x hx => by
  obtain ⟨y, hy, hxy⟩ := h uid tid x hx
  obtain ⟨z, hz, hyz⟩ := g uid tid y hy
  exact ⟨z, hz, hxy.trans hyz⟩

theorem ThreadsStay.foldl {α : Type} {f : State → α → State} (hf : ∀ t a, ThreadsStay t (f t a)) :
    ∀ (l : List α) (s : State), ThreadsStay s (l.foldl f s)
  | [], s => .refl s
  | a :: l, s => (hf s a).trans (foldl hf l (f s a))

theorem ThreadsStay.of_updThreads {f : Nat → Thread → Thread} (hf : ∀ k (x : Thread), x.Stays (f k x))
    (hb : t.blocks = s.blocks.map fun b => b.updThreads (f b.uid)) : ThreadsStay s t := fun uid tid x hx =>
  ⟨f uid x, by rw [State.thread?_of_updThreads (fun k x => (hf k x).tid_eq) hb, hx]; rfl, hf uid x⟩

/-! #### What the device writes and draws on the way (R179, R247) -/

theorem State.threadsStay_trigger (s : State) (scratch : Option Nat) (a n : Nat) :
    ThreadsStay s (s.trigger scratch a n) := by
  refine .of_updThreads (f := Function.const Nat _) (fun _ x => ?_) rfl
  dsimp only [Function.const]
  split
  · split
    · exact ⟨x.st, _, rfl⟩
    · exact .refl x
  · exact .refl x

theorem State.threadsStay_putAt (core : Option Nat) (p : Piece) (bs : List Byte) (s : State) (a : Nat) :
    ThreadsStay s (s.putAt core p bs a) := by
  obtain ⟨u, hu, h⟩ := State.putAt_eq_trigger core p bs s a
  rw [h]
  exact (ThreadsStay.of_blocks_eq hu.blocks).trans (u.threadsStay_trigger _ _ _)

/-- The device's own places lie in memory of this device. -/
theorem State.devPlace_inMemory {c : Ctx} {obj off n : Nat} {p : Piece} (h : s.devPlace c obj off n = some p) :
    p.scratch = none ∧ p.peer = none := by
  unfold State.devPlace at h
  dsimp only at h
  split at h
  · cases h
  · split at h
    · cases h
    · split at h
      · cases h
      · cases h
        exact ⟨rfl, rfl⟩

theorem ThreadsStay.objWritePieces {c : Ctx} {obj : Nat} : ∀ {l : List (Nat × Nat)} {bs : List Byte} {s : State},
    objWritePieces c obj l bs s = some t → ThreadsStay s t
  | [], _, s, h => by
    obtain rfl := Option.some.inj h
    exact .refl s
  | (o, n) :: l, bs, s, h => by
    unfold Machine.objWritePieces at h
    split at h
    · next p hp =>
      obtain ⟨hscratch, hpeer⟩ := State.devPlace_inMemory hp
      rw [State.writePiece_eq_foldl_putAt hscratch hpeer] at h
      exact (ThreadsStay.foldl (State.threadsStay_putAt none p _) _ s).trans (objWritePieces h)
    · cases h

theorem ThreadsStay.objWrite {c : Ctx} {obj off : Nat} {bs : List Byte} (h : s.objWrite c obj off bs = some t) :
    ThreadsStay s t := .objWritePieces h

theorem ThreadsStay.popSlot {c : Ctx} {slot : Nat} (h : s.popSlot c = some (t, slot)) : ThreadsStay s t := by
  unfold State.popSlot at h
  split at h
  · cases h
  · split at h
    · cases h
    · split at h
      · next hw =>
        cases h
        refine (ThreadsStay.objWrite hw).trans ?_
        split
        · exact .of_blocks_eq rfl
        · exact .refl _
      · cases h

theorem State.threadsStay_draw (s : State) (b : Bin) : ThreadsStay s (s.draw b) := by
  refine .of_updThreads (f := fun k x => if k = b.blk ∧ b.tids.contains x.tid then { x with st := .running } else x)
    (fun k x => ?_) (List.map_congr_left fun k _ => ?_)
  · split
    · exact ⟨.running, x.watch, rfl⟩
    · exact .refl x
  · by_cases h : k.uid = b.blk <;> simp [h, Block.updThreads]

theorem State.threadsStay_drawAll (s : State) (core part : Nat) : ThreadsStay s (s.drawAll core part) :=
  .foldl State.threadsStay_draw _ s

theorem State.thread?_tid_eq {uid tid : Nat} {x : Thread} (h : s.thread? uid tid = some x) : x.tid = tid := by
  obtain ⟨b, -, hb⟩ := Option.bind_eq_some_iff.1 h
  simpa using List.find?_some hb

/-- A thread that an update names is found changed. -/
theorem State.thread?_updThread_self {uid tid : Nat} {x : Thread} {f : Thread → Thread} (h : s.thread? uid tid = some x)
    (hf : ∀ x, (f x).tid = x.tid := by intro; rfl) : (s.updThread uid tid f).thread? uid tid = some (f x) := by
  rw [State.thread?_updThread s uid tid f uid tid hf, h]
  simp [State.thread?_tid_eq h]

/-- A thread that is filed goes on at the PC and in the code space under which it is filed (R179). -/
theorem State.thread?_file {uid tid : Nat} {x : Thread} (pc : Int) (space : Space) (h : s.thread? uid tid = some x) :
    ∃ y, (s.file uid tid pc space).thread? uid tid = some y ∧ ({ x with pc := pc, space := space } : Thread).Stays y := by
  have moved (st : TState) : (s.updThread uid tid fun x => { x with st := st, pc := pc, space := space }).thread? uid tid =
      some { x with st := st, pc := pc, space := space } := State.thread?_updThread_self h
  have filed {t : State} (ht : ThreadsStay (s.updThread uid tid fun x => { x with st := .filed, pc := pc, space := space }) t) :
      ∃ y, t.thread? uid tid = some y ∧ ({ x with pc := pc, space := space } : Thread).Stays y := by
    obtain ⟨y, hy, hxy⟩ := ht uid tid _ (moved .filed)
    exact ⟨y, hy, Thread.Stays.trans ⟨.filed, x.watch, rfl⟩ hxy⟩
  obtain ⟨b, hb, -⟩ := Option.bind_eq_some_iff.1 h
  unfold State.file
  rw [hb]
  dsimp only
  split
  · exact ⟨_, moved .running, .running, x.watch, rfl⟩
  · split
    · exact filed (.of_blocks_eq rfl)
    · refine filed (.trans (t := ite _ _ _) ?_ (.of_blocks_eq rfl))
      split
      · split
        · exact State.threadsStay_draw _ _
        · exact .refl _
      · exact .refl _

/-! #### The context of a block through the trap -/

/-- The loaded context of a block. -/
def State.ctxOf (s : State) (uid : Nat) : Option Ctx := (s.block? uid).bind fun b => s.ctx? b.ctx

theorem State.ctxOf_eq {uid : Nat} {b : Block} (h : s.block? uid = some b) : s.ctxOf uid = s.ctx? b.ctx := by
  rw [State.ctxOf, h]
  rfl

@[simp] theorem State.ctxOf_leave (s : State) (uid tid k : Nat) : (s.leave uid tid).ctxOf k = s.ctxOf k := rfl

@[simp] theorem State.ctxOf_updThread (s : State) (uid tid : Nat) (f : Thread → Thread) (k : Nat) :
    (s.updThread uid tid f).ctxOf k = s.ctxOf k := by
  rw [State.ctxOf, State.updThread, State.block?_updBlock s uid (fun b => b.updThread tid f) k fun _ => rfl, Option.bind_map]
  refine congrArg _ (funext fun b => ?_)
  by_cases h : b.uid = uid <;> simp [h] <;> rfl

/-! #### The steps of the trap (R213, R237, R241) -/

/-- A thread that a discard passes over runs as pinned, so the discard of a trap never meets one. -/
theorem Thread.spared_of_not_runsPinned {x : Thread} (h : x.runsPinned = false) : x.spared = false := by
  simp only [Thread.runsPinned, Bool.or_eq_false_iff] at h
  obtain ⟨⟨⟨⟨-, hperf⟩, -⟩, hmid⟩, hbound⟩ := h
  simp [Thread.spared, hperf, hmid, hbound]

/-- Whether a trap finds nothing of the thread to discard (R242): it runs pinned, or what it ran is discarded already. -/
def State.keepsInstance (s : State) (uid tid : Nat) (x : Thread) : Bool :=
  x.runsPinned || (s.groupOf uid tid).any Group.gone

/-- The state with which the trap of a thread begins. -/
def State.undone (s : State) (uid tid : Nat) (x : Thread) : State :=
  if s.keepsInstance uid tid x then s else s.discard uid tid false

/-- What the thread is in that state. -/
def State.undoneThread (s : State) (uid tid ctx : Nat) (x : Thread) : Thread :=
  if s.keepsInstance uid tid x then x else x.discarded (s.reLimit ctx) false

theorem State.thread?_undone {uid tid : Nat} {b : Block} {x : Thread} (hb : s.block? uid = some b)
    (hx : s.thread? uid tid = some x) :
    (s.undone uid tid x).thread? uid tid = some (s.undoneThread uid tid b.ctx x)
      ∧ (s.undone uid tid x).ctxOf uid = s.ctxOf uid := by
  unfold State.undone State.undoneThread
  cases hkeep : s.keepsInstance uid tid x with
  | true => exact ⟨hx, rfl⟩
  | false =>
    have hspared := Thread.spared_of_not_runsPinned (Bool.or_eq_false_iff.1 hkeep).1
    have hforget : s.discard uid tid false = s.forget uid tid false := by simp [State.discard, hx, hspared]
    rw [if_neg (by simp), if_neg (by simp), hforget, State.forget, hb]
    exact ⟨State.thread?_updThread_self hx, s.ctxOf_updThread uid tid _ uid⟩

theorem Thread.Stays.enter {x y : Thread} (h : x.Stays y) (c : Ctx) (slot : Nat) (st : TState) :
    (x.enter c slot).Stays { y.enter c slot with st := st } := by
  obtain ⟨_, w, rfl⟩ := h
  exact ⟨st, w, rfl⟩

/-- A thread that does not wait for a save slot has one and is in its handler (R241 steps 3 and 4). -/
theorem State.thread?_enterHandler {uid tid : Nat} {t : PendTrap} {c : Ctx} {x y : Thread} (hc : s.ctxOf uid = some c)
    (hx : s.thread? uid tid = some x) (hy : (s.enterHandler uid tid t).thread? uid tid = some y) (hst : y.st ≠ .trapWait) :
    ∃ slot, (x.enter c slot).Stays y := by
  have wait : (s.updThread uid tid fun x => { x with st := .trapWait, pend := some t }).thread? uid tid ≠ some y := by
    intro h
    obtain rfl := Option.some.inj ((State.thread?_updThread_self hx).symm.trans h)
    exact hst rfl
  obtain ⟨b, hb, -⟩ := Option.bind_eq_some_iff.1 hx
  rw [State.ctxOf_eq hb] at hc
  unfold State.enterHandler at hy
  rw [hb, hx] at hy
  dsimp only at hy
  split at hy
  · exact absurd hy wait
  · next c' hc' =>
    obtain rfl : c' = c := by
      split at hc'
      · cases hc'
      · exact Option.some.inj (hc'.symm.trans hc)
    split at hy
    · exact absurd hy wait
    · next s1 slot hpop =>
      split at hy
      · exact absurd hy wait
      · next s2 hwrite =>
        obtain ⟨s', hframe, hlink⟩ := Option.bind_eq_some_iff.1 hwrite
        have stay : ThreadsStay s s2 := ((ThreadsStay.popSlot hpop).trans (.objWrite hframe)).trans (.objWrite hlink)
        obtain ⟨x2, hx2, hxx2⟩ := stay uid tid x hx
        have entered := State.thread?_updThread_self (f := fun x => { x.enter c' slot with st := .running }) hx2
        refine ⟨slot, (hxx2.enter c' slot .running).trans ?_⟩
        split at hy
        · obtain ⟨z, hz, hxz⟩ := State.thread?_file (c'.hcode.cursor : Nat) .handler entered
          obtain ⟨y', hy', hzy⟩ := State.threadsStay_drawAll _ b.core (partOf tid) uid tid z hz
          obtain rfl := Option.some.inj (hy'.symm.trans hy)
          exact hxz.trans hzy
        · obtain rfl := Option.some.inj (entered.symm.trans hy)
          exact .refl _

/-- A thread that traps by itself and finds a save slot enters its handler with its trap registers written. -/
theorem State.thread?_trapThread {uid tid cause aux : Nat} {pc : Int} {b : Block} {c : Ctx} {x y : Thread}
    (hb : s.block? uid = some b) (hc : s.ctx? b.ctx = some c) (hx : s.thread? uid tid = some x) (hh : x.handler = none)
    (hy : (s.trapThread uid tid cause aux pc).thread? uid tid = some y) (hst : y.st ≠ .trapWait) :
    ∃ slot, (((s.undoneThread uid tid b.ctx x).setTrap cause pc aux).enter c slot).Stays y := by
  obtain ⟨hundone, hctx⟩ := State.thread?_undone hb hx
  rw [← State.ctxOf_eq hb, ← hctx] at hc
  unfold State.trapThread at hy
  rw [hb, hx] at hy
  dsimp only at hy
  rw [hh, if_neg (by simp)] at hy
  refine State.thread?_enterHandler (s := ((s.undone uid tid x).leave uid tid).updThread uid tid _) ?_
    (State.thread?_updThread_self (s := (s.undone uid tid x).leave uid tid) hundone) hy hst
  rw [State.ctxOf_updThread, State.ctxOf_leave, hc]

/-! #### The registers of a thread in its handler -/

theorem Thread.creg_setC_self {x : Thread} {n : Nat} (h : n < x.c.length) (r : CapReg) : (x.setC n r).creg n = r := by
  simp [Thread.creg, Thread.setC, h]

theorem Thread.creg_setC_ne {x : Thread} {n k : Nat} (h : k ≠ n) (r : CapReg) : (x.setC n r).creg k = x.creg k := by
  simp [Thread.creg, Thread.setC, List.getElem?_set_ne h.symm]

/-- A discard changes no register file. -/
theorem State.undoneThread_registers (s : State) (uid tid ctx : Nat) (x : Thread) :
    (s.undoneThread uid tid ctx x).v = x.v ∧ (s.undoneThread uid tid ctx x).p = x.p
      ∧ (s.undoneThread uid tid ctx x).c = x.c := by
  unfold State.undoneThread
  split <;> exact ⟨rfl, rfl, rfl⟩

end

/-- Settles O55: the trap discards what the thread ran where that is still to be discarded, writes the trap registers
and enters the handler; from there on nothing of it changes but where it stands and what it watches. -/
theorem trapEntry : Obligations.TrapEntry := by
  intro s uid tid cause aux pc b c x y hb hc hx hh hy hst
  obtain ⟨slot, st, w, rfl⟩ := State.thread?_trapThread hb hc hx hh hy hst
  obtain ⟨hv, hp, hregs⟩ := s.undoneThread_registers uid tid b.ctx x
  refine ⟨rfl, rfl, rfl, rfl, rfl, ⟨slot, rfl, fun h => ?_⟩, rfl, hv, hp, fun k hk => ?_, fun h => ?_, fun hran hgone => ?_⟩
  · exact Thread.creg_setC_self (x := (s.undoneThread uid tid b.ctx x).setTrap cause pc aux) (hregs ▸ h) (slotCap c slot)
  · refine (Thread.creg_setC_ne (x := (s.undoneThread uid tid b.ctx x).setTrap cause pc aux) hk (slotCap c slot)).trans ?_
    exact congrArg (fun l : List CapReg => l.getD k {}) hregs
  · have hsame : s.undoneThread uid tid b.ctx x = x := if_pos (Bool.or_eq_true_iff.2 h)
    rw [hsame]
    exact ⟨rfl, rfl⟩
  · have hkeep : s.keepsInstance uid tid x = false := Bool.or_eq_false_iff.2 ⟨hran, hgone⟩
    have hback : s.undoneThread uid tid b.ctx x = x.discarded (s.reLimit b.ctx) false := if_neg (by simp [hkeep])
    rw [hback]
    exact ⟨rfl, rfl⟩

end Sys2Proof.Machine

/-! ### What holds of each constructor of `Instr` -/

namespace Sys2Proof.Laws.Builds

open Sys2Proof

/-- What holds of each constructor holds of every instruction. -/
theorem statement (i : Instr) : Statement i := i.casesOn
    mov add sub mul mulhi mad min max abs neg and or xor not andn shl shr sar rot clz popc brev bfx bfi sel cmp cvtI
    fadd fsub fmul fma fms fnma fmin fmax fabs fneg fcmp fclass dot2 dot4 fscale frint cvtF cvtFi cvtIf cvtQ cvtM rcp
    rsqrt sqrt div exp2 log2 sin cos tanh pand por pxor pnot pmask pset pack unpack retag cmov cincoff csetoff csetbnd
    candperm cget ctest shfl bcast ballot vote matchLanes scan reduce sort rank pacq prel ppass cpy cpyg cpym rack
    qfence lbarm ecntAdd ecntRd exlook rbacq rbrel bar gbar mon mwait getsr setsr launch waitc yield fpop cancel brk
    xget xput mset madd mmul mmad mtrans mvmul mchol mlu msolve movi movhi addi andi ori cmpi bra call ret jmpr loop
    reform rgn exit trap assert nop rte ld ldacq st strel lds sts atomAdd atomMin atomMax atomAnd atomOr atomXor
    atomXchg atomCas redAdd redMin redMax redAnd redOr redXor atomsAdd atomsMin atomsMax atomsAnd atomsOr atomsXor
    atomsXchg atomsCas wsum wrd mld mst ldcap stcap fence prefetch cachectlWb cachectlEvict cachectlL1drop movPaired
    addPaired subPaired mulPaired minPaired maxPaired absPaired negPaired andPaired orPaired xorPaired notPaired
    andnPaired shlPaired shrPaired sarPaired faddPaired fsubPaired fmulPaired fminPaired fmaxPaired fabsPaired
    fnegPaired ctxload objcreate objinv faultans preempt resume slotbind slotunbind pgm erase feedmap pgread
    memoryResponse storeBufferPerform commandEnqueue copyUnit commandComplete passJoin cpymPassPost pressGrant
    passComplete reservationFree watchTrigger mwaitTimeout binAgedDraw slotHeadCheck launchRelease pageReadStart
    senseDone transferDone correctionDone pageBufferEnter pageDelivery blockPlace placementOverdue blockClearingDone
    blockFinish waitConditionMet blockSave pinnedWaitLimit trapDelivery faultRecordWrite replicaLockTimeout
    atsCompletion atsInvalidate hostSnoop bisnp poolRecoveryTimeout poolCompletionTimeout poolViralSignal poolLinkUp
    portstatWrite swirilLinkDown peerRequest peerResponse objinvComplete preemptComplete notifyKick catcherKick
    catcherReplay exresWrite exwridx pendingWrite catchstatWrite feedAppend ageingInterval eventRecordWrite wdkick
    watchdogTimeout sdcWindowBoundary errlostWrite cecountWrite dbgctlWrite dbgcmdStop dbgcmdResume dbgdataWrite
    haltComplete traceDrain rrChunkWrite replayGateRelease replayGateTimeout thermalThrottle thermalTrip supplySag
    clockStepRise powerWindow attctlGo attestDone resetBoot registerWrite hostCxlMemAccess poolLinkExitL0
    throttleRelease quadUngateComplete pgmEraseComplete

end Sys2Proof.Laws.Builds

/-! ### Codes and the names they stand for (R109, R254, R262, R283, R285) -/

namespace Sys2Proof

theorem Tag.ofCode_eq_some_iff {n : Nat} {t : Tag} : Tag.ofCode n = some t ↔ t.code = n := by
  refine ⟨fun h => ?_, fun h => h ▸ t.ofCode_code⟩
  unfold Tag.ofCode at h
  split at h <;> cases h <;> rfl

theorem Rnd.ofCode_eq_some_iff {n : Nat} {r : Rnd} : Rnd.ofCode n = some r ↔ r.code = n := by
  refine ⟨fun h => ?_, fun h => h ▸ r.ofCode_code⟩
  unfold Rnd.ofCode at h
  split at h <;> cases h <;> rfl

theorem Scope.ofCode_eq_some_iff {n : Nat} {s : Scope} : Scope.ofCode n = some s ↔ s.code = n := by
  refine ⟨fun h => ?_, fun h => h ▸ s.ofCode_code⟩
  unfold Scope.ofCode at h
  split at h <;> cases h <;> rfl

theorem PairOp.ofCode_eq_some_iff {n : Nat} {o : PairOp} : PairOp.ofCode n = some o ↔ o.code = n := by
  refine ⟨fun h => ?_, fun h => h ▸ o.ofCode_code⟩
  unfold PairOp.ofCode at h
  split at h <;> cases h <;> rfl

theorem Guard.ofCode_eq_some_iff {n : Nat} {g : Guard} : Guard.ofCode n = some g ↔ g.fits = true ∧ g.code = n := by
  refine ⟨fun h => ?_, fun h => h.2 ▸ Guard.ofCode_code h.1⟩
  unfold Guard.ofCode at h
  split_ifs at h <;> cases h <;> simp [Guard.fits, Guard.code] <;> omega

theorem bit_beq_one_eq_self_iff {n : Nat} : bit (n == 1) = n ↔ n < 2 := by
  refine ⟨fun h => h ▸ bit_lt _, fun h => ?_⟩
  interval_cases n <;> rfl

/-! ### A word is its fields (R276, R277, R279, R280, R284) -/

/-- Every field of a half is within its width (R284). -/
def HalfFields.fits (h : HalfFields) : Prop := h.op < 128 ∧ h.d < 256 ∧ h.a < 256 ∧ h.t < 32 ∧ h.rnd < 4 ∧ h.sat < 2

/-- Every field of a word is within its width (R277, R279, R280, R284). -/
def View.fits : View → Prop
  | .f op g d a b c t x => op < 256 ∧ g < 128 ∧ d < 512 ∧ a < 512 ∧ b < 512 ∧ c < 512 ∧ t < 32 ∧ x < 64
  | .i op g d a imm => op < 256 ∧ g < 128 ∧ d < 512 ∧ a < 512 ∧ imm < 2 ^ 29
  | .m op g data cap index width sgn scale t size off scope =>
    (op < 128 ∧ g < 128 ∧ data < 512 ∧ cap < 32 ∧ index < 512 ∧ width < 4)
    ∧ (sgn < 2 ∧ scale < 4 ∧ t < 32 ∧ size < 4 ∧ off < 1024 ∧ scope < 8)
  | .p h0 h1 => h0.fits ∧ h1.fits

theorem HalfFields.pack_lt {h : HalfFields} (hf : h.fits) : h.pack < 2 ^ 31 := by
  obtain ⟨hop, hd, ha, ht, hr, hs⟩ := hf
  unfold HalfFields.pack
  omega

theorem View.pack_lt {v : View} (hf : v.fits) : v.pack < 2 ^ 64 := by
  cases v with
  | f => simp only [View.fits, View.pack] at *; omega
  | i => simp only [View.fits, View.pack] at *; omega
  | m => simp only [View.fits, View.pack] at *; omega
  | p h0 h1 =>
    have := HalfFields.pack_lt hf.1
    have := HalfFields.pack_lt hf.2
    simp only [View.pack]; omega

/-- The fields of a word are within their widths. -/
theorem View.parse_fits (w : Nat) : (View.parse w).fits := by
  unfold View.parse
  split <;> simp only [View.fits, HalfFields.fits] <;> omega

theorem View.parse_pack {v : View} (hf : v.fits) : View.parse v.pack = v := by
  cases v with
  | f op g d a b c t x =>
    obtain ⟨hop, hg, hd, ha, hb, hc, ht, hx⟩ := hf
    have hform : (View.f op g d a b c t x).pack / 2 ^ 62 % 4 = 0 := by simp only [View.pack]; omega
    unfold View.parse
    rw [hform]
    simp only [View.pack, View.f.injEq]
    omega
  | i op g d a imm =>
    obtain ⟨hop, hg, hd, ha, himm⟩ := hf
    have hform : (View.i op g d a imm).pack / 2 ^ 62 % 4 = 2 := by simp only [View.pack]; omega
    unfold View.parse
    rw [hform]
    simp only [View.pack, View.i.injEq]
    omega
  | m op g data cap index width sgn scale t size off scope =>
    obtain ⟨⟨hop, hg, hd, hc, hi, hw⟩, hsgn, hscale, ht, hsize, hoff, hscope⟩ := hf
    have hform : (View.m op g data cap index width sgn scale t size off scope).pack / 2 ^ 62 % 4 = 3 := by
      simp only [View.pack]; omega
    unfold View.parse
    rw [hform]
    simp only [View.pack, View.m.injEq]
    omega
  | p h0 h1 =>
    obtain ⟨⟨hop0, hd0, ha0, ht0, hr0, hs0⟩, hop1, hd1, ha1, ht1, hr1, hs1⟩ := hf
    have hform : (View.p h0 h1).pack / 2 ^ 62 % 4 = 1 := by simp only [View.pack, HalfFields.pack]; omega
    unfold View.parse
    rw [hform]
    obtain ⟨op0, d0, a0, t0, r0, s0⟩ := h0
    obtain ⟨op1, d1, a1, t1, r1, s1⟩ := h1
    simp only [View.pack, HalfFields.pack, View.p.injEq, HalfFields.mk.injEq]
    dsimp only at *
    omega

/-- The low bits of a word are a field of `m` bits at bit `k` and the `k` bits below it. -/
theorem mod_two_pow_eq (w k m : Nat) : w % 2 ^ (k + m) = w / 2 ^ k % 2 ^ m * 2 ^ k + w % 2 ^ k := by
  rw [Nat.pow_add, Nat.mod_mul, Nat.mul_comm, Nat.add_comm]

/-- A half is its fields, from the operation at bit 24 down to SAT at bit 0. -/
theorem HalfFields.pack_cut (w : Nat) :
    HalfFields.pack ⟨w / 2 ^ 24 % 128, w / 2 ^ 16 % 256, w / 2 ^ 8 % 256, w / 2 ^ 3 % 32, w / 2 % 4, w % 2⟩ = w % 2 ^ 31 := by
  rw [mod_two_pow_eq w 24 7, mod_two_pow_eq w 16 8, mod_two_pow_eq w 8 8, mod_two_pow_eq w 3 5, mod_two_pow_eq w 1 2]
  simp only [HalfFields.pack]
  omega

theorem View.pack_parse {w : Nat} (hw : w < 2 ^ 64) : (View.parse w).pack = w := by
  refine .trans ?_ (Nat.mod_eq_of_lt hw)
  rw [mod_two_pow_eq w 62 2]
  unfold View.parse
  split
  case h_1 hform =>
    rw [mod_two_pow_eq w 54 8, mod_two_pow_eq w 47 7, mod_two_pow_eq w 38 9, mod_two_pow_eq w 29 9,
      mod_two_pow_eq w 20 9, mod_two_pow_eq w 11 9, mod_two_pow_eq w 6 5]
    simp only [View.pack]
    omega
  case h_2 hform =>
    have h0 := HalfFields.pack_cut (w / 2 ^ 31)
    simp only [Nat.div_div_eq_div_mul, Nat.reducePow, Nat.reduceMul] at h0
    rw [View.pack, HalfFields.pack_cut w]
    simp only [Nat.reducePow, h0]
    omega
  case h_3 hform =>
    rw [mod_two_pow_eq w 54 8, mod_two_pow_eq w 47 7, mod_two_pow_eq w 38 9, mod_two_pow_eq w 29 9]
    simp only [View.pack]
    omega
  case h_4 h0 h1 h2 =>
    rw [mod_two_pow_eq w 55 7, mod_two_pow_eq w 48 7, mod_two_pow_eq w 39 9, mod_two_pow_eq w 34 5, mod_two_pow_eq w 25 9,
      mod_two_pow_eq w 23 2, mod_two_pow_eq w 22 1, mod_two_pow_eq w 20 2, mod_two_pow_eq w 15 5, mod_two_pow_eq w 13 2,
      mod_two_pow_eq w 3 10]
    have hform : w / 2 ^ 62 % 4 = 3 := by simp only [imp_false] at h0 h1 h2; omega
    simp only [View.pack]
    omega

/-! ### What an opcode names (R278, R285 to R289, R360, R382) -/

/-- What an opcode of the F form names, by the layout of its word: the fields of the instruction are those of the word, and the
two forms of `ecnt` take up both values of their OPX (R278, R382). -/
def FNames (op : Nat) (r : Rounded) (m : MatrixW) (p : Plain) (i : Instr) : Layout → Prop
  | .rounded => i.view = some (r.view op) ∧ i.fits = r.fits
  | .matrix => i.view = some (m.view op) ∧ i.fits = m.fits
  | .plain => i.view = some (p.view op) ∧ i.fits = ((op != 0xC9 || decide (p.opx ≤ 1)) && p.fits)

theorem ecnt_names (p : Plain) : let i := if p.opx = 1 then Instr.ecntRd p else Instr.ecntAdd p
    i.view = some (p.view 0xC9) ∧ i.fits = (decide (p.opx ≤ 1) && p.fits) := by
  split
  · next h => simp [Instr.view, Instr.fits, h]
  · next h => simp [Instr.view, Instr.fits, show p.opx ≤ 1 ↔ p.opx = 0 by omega, Bool.and_comm, beq_eq_decide]

theorem fBuild_spec {op x : Nat} {r : Rounded} {m : MatrixW} {p : Plain} {i : Instr} {e : FForm} (he : fForm op x = some e)
    (h : fBuild op r m p = some i) : op < 256 ∧ FNames op r m p i e.layout := by
  unfold fBuild at h
  split at h
  all_goals cases h
  -- What the fields of `ctest` and `ecnt` name depends on their OPX, but not their layout.
  case h_73 =>
    have hplain : e.layout = .plain := by cases he; split <;> rfl
    rw [hplain]
    exact ⟨by decide, rfl, rfl⟩
  case h_92 =>
    have hplain : e.layout = .plain := by cases he; split <;> rfl
    rw [hplain]
    exact ⟨by decide, ecnt_names p⟩
  all_goals
    cases he
    exact ⟨by decide, rfl, rfl⟩

theorem iBuild_spec {op : Nat} {w : Imm} {i : Instr} (h : iBuild op w = some i) :
    op < 256 ∧ i.view = some (w.view op) ∧ i.fits = w.fits := by
  unfold iBuild at h
  split at h <;> cases h <;> exact ⟨by decide, rfl, rfl⟩

theorem cachectl_names (w : MemW) :
    let i := if w.size = 0 then Instr.cachectlWb w else if w.size = 1 then .cachectlEvict w else .cachectlL1drop w
    i.view = some (w.view 0x3A) ∧ i.fits = ((w.size != 3) && w.fits) := by
  split
  case isTrue h => simp [Instr.view, Instr.fits, h]
  split
  case isTrue h => simp [Instr.view, Instr.fits, h]
  case isFalse h0 h1 =>
    refine ⟨rfl, ?_⟩
    cases hw : w.fits
    case false => simp [Instr.fits, hw]
    case true =>
      have hs : w.size = 2 ∨ w.size = 3 := by
        simp only [MemW.fits, Bool.and_eq_true, decide_eq_true_eq] at hw
        omega
      rcases hs with h | h <;> simp [Instr.fits, hw, h]

theorem mBuild_spec {op : Nat} {w : MemW} {i : Instr} (h : mBuild op w = some i) :
    op < 128 ∧ i.view = some (w.view op) ∧ i.fits = ((op != 0x3A || w.size != 3) && w.fits) := by
  unfold mBuild at h
  split at h
  all_goals cases h
  case h_37 => exact ⟨by decide, cachectl_names w⟩
  all_goals exact ⟨by decide, rfl, rfl⟩

theorem pBuild_spec (op0 op1 : PairOp) (h0 h1 : Half) : (pBuild op0 h0 op1 h1).view = some (h0.view op0 op1 h1)
    ∧ (pBuild op0 h0 op1 h1).fits = (h0.fits && h1.fits) := by
  cases op0 <;> exact ⟨rfl, rfl⟩

/-! ### A word that breaks no rule is what its fields name (R276 to R290) -/

theorem View.form_of_viols_nil {op g d a b c t x : Nat} (h : (View.f op g d a b c t x).viols = []) :
    ∃ e, fForm op x = some e ∧ modViols e op t x = [] := by
  simp only [View.viols] at h
  split at h
  case h_1 => simp at h
  case h_2 e he =>
    simp only [List.append_eq_nil_iff] at h
    obtain ⟨⟨-, hmod⟩, -⟩ := h
    exact ⟨e, he, hmod⟩

theorem lt_of_modViols_nil {e : FForm} {op t x : Nat} (h : modViols e op t x = []) (he : e.layout = .matrix) : x < 32 := by
  simp only [modViols, he, List.append_eq_nil_iff, ite_eq_right_iff, reduceCtorEq, imp_false] at h
  omega

theorem opxOk_of_modViols_nil {e : FForm} {op t x : Nat} (h : modViols e op t x = []) (he : e.layout = .plain) :
    opxOk op t x = true := by
  simp only [modViols, he] at h
  split_ifs at h with _ hok
  exact hok

theorem size_ne_three_of_viols_nil {g data cap index width sgn scale t size off scope : Nat}
    (h : (View.m 0x3A g data cap index width sgn scale t size off scope).viols = []) : size ≠ 3 := by
  intro hs
  simp [View.viols, mClass, mViols, hs] at h

/-- Fields name an instruction: they are within their widths where it is within its own and they are its fields. -/
def View.Names (v : View) (i : Instr) : Prop := v.fits ↔ i.fits = true ∧ i.view = some v

theorem Rnd.code_of_ofCode_div {x : Nat} {r : Rnd} (h : Rnd.ofCode (x / 16) = some r) : r.code = x / 16 ∧ x < 64 := by
  have hr := Rnd.ofCode_eq_some_iff.1 h
  have := r.code_lt
  omega

theorem View.names_f {op g d a b c t x : Nat} {i : Instr} (hb : (View.f op g d a b c t x).build = some i)
    (hv : (View.f op g d a b c t x).viols = []) : View.Names (.f op g d a b c t x) i := by
  obtain ⟨e, he, hmod⟩ := View.form_of_viols_nil hv
  simp only [View.build] at hb
  split at hb
  case h_2 => cases hb
  case h_1 G T R hg ht hr =>
    obtain ⟨hfit, rfl⟩ := Guard.ofCode_eq_some_iff.1 hg
    obtain rfl := Tag.ofCode_eq_some_iff.1 ht
    obtain ⟨hr, hx⟩ := Rnd.code_of_ofCode_div hr
    have hG := Guard.code_lt hfit
    have hT := T.code_lt
    cases hl : e.layout with
    | rounded =>
      obtain ⟨hop, hview, hfits⟩ := hl ▸ fBuild_spec he hb
      have hsat := bit_beq_one_eq_self_iff.2 (show x / 8 % 2 < 2 by omega)
      simp only [View.Names, hview, hfits, Rounded.fits, Rounded.view, View.fits, hsat, hr, hfit, Bool.and_eq_true,
        decide_eq_true_eq, Option.some.injEq, View.f.injEq, true_and]
      omega
    | matrix =>
      obtain ⟨hop, hview, hfits⟩ := hl ▸ fBuild_spec he hb
      have := lt_of_modViols_nil hmod hl
      simp only [View.Names, hview, hfits, MatrixW.fits, MatrixW.view, View.fits, hfit, Bool.and_eq_true, decide_eq_true_eq,
        Option.some.injEq, View.f.injEq, true_and]
      omega
    | plain =>
      obtain ⟨hop, hview, hfits⟩ := hl ▸ fBuild_spec he hb
      have hecnt : (op != 0xC9 || decide (x ≤ 1)) = true := by
        have hok := opxOk_of_modViols_nil hmod hl
        by_cases h9 : op = 0xC9
        · subst h9; simpa [opxOk] using hok
        · simp [h9]
      simp only [View.Names, hview, hfits, hecnt, Plain.fits, Plain.view, View.fits, hfit, Bool.and_eq_true,
        decide_eq_true_eq, true_and, and_true]
      omega

theorem View.names_i {op g d a imm : Nat} {i : Instr} (hb : (View.i op g d a imm).build = some i) :
    View.Names (.i op g d a imm) i := by
  simp only [View.build] at hb
  split at hb
  case h_2 => cases hb
  case h_1 G hg =>
    obtain ⟨hfit, rfl⟩ := Guard.ofCode_eq_some_iff.1 hg
    have hG := Guard.code_lt hfit
    obtain ⟨hop, hview, hfits⟩ := iBuild_spec hb
    simp only [View.Names, hview, hfits, Imm.fits, Imm.view, View.fits, hfit, Bool.and_eq_true, decide_eq_true_eq, true_and,
      and_true]
    omega

theorem View.names_m {op g data cap index width sgn scale t size off scope : Nat} {i : Instr}
    (hb : (View.m op g data cap index width sgn scale t size off scope).build = some i)
    (hv : (View.m op g data cap index width sgn scale t size off scope).viols = []) :
    View.Names (.m op g data cap index width sgn scale t size off scope) i := by
  simp only [View.build] at hb
  split at hb
  case h_2 => cases hb
  case h_1 G T S hg ht hs =>
    obtain ⟨hfit, rfl⟩ := Guard.ofCode_eq_some_iff.1 hg
    obtain rfl := Tag.ofCode_eq_some_iff.1 ht
    obtain rfl := Scope.ofCode_eq_some_iff.1 hs
    have hG := Guard.code_lt hfit
    have hT := T.code_lt
    have hS := S.code_lt
    obtain ⟨hop, hview, hfits⟩ := mBuild_spec hb
    have hcache : (op != 0x3A || size != 3) = true := by
      by_cases h : op = 0x3A
      · subst h; simpa using size_ne_three_of_viols_nil hv
      · simp [h]
    simp only [View.Names, hview, hfits, hcache, MemW.fits, MemW.view, View.fits, bit_beq_one_eq_self_iff, hfit,
      Bool.and_eq_true, decide_eq_true_eq, true_and, and_true, Option.some.injEq, View.m.injEq]
    omega

theorem HalfFields.fits_iff {h : HalfFields} {op : PairOp} {w : Half} (hb : h.build = some (op, w)) :
    h.fits ↔ w.fits = true ∧ w.fields op = h := by
  unfold HalfFields.build at hb
  split at hb
  case h_2 => cases hb
  case h_1 o t r ho ht hr =>
    obtain ⟨rfl, rfl⟩ := Prod.mk.inj (Option.some.inj hb)
    have hop := PairOp.ofCode_eq_some_iff.1 ho
    have htag := Tag.ofCode_eq_some_iff.1 ht
    have hrnd := Rnd.ofCode_eq_some_iff.1 hr
    have := o.code_lt
    have := t.code_lt
    have := r.code_lt
    obtain ⟨o', d, a, t', r', s⟩ := h
    simp only [HalfFields.fits, Half.fits, Half.fields, Bool.and_eq_true, decide_eq_true_eq, HalfFields.mk.injEq,
      bit_beq_one_eq_self_iff, true_and]
    dsimp only at *
    omega

theorem View.names_p {h0 h1 : HalfFields} {i : Instr} (hb : (View.p h0 h1).build = some i) : View.Names (.p h0 h1) i := by
  simp only [View.build] at hb
  split at hb
  case h_2 => cases hb
  case h_1 op0 w0 op1 w1 e0 e1 =>
    obtain rfl := Option.some.inj hb
    obtain ⟨hview, hfits⟩ := pBuild_spec op0 op1 w0 w1
    simp only [View.Names, View.fits, HalfFields.fits_iff e0, HalfFields.fits_iff e1, hview, hfits, Half.view, Bool.and_eq_true,
      Option.some.injEq, View.p.injEq]
    tauto

theorem View.names {v : View} {i : Instr} (hb : v.build = some i) (hv : v.viols = []) : v.Names i := by
  cases v with
  | f => exact View.names_f hb hv
  | i => exact View.names_i hb
  | m => exact View.names_m hb hv
  | p => exact View.names_p hb

/-! ### Words and commands (R290, R427) -/

/-- The words that are instructions are those that break no rule and whose codes name one. -/
theorem decode_eq_ok_iff {w : Nat} {i : Instr} :
    decode w = .ok i ↔ (View.parse w).viols = [] ∧ (View.parse w).build = some i := by
  unfold decode
  by_cases hv : (View.parse w).viols = []
  · cases hb : (View.parse w).build <;> simp [hv, hb]
  · simp [hv]

theorem Instr.wf_iff {i : Instr} {v : View} (h : i.view = some v) : i.wf = true ↔ i.fits = true ∧ v.viols = [] := by
  simp [Instr.wf, h]

theorem encode_of_view {i : Instr} {v : View} (h : i.view = some v) : encode i = v.pack := by
  unfold encode
  rw [h]

/-- The fields of a well-formed instruction fit their widths and name it. -/
theorem Instr.fits_and_build {i : Instr} {v : View} (hwf : i.wf = true) (h : i.view = some v) :
    v.fits ∧ v.viols = [] ∧ v.build = some i := by
  obtain ⟨hfits, hv⟩ := (Instr.wf_iff h).1 hwf
  have hb : v.build = some i := by
    rcases Laws.Builds.statement i with hnone | hsome
    · cases hnone.symm.trans h
    · obtain ⟨v', hv', hb⟩ := hsome hfits
      obtain rfl := Option.some.inj (h.symm.trans hv')
      exact hb
  exact ⟨(View.names hb hv).2 ⟨hfits, h⟩, hv, hb⟩

/-- The 64 bytes of a command are its opcode and its operands. -/
theorem decodeCommand_eq_some_iff {w : Nat} {i : Instr} :
    decodeCommand w = some i ↔ i.command = some (w % 256, Command.ofNat w) := by
  refine ⟨fun h => ?_, fun h => ?_⟩
  · unfold decodeCommand at h
    split at h
    case h_13 => cases h
    all_goals
      next hop =>
      cases h
      rw [hop]
      rfl
  · unfold Instr.command at h
    split at h
    case h_13 => cases h
    all_goals
      obtain ⟨hop, rfl⟩ := Prod.mk.inj (Option.some.inj h)
      simp only [decodeCommand, ← hop]

theorem Instr.command_spec {i : Instr} {op : Nat} {c : Command} (h : i.command = some (op, c)) :
    i.view = none ∧ i.fits = c.fits ∧ op < 256 := by
  unfold Instr.command at h
  split at h <;> cases h <;> exact ⟨rfl, rfl, by decide⟩

theorem encode_of_command {i : Instr} {op : Nat} {c : Command} (h : i.command = some (op, c)) : encode i = c.pack op := by
  unfold encode
  rw [(Instr.command_spec h).1, h]

theorem Command.pack_lt {op : Nat} {c : Command} (hop : op < 256) (hc : c.fits = true) : c.pack op < 2 ^ 512 := by
  simp only [Command.fits, Bool.and_eq_true, decide_eq_true_eq] at hc
  unfold Command.pack
  omega

theorem Command.ofNat_pack {op : Nat} {c : Command} (hop : op < 256) (hc : c.fits = true) :
    c.pack op % 256 = op ∧ Command.ofNat (c.pack op) = c := by
  simp only [Command.fits, Bool.and_eq_true, decide_eq_true_eq] at hc
  obtain ⟨b1, ctx, up, w1, w2, w3, w4, w5, w6, w7⟩ := c
  simp only [Command.ofNat, Command.pack, Command.mk.injEq]
  dsimp only at hc
  omega

theorem Command.ofNat_fits (w : Nat) : (Command.ofNat w).fits = true := by
  simp only [Command.fits, Bool.and_eq_true, decide_eq_true_eq]
  dsimp only [Command.ofNat]
  omega

theorem Command.pack_ofNat {w : Nat} (hw : w < 2 ^ 512) : (Command.ofNat w).pack (w % 256) = w := by
  refine .trans ?_ (Nat.mod_eq_of_lt hw)
  rw [mod_two_pow_eq w 448 64, mod_two_pow_eq w 384 64, mod_two_pow_eq w 320 64, mod_two_pow_eq w 256 64, mod_two_pow_eq w 192 64,
    mod_two_pow_eq w 128 64, mod_two_pow_eq w 64 64, mod_two_pow_eq w 32 32, mod_two_pow_eq w 16 16, mod_two_pow_eq w 8 8]
  simp only [Command.pack, Command.ofNat]
  omega

end Sys2Proof

namespace Sys2Proof.Machine

/-- Settles O46: the fields of a well-formed instruction are packed into a word, parsed back from it, and name it again. -/
theorem decodeEncode : Obligations.DecodeEncode := by
  refine ⟨fun i hwf hview => ?_, fun i hwf hcmd => ?_⟩
  · obtain ⟨v, hv⟩ := Option.ne_none_iff_exists'.1 hview
    obtain ⟨hfits, hviols, hbuild⟩ := Instr.fits_and_build hwf hv
    rw [encode_of_view hv, decode_eq_ok_iff, View.parse_pack hfits]
    exact ⟨View.pack_lt hfits, hviols, hbuild⟩
  · obtain ⟨⟨op, c⟩, hc⟩ := Option.ne_none_iff_exists'.1 hcmd
    obtain ⟨hview, hfits, hop⟩ := Instr.command_spec hc
    have hcfits : c.fits = true := by simpa [Instr.wf, hview, hfits] using hwf
    obtain ⟨hmod, hofNat⟩ := Command.ofNat_pack hop hcfits
    rw [encode_of_command hc, decodeCommand_eq_some_iff, hmod, hofNat]
    exact ⟨Command.pack_lt hop hcfits, hc⟩

/-- Settles O47: the fields of the word name an instruction that has them, and they pack into the word again. -/
theorem encodeDecode : Obligations.EncodeDecode := by
  refine ⟨fun w i hw hd => ?_, fun w i hw hd => ?_⟩
  · obtain ⟨hviols, hbuild⟩ := decode_eq_ok_iff.1 hd
    obtain ⟨hfits, hview⟩ := (View.names hbuild hviols).1 (View.parse_fits w)
    exact ⟨(Instr.wf_iff hview).2 ⟨hfits, hviols⟩, (encode_of_view hview).trans (View.pack_parse hw)⟩
  · have hc := decodeCommand_eq_some_iff.1 hd
    obtain ⟨hview, hfits, -⟩ := Instr.command_spec hc
    refine ⟨?_, (encode_of_command hc).trans (Command.pack_ofNat hw)⟩
    simp [Instr.wf, hview, hfits, Command.ofNat_fits]

end Sys2Proof.Machine

/-! ### Paired words (R286) -/

namespace Sys2Proof.Machine

open Sys2Proof

/-- A paired word does both halves to the registers of each thread that passes the checks of both. -/
theorem pairedWord_register {op0 : PairOp} {mk : Half → PairOp → Half → Instr}
    (hi : ∀ h0 op1 h1 s, exec (mk h0 op1 h1) s = pairedWord op0 h0 op1 h1 s) : PairedWord op0 mk :=
  fun h0 op1 h1 s _ _ hc hu hp =>
    (hi h0 op1 h1 s).trans (laneWord_register hc hu hp (fun _ _ => rfl) fun _ => ⟨rfl, rfl, rfl⟩)

/-- Settles O13: each of the words is by definition `pairedWord` of the operation of its first half. -/
theorem pairedWords : Obligations.PairedWords := by
  unfold Obligations.PairedWords
  and_intros
  all_goals exact pairedWord_register fun _ _ _ _ => rfl

end Sys2Proof.Machine

/-! ### Words that are no instruction (R290, R291) -/

namespace Sys2Proof

/-- Whether a word that is no instruction strikes a thread: where its guard is malformed it strikes them all (R290). -/
def View.strikes (v : View) (x : Machine.Thread) : Bool :=
  match Guard.ofCode v.guardBits with
  | some gd => x.active gd
  | none => true

end Sys2Proof

namespace Sys2Proof.Machine

open Sys2Proof

/-- A turn that is done as it begins ends with its outcome. -/
theorem step_of_done {s s0 : State} {u : Turn} {o : Out} (hn : s.nextTurn = (u, s0)) (hb : beginTurn u s0 = .done o) :
    step s = finishTurn u o := by
  simp only [step, hn, hb]

/-- A word that is no instruction is performed by no one. -/
theorem issueWord_of_error {g : Machine.Group} {b : Block} {xs : List Thread} {w : Nat} {v : View} {s : State}
    (h : decode w = .error v) : issueWord g b xs w s = .done (illegalWord v g
      ((((s.unbindAt b xs).occupyFor g b 1).block? b.uid).getD b) ((s.unbindAt b xs).occupyFor g b 1)) := by
  simp only [issueWord, h]

section
variable {v : View} {hit : List Thread} {aux : Thread → Nat}

/-- The broken rule of each thread is its exception (R291). -/
theorem illegal_allTraps (haux : ∀ x ∈ hit, (leastViol (v.viols ++ allocViols v.regs x.nregs)).map Viol.aux = some (aux x)) :
    (hit.filterMap fun x => (leastViol (v.viols ++ allocViols v.regs x.nregs)).map fun u =>
      (x, (LaneRes.trap cIllegal u.aux : LaneRes Eff))) = allTraps hit fun x => (cIllegal, aux x) := by
  rw [allTraps, ← List.filterMap_eq_map]
  refine List.filterMap_congr fun x hx => ?_
  obtain ⟨u, hu, hux⟩ := Option.map_eq_some_iff.1 (haux x hx)
  rw [hu, Option.map_some, hux]
  rfl

/-- The threads that the word strikes take ILLEGAL, each with its least broken rule. -/
theorem illegalWord_traps {g : Machine.Group} {b : Block} {s : State} (hhit : (g.issuers b).filter v.strikes = hit)
    (hne : hit ≠ []) (hg : s.glitchOf b hit 1 = none)
    (haux : ∀ x ∈ hit, (leastViol (v.viols ++ allocViols v.regs x.nregs)).map Viol.aux = some (aux x)) :
    illegalWord v g b s = .next (s.trapThose g b (hit.map fun x => (x.tid, cIllegal, aux x))) := by
  subst hhit
  refine (compared_clear hg _).trans ?_
  refine (congrArg (fun rs => s.combine false g b (g.issuers b) rs fun s xs oks => s.complete g b xs oks)
    (illegal_allTraps haux)).trans ?_
  exact combine_allTraps hne

end

/-- Settles O50: the word is fetched, fails to decode, and its broken rules are judged for each thread that it strikes. -/
theorem illegalWords : Obligations.IllegalWords := by
  intro s s0 s1 core part w g sel b v aux hn hsel hb was s2 hf hd u c hit hne hg haux
  have hbegin := (beginIssue_of_fetch hsel hb hf).trans (issueWord_of_error hd)
  rw [step_of_done hn hbegin]
  exact congrArg (finishTurn (.issue core part)) (illegalWord_traps rfl hne hg haux)

end Sys2Proof.Machine

/-! ### Integer words (R301, R303 to R307, R310 to R312) -/

namespace Sys2Proof.Machine

open Sys2Proof

/-- A word whose lanes do nothing but write a vector register is a register word with that result. -/
theorem registerWord_of_vecWord {i : Instr} {f : Form} {kind d : Nat} {t : Thread → Tag} {v : Thread → Word}
    (hi : ∀ s, exec i s = laneWord [f] false kind (fun s _ _ x => (s, .ok (Eff.vec d (t x) (v x)))) s) :
    RegisterWord i [f] kind fun _ _ _ x => Eff.vec d (t x) (v x) :=
  registerWord_of_lane hi (fun _ _ _ _ => rfl) fun _ => Eff.inner_vec _ _ _

/-- A word built by `elemWord` computes each element as any function does that agrees with its own on elements. -/
theorem registerWord_of_elemWord {i : Instr} {op n : Nat} {f g : Nat → Nat → Nat → Nat} {w : Rounded}
    (hi : ∀ s, exec i s = elemWord op n f w s) (hfg : ∀ p q r, p < 2 ^ w.tag.width → f p q r = g p q r) :
    RegisterWord i [w.form op (w.rawSrcs n)] 1 fun _ _ _ x => Eff.vec w.d w.tag (elementwise w x g) := by
  refine (registerWord_of_vecWord hi).congr fun x => ?_
  have hmap := List.map_congr_left (l := List.range w.tag.ne) fun k _ =>
    hfg _ (elem w.tag.width (x.vreg w.b).val k) (elem w.tag.width (x.vreg w.c).val k) (elem_lt w.tag.width (x.vreg w.a).val k)
  exact congrArg (fun es => Eff.vec w.d w.tag (packWord w.tag.width es)) hmap

/-- A word built by `intWord` narrows the exact result, however that is written, of the values of its elements (R256). -/
theorem registerWord_of_intWord {i : Instr} {op n : Nat} {f : Int → Int → Int → Int} {z : Nat → Nat → Nat → Int} {w : Rounded}
    (hi : ∀ s, exec i s = intWord op n f w s)
    (hz : ∀ p q r, f (intVal w.tag p) (intVal w.tag q) (intVal w.tag r) = z p q r) :
    RegisterWord i [w.form op (w.rawSrcs n)] 1 fun _ _ _ x =>
      Eff.vec w.d w.tag (elementwise w x fun p q r => narrowed w (z p q r)) :=
  registerWord_of_elemWord hi fun p q r _ => congrArg (narrow w.tag w.sat) (hz p q r)

/-- A word that works bit by bit on the elements of a and b works so on all 64 bits, whatever its tag (R304). -/
theorem registerWord_of_bitwise {i : Instr} {op n : Nat} {f : Nat → Nat → Nat} {w : Rounded}
    (hi : ∀ s, exec i s = elemWord op n (fun p q _ => f p q) w s) (h : Bool → Bool → Bool) {z : Word → Word → Word}
    (hf : ∀ p q j, p < 2 ^ w.tag.width → q < 2 ^ w.tag.width → j < w.tag.width →
      (f p q).testBit j = h (p.testBit j) (q.testBit j))
    (hz : ∀ u v k, k < 64 → (z u v).getLsbD k = h (u.getLsbD k) (v.getLsbD k)) :
    RegisterWord i [w.form op (w.rawSrcs n)] 1 fun _ _ _ x => Eff.vec w.d w.tag (z (x.vreg w.a).val (x.vreg w.b).val) :=
  (registerWord_of_elemWord hi fun _ _ _ _ => rfl).congr fun _ =>
    congrArg (Eff.vec w.d w.tag) (packWord_bitwise w.tag _ _ f h _ hf (hz _ _))

/-! #### Elements -/

/-- The magnitude of an element's value; an unsigned value is its own (R303). -/
theorem absZ_intVal (t : Tag) (p : Nat) : absZ t (intVal t p) = (intVal t p).natAbs := by
  cases h : t.isSigned <;> simp [absZ, intVal, h]

theorem notE_testBit {w x j : Nat} (hx : x < 2 ^ w) (hj : j < w) : (notE w x).testBit j = !(x.testBit j) := by
  rw [notE, Nat.sub_sub, Nat.add_comm, Nat.testBit_two_pow_sub_succ hx]
  simp [hj]

/-- A left shift by W or more leaves no bit of the element (R304). -/
theorem shlE_eq (w x n : Nat) : shlE w x n = x * 2 ^ n % 2 ^ w := by
  unfold shlE
  split
  case isTrue h => exact (Nat.mod_eq_zero_of_dvd ((Nat.pow_dvd_pow 2 h).mul_left x)).symm
  case isFalse => rfl

/-- A right shift by W or more leaves nothing of the element (R304). -/
theorem shrE_eq {w x : Nat} (n : Nat) (hx : x < 2 ^ w) : shrE w x n = x / 2 ^ n := by
  unfold shrE
  split
  case isTrue h => exact (Nat.div_eq_of_lt (hx.trans_le (Nat.pow_le_pow_right Nat.two_pos h))).symm
  case isFalse => rfl

theorem sext_bounds {w x : Nat} (hx : x < 2 ^ w) : -((2 ^ w : Nat) : Int) ≤ sext w x ∧ sext w x < ((2 ^ w : Nat) : Int) := by
  unfold sext
  split <;> omega

/-- A divisor above a value's magnitude leaves its sign, 0 or -1, so all greater ones do alike. -/
theorem ediv_eq_of_bounds {z a b : Int} (hl : -a ≤ z) (hu : z < a) (hab : a ≤ b) : z / a = z / b := by
  rcases Int.lt_or_le z 0 with hz | hz
  · rw [Int.ediv_eq_neg_one_of_neg_of_le hz (by omega), Int.ediv_eq_neg_one_of_neg_of_le hz (by omega)]
  · rw [Int.ediv_eq_zero_of_lt hz hu, Int.ediv_eq_zero_of_lt hz (by omega)]

/-- An arithmetic shift by W or more leaves the sign alone (R304). -/
theorem sarE_eq {w x : Nat} (n : Nat) (hx : x < 2 ^ w) : sarE w x n = wrap w (sext w x / (2 ^ n : Nat)) := by
  unfold sarE
  split
  case isTrue h =>
    have hpow : ((2 ^ w : Nat) : Int) ≤ (2 ^ n : Nat) := Int.ofNat_le.2 (Nat.pow_le_pow_right Nat.two_pos h)
    rw [ediv_eq_of_bounds (sext_bounds hx).1 (sext_bounds hx).2 hpow]
  case isFalse => rfl

/-- The bits that a rotation turns out of the top stand below those that it moves up (R304). -/
theorem rotE_eq {w x : Nat} (n : Nat) (hw : 0 < w) (hx : x < 2 ^ w) :
    rotE w x n = (x * 2 ^ (n % w) + x / 2 ^ (w - n % w)) % 2 ^ w := by
  rw [rotE]
  have hk : n % w < w := Nat.mod_lt n hw
  generalize n % w = k at hk ⊢
  obtain ⟨m, rfl⟩ : ∃ m, w = m + k := ⟨w - k, by omega⟩
  rw [Nat.add_sub_cancel]
  rw [Nat.pow_add] at hx ⊢
  have hhi : x / 2 ^ m < 2 ^ k := Nat.div_lt_of_lt_mul hx
  have hlo : x % 2 ^ m < 2 ^ m := Nat.mod_lt x (Nat.two_pow_pos m)
  have hlt : x * 2 ^ k % (2 ^ m * 2 ^ k) + x / 2 ^ m < 2 ^ m * 2 ^ k := by
    calc x * 2 ^ k % (2 ^ m * 2 ^ k) + x / 2 ^ m
        < x % 2 ^ m * 2 ^ k + 2 ^ k := by rw [Nat.mul_mod_mul_right]; omega
      _ = (x % 2 ^ m + 1) * 2 ^ k := (Nat.succ_mul _ _).symm
      _ ≤ 2 ^ m * 2 ^ k := Nat.mul_le_mul_right _ hlo
  rw [← Nat.mod_add_mod, Nat.mod_eq_of_lt hlt]

/-- Ones are counted bit by bit (R304). -/
theorem popcount_eq (n x : Nat) : popcount n x = ((List.range n).filter fun j => x.testBit j).length := by
  induction n generalizing x with
  | zero => rfl
  | succ n ih =>
    rw [popcount, ih, List.range_succ_eq_map, List.filter_cons, List.filter_map, Nat.testBit_zero]
    rcases Nat.mod_two_eq_zero_or_one x with h | h <;> simp [h, Function.comp_def, Nat.testBit_succ, Nat.add_comm]

/-- Settles O1: each word but `mov` is by definition `intWord` of its exact result. -/
theorem integerArithmetic : Obligations.IntegerArithmetic :=
  ⟨fun _ => registerWord_of_vecWord fun _ => rfl,
    fun _ => registerWord_of_intWord (f := fun x y _ => addZ x y) (fun _ => rfl) fun _ _ _ => rfl,
    fun _ => registerWord_of_intWord (f := fun x y _ => subZ x y) (fun _ => rfl) fun _ _ _ => rfl,
    fun _ => registerWord_of_intWord (f := fun x y _ => mulZ x y) (fun _ => rfl) fun _ _ _ => rfl,
    fun w => registerWord_of_intWord (f := fun x y _ => x * y / (2 ^ w.tag.width : Nat)) (fun _ => rfl) fun _ _ _ => by
      rw [Nat.cast_pow, Nat.cast_ofNat],
    fun _ => registerWord_of_intWord (f := fun x y z => x * y + z) (fun _ => rfl) fun _ _ _ => rfl,
    fun _ => registerWord_of_intWord (f := fun x y _ => minZ x y) (fun _ => rfl) fun _ _ _ => (min_def _ _).symm,
    fun _ => registerWord_of_intWord (f := fun x y _ => maxZ x y) (fun _ => rfl) fun _ _ _ => (max_def' _ _).symm,
    fun w => registerWord_of_intWord (f := fun x _ _ => absZ w.tag x) (fun _ => rfl) fun p _ _ => absZ_intVal w.tag p,
    fun _ => registerWord_of_intWord (f := fun x _ _ => negZ x) (fun _ => rfl) fun _ _ _ => rfl⟩

/-- Settles O2: each word is by definition `elemWord` of its function of elements. -/
theorem bitwiseAndShifts : Obligations.BitwiseAndShifts :=
  ⟨fun _ => registerWord_of_bitwise (f := (· &&& ·)) (fun _ => rfl) (· && ·) (fun p q j _ _ _ => Nat.testBit_and p q j)
      fun _ _ _ _ => BitVec.getLsbD_and,
    fun _ => registerWord_of_bitwise (f := (· ||| ·)) (fun _ => rfl) (· || ·) (fun p q j _ _ _ => Nat.testBit_or p q j)
      fun _ _ _ _ => BitVec.getLsbD_or,
    fun _ => registerWord_of_bitwise (f := (· ^^^ ·)) (fun _ => rfl) (· ^^ ·) (fun p q j _ _ _ => Nat.testBit_xor p q j)
      fun _ _ _ _ => BitVec.getLsbD_xor,
    fun w => registerWord_of_bitwise (f := fun p _ => notE w.tag.width p) (z := fun u _ => ~~~u) (fun _ => rfl) (fun c _ => !c)
      (fun _ _ _ hp _ hj => notE_testBit hp hj) fun _ _ _ hk => by simp [hk],
    fun w => registerWord_of_bitwise (f := andnE w.tag.width) (z := fun u v => u &&& ~~~v) (fun _ => rfl) (fun c d => c && !d)
      (fun _ _ _ _ hq hj => by rw [andnE, Nat.testBit_and, notE_testBit hq hj]) fun _ _ _ hk => by simp [hk],
    fun w => registerWord_of_elemWord (f := fun x n _ => shlE w.tag.width x n) (fun _ => rfl) fun p n _ _ => shlE_eq _ p n,
    fun w => registerWord_of_elemWord (f := fun x n _ => shrE w.tag.width x n) (fun _ => rfl) fun _ n _ hp => shrE_eq n hp,
    fun w => registerWord_of_elemWord (f := fun x n _ => sarE w.tag.width x n) (fun _ => rfl) fun _ n _ hp => sarE_eq n hp,
    fun w => registerWord_of_elemWord (f := fun x n _ => rotE w.tag.width x n) (fun _ => rfl) fun _ n _ hp =>
      rotE_eq n (Tag.width_pos w.tag) hp,
    fun w => registerWord_of_elemWord (f := fun x _ _ => clzE w.tag.width x) (fun _ => rfl) fun p _ _ _ => by
      rw [clzE, Nat.sub_sub, Nat.add_comm],
    fun w => registerWord_of_elemWord (f := fun x _ _ => popcount w.tag.width x) (fun _ => rfl) fun p _ _ _ => popcount_eq _ p,
    fun w => registerWord_of_elemWord (f := fun x _ _ => brevE w.tag.width x) (fun _ => rfl) fun _ _ _ _ => rfl⟩

/-! #### Halves of a register (R311) -/

theorem packWord_halves (u v : Word) :
    packWord 32 [elem 32 u 0, elem 32 v 0] = (v.extractLsb' 0 32).append (u.extractLsb' 0 32) := by
  have happend := BitVec.toNat_append (v.extractLsb' 0 32) (u.extractLsb' 0 32)
  rw [← Nat.shiftLeft_add_eq_or_of_lt (BitVec.isLt _), Nat.shiftLeft_eq] at happend
  refine BitVec.eq_of_toNat_eq (.trans ?_ happend.symm)
  simp only [packWord, packNat, elem, bits, BitVec.toNat_ofNat, BitVec.extractLsb'_toNat, Nat.shiftRight_eq_div_pow]
  omega

theorem packWord_half (u : Word) (k : Nat) : packWord 32 [elem 32 u k] = (u.extractLsb' (32 * k) 32).setWidth 64 := by
  refine BitVec.eq_of_toNat_eq ?_
  simp only [packWord, packNat, elem, bits, BitVec.toNat_ofNat, BitVec.toNat_setWidth, BitVec.extractLsb'_toNat,
    Nat.shiftRight_eq_div_pow]
  omega

/-! #### Tests of elements (R307) -/

theorem all_range_eq (n : Nat) (f : Nat → Bool) : (List.range n).all f = decide (∀ i < n, f i = true) := by
  rw [Bool.eq_iff_iff]
  simp

theorem execCmp_register (w : Rounded) : RegisterWord (.cmp w) [{ w.form 0x19 (w.rawSrcs 2) with dV := [], dP := [w.d] }] 1
    fun _ _ _ x => predResult w.d ((List.range w.tag.ne).all fun i => condHolds w.sub
      (intVal w.tag (elem w.tag.width (x.vreg w.a).val i)) (intVal w.tag (elem w.tag.width (x.vreg w.b).val i))) :=
  registerWord_of_lane (fun _ => rfl) (fun _ _ _ _ => rfl) fun _ => Eff.inner_pred _ _

/-- Settles O3: each word is its function on the threads that pass, and the model's way of writing each is the statement's. -/
theorem fieldsSelectCompare : Obligations.FieldsSelectCompare := by
  refine ⟨fun w => registerWord_of_elemWord (f := fun x y _ => bfxE w.tag x y) (fun _ => rfl) fun _ _ _ _ => rfl,
    fun w => registerWord_of_elemWord (f := fun x y z => bfiE w.tag.width x y z) (fun _ => rfl) fun _ _ _ _ => rfl,
    fun w => (registerWord_of_vecWord (fun _ => rfl)).congr fun x => ?_,
    fun w => (execCmp_register w).congr fun x => congrArg (predResult w.d) (all_range_eq _ _),
    fun w => registerWord_of_vecWord fun _ => rfl,
    fun w => (registerWord_of_vecWord (fun _ => rfl)).congr fun x => congrArg (Eff.vec w.d w.tag) (packWord_halves _ _),
    fun w => (registerWord_of_vecWord (fun _ => rfl)).congr fun x => congrArg (Eff.vec w.d w.tag) (packWord_half _ _),
    fun w => registerWord_of_vecWord fun _ => rfl⟩
  split <;> rfl

end Sys2Proof.Machine

/-! ### Predicate words (R309) -/

namespace Sys2Proof.Machine

open Sys2Proof

/-- A word built by `predWord` writes the predicate that its function gives, however that is written. -/
theorem registerWord_of_predWord {i : Instr} {op : Nat} {srcs : List Src} {f r : Thread → Bool} {w : Plain}
    (hi : ∀ s, exec i s = predWord op srcs f w s) (hr : ∀ x, f x = r x) :
    RegisterWord i [{ w.form op srcs with dV := [], dP := [w.d] }] 1 fun _ _ _ x => predResult w.d (r x) :=
  (registerWord_of_lane hi (fun _ _ _ _ => rfl) fun x => Eff.inner_pred w.d (f x)).congr fun x =>
    congrArg (predResult w.d) (hr x)

theorem bitAt_eq_testBit (x i : Nat) : bitAt x i = x.testBit i := by
  rw [bitAt, Nat.testBit_eq_decide_div_mod_eq, beq_eq_decide]

/-- Settles O4: each word is by definition `predWord` of its function of a thread. -/
theorem predicates : Obligations.Predicates :=
  ⟨fun w => registerWord_of_predWord (fun _ => rfl) fun _ => rfl,
    fun w => registerWord_of_predWord (fun _ => rfl) fun _ => rfl,
    fun w => registerWord_of_predWord (fun _ => rfl) fun _ => congrFun (congrFun Bool.bne_eq_xor _) _,
    fun w => registerWord_of_predWord (fun _ => rfl) fun _ => rfl,
    fun w => registerWord_of_predWord (fun _ => rfl) fun x => bitAt_eq_testBit (x.vreg w.a).val.toNat w.opx,
    fun w => registerWord_of_predWord (fun _ => rfl) fun _ => by rw [Nat.testBit_zero, beq_eq_decide]⟩

end Sys2Proof.Machine

/-! ### Words with an immediate operand (R316 to R318) -/

namespace Sys2Proof.Machine

open Sys2Proof

theorem wordOf_eq_ofInt (z : Int) : wordOf z = BitVec.ofInt 64 z := by
  refine BitVec.eq_of_toNat_eq ?_
  rw [wordOf, BitVec.toNat_ofNat, BitVec.toNat_ofInt, wrap]
  omega

/-- The low n bits of a number read as two's complement are the value of those bits. -/
theorem sext_mod_two_pow {n : Nat} (v : Nat) (hn : 0 < n) : sext n (v % 2 ^ n) = (BitVec.ofNat n v).toInt := by
  have hpow : 2 ^ n = 2 * 2 ^ (n - 1) := by rw [← Nat.pow_succ']; congr 1; omega
  rw [BitVec.toInt_eq_toNat_cond, BitVec.toNat_ofNat, sext]
  split_ifs <;> omega

/-- The low n bits of an immediate extended by their sign to 64 bits (R316). -/
theorem wordOf_sext_mod_two_pow {n : Nat} (v : Nat) (hn : 0 < n) :
    wordOf (sext n (v % 2 ^ n)) = BitVec.signExtend 64 (BitVec.ofNat n v) := by
  rw [sext_mod_two_pow v hn, wordOf_eq_ofInt]
  rfl

theorem Imm.imm_lt {w : Imm} (h : w.fits = true) : w.imm < 2 ^ 29 := by
  simp only [Imm.fits, Bool.and_eq_true, decide_eq_true_eq] at h
  exact h.2

/-- The immediate of a word that fits its fields, extended by its sign (R317). -/
theorem wordOf_sext_imm {w : Imm} (h : w.fits = true) :
    wordOf (sext 29 w.imm) = BitVec.signExtend 64 (BitVec.ofNat 29 w.imm) := by
  rw [← wordOf_sext_mod_two_pow w.imm (by decide), Nat.mod_eq_of_lt (Imm.imm_lt h)]

/-- The 35 bits of `movi`: the low 6 of field a above the immediate (R316). -/
theorem wordOf_sext_movi {w : Imm} (h : w.fits = true) :
    wordOf (sext 35 (w.a % 64 * 2 ^ 29 + w.imm)) = BitVec.signExtend 64 (BitVec.ofNat 35 (w.a * 2 ^ 29 + w.imm)) := by
  have himm := Imm.imm_lt h
  rw [← wordOf_sext_mod_two_pow _ (by decide), show w.a % 64 * 2 ^ 29 + w.imm = (w.a * 2 ^ 29 + w.imm) % 2 ^ 35 by omega]

/-- The immediate of `movhi` stands above the low 35 bits of its source (R316). -/
theorem ofNat_above_low35 (k : Nat) (v : Word) : BitVec.ofNat 64 (k * 2 ^ 35 + bits v.toNat 0 35) =
    BitVec.ofNat 64 k <<< 35 ||| v &&& BitVec.ofNat 64 (2 ^ 35 - 1) := by
  refine BitVec.eq_of_getLsbD_eq fun j hj => ?_
  rw [BitVec.getLsbD_ofNat, Nat.mul_comm k, Nat.testBit_two_pow_mul_add _ (bits_lt ..), testBit_bits, BitVec.testBit_toNat,
    BitVec.getLsbD_or, BitVec.getLsbD_and, BitVec.getLsbD_shiftLeft, BitVec.getLsbD_ofNat, BitVec.getLsbD_ofNat,
    Nat.testBit_two_pow_sub_one]
  rcases Nat.lt_or_ge j 35 with h | h
  · simp [h, hj]
  · simp [Nat.not_lt.2 h, hj, show j - 35 < 64 by omega]

theorem execCmpi_register (w : Imm) : RegisterWord (.cmpi w) [{ w.form 0x05 [srcWord 0 w.a] with dV := [], dP := [w.d] }] 1
    fun _ _ _ x => let k := wordOf (sext 26 (bits w.imm 0 26))
      predResult w.d (if (x.vreg w.a).tag = .u64 then condHolds (w.imm / 2 ^ 26) (x.vreg w.a).val.toNat k.toNat
                      else condHolds (w.imm / 2 ^ 26) (x.vreg w.a).val.toInt k.toInt) :=
  registerWord_of_lane (fun _ => rfl) (fun _ _ _ _ => rfl) fun _ => Eff.inner_pred _ _

/-- Settles O6: the immediates that the model extends as numbers are the words that the statement extends as bits. -/
theorem immediates : Obligations.Immediates := by
  refine ⟨fun w hw => (registerWord_of_vecWord fun _ => rfl).congr fun x => ?_,
    fun w => (registerWord_of_vecWord fun _ => rfl).congr fun x => congrArg (Eff.vec w.d .raw) (ofNat_above_low35 _ _),
    fun w hw => (registerWord_of_vecWord fun _ => rfl).congr fun x => ?_,
    fun w hw => (registerWord_of_vecWord fun _ => rfl).congr fun x => ?_,
    fun w => registerWord_of_vecWord fun _ => rfl,
    fun w => (execCmpi_register w).congr fun x => ?_⟩
  · rw [wordOf_sext_movi hw]
  · rw [wordOf_sext_imm hw]
  · rw [wordOf_sext_imm hw]
  · rw [← wordOf_sext_mod_two_pow w.imm (by decide), bits, Nat.pow_zero, Nat.div_one]

end Sys2Proof.Machine

/-! ### Transfers (R320) -/

namespace Sys2Proof.Machine

open Sys2Proof

/-- `call` with its return address as the model computes it. -/
theorem execCall_register (w : Imm) : RegisterWord (.call w) [w.form 0x11 []] 1 fun _ _ _ x =>
    { Eff.vec w.d .u64 (wordOf (x.pc + 8)) with pc := some (relTarget x w.imm), branch := some (1, relTarget x w.imm) } :=
  registerWord_of_lane (fun _ => rfl) (fun _ _ _ _ => rfl) fun _ => ⟨rfl, rfl, rfl⟩

/-- Settles O7: each transfer is its effect on the threads that pass. -/
theorem controlTransfer : Obligations.ControlTransfer := by
  refine ⟨fun w => registerWord_of_lane (fun _ => rfl) (fun _ _ _ _ => rfl) fun _ => ⟨rfl, rfl, rfl⟩,
    fun w => (execCall_register w).congr fun x => ?_,
    fun w => registerWord_of_lane (fun _ => rfl) (fun _ _ _ _ => rfl) fun _ => ⟨rfl, rfl, rfl⟩,
    fun w => registerWord_of_lane (fun _ => rfl) (fun _ _ _ _ => rfl) fun _ => ⟨rfl, rfl, rfl⟩,
    fun w => registerWord_of_lane (fun _ => rfl) (fun _ _ _ _ => rfl) fun x => ?_,
    fun w => registerWord_of_lane (fun _ => rfl) (fun _ _ _ _ => rfl) fun _ => ⟨rfl, rfl, rfl⟩⟩
  · rw [wordOf_eq_ofInt]
    rfl
  · dsimp only
    split <;> exact ⟨rfl, rfl, rfl⟩

end Sys2Proof.Machine

/-! ### The words that the manual writes out (R308, R363, R372, R385) -/

namespace Sys2Proof.Machine

open Sys2Proof

/-- Settles O48: each word is decoded as it stands. -/
theorem writtenWords : Obligations.WrittenWords := by
  unfold Obligations.WrittenWords
  and_intros
  all_goals rfl

end Sys2Proof.Machine

/-! ### Floating words (R322 to R335) -/

namespace Sys2Proof.Machine

open Sys2Proof

theorem Eff.inner_floats (d : Nat) (t : Tag) (rs : List FRes) : (Eff.floats d t rs).inner := ⟨rfl, rfl, rfl⟩

/-- A word whose lanes write a register of element results with their flags is a register word with those. -/
theorem registerWord_of_floats {i : Instr} {f : Form} {kind d : Nat} {t : Tag} {rs : Thread → List FRes}
    (hi : ∀ s, exec i s = laneWord [f] false kind (fun s _ _ x => (s, .ok (Eff.floats d t (rs x)))) s) :
    RegisterWord i [f] kind fun _ _ _ x => Eff.floats d t (rs x) :=
  registerWord_of_lane hi (fun _ _ _ _ => rfl) fun _ => Eff.inner_floats _ _ _

/-- A word built by `floatWord` computes each element as its function does, and joins the flags of all (R266). -/
theorem registerWord_of_floatWord {i : Instr} {op n kind : Nat} {f : Nat → Nat → Nat → FRes} {w : Rounded}
    (hi : ∀ s, exec i s = floatWord op n kind f w s) :
    RegisterWord i [w.form op (exactSrcs w n)] kind fun _ _ _ x => floatwise w x f :=
  registerWord_of_floats hi

/-- Settles O10: each word is by definition `floatWord` of its function of elements, in the datapath of the special functions. -/
theorem specialFunctions : Obligations.SpecialFunctions := by
  and_intros
  all_goals exact fun w => registerWord_of_floatWord fun _ => rfl

/-! #### The sign of an element (R325) -/

/-- The functions of elements agree, so the words do. -/
theorem floatwise_congr {w : Rounded} {f g : Nat → Nat → Nat → FRes} (h : ∀ p q r, p < 2 ^ w.tag.width → f p q r = g p q r)
    (x : Thread) : floatwise w x f = floatwise w x g := by
  have hmap := List.map_congr_left (l := List.range w.tag.ne) fun k _ =>
    h _ (elem w.tag.width (x.vreg w.b).val k) (elem w.tag.width (x.vreg w.c).val k) (elem_lt w.tag.width (x.vreg w.a).val k)
  exact congrArg (Eff.floats w.d w.tag) hmap

/-- The sign is the top bit of an element of a float tag (R261). -/
theorem signBit_fmtOf {t : Tag} (h : t.isFloat = true) : (fmtOf t).signBit = 2 ^ (t.width - 1) := by
  cases t <;> cases h <;> rfl

theorem two_mul_two_pow_pred_width (t : Tag) : 2 * 2 ^ (t.width - 1) = 2 ^ t.width := by
  rw [← Nat.pow_succ', Nat.succ_eq_add_one, Nat.sub_add_cancel (Tag.width_pos t)]

/-- The inverted sign of a code is its top bit turned over (R325). -/
theorem signed_not_isNeg {f : Fmt} {p : Nat} (hp : p < 2 * f.signBit) :
    f.signed (!(f.isNeg p)) (f.mag p) = (p + f.signBit) % (2 * f.signBit) := by
  have hpos : 0 < f.signBit := Nat.two_pow_pos _
  rw [Fmt.signed, Fmt.isNeg, Fmt.mag]
  rcases Nat.lt_or_ge p f.signBit with h | h
  · rw [Nat.div_eq_of_lt h, Nat.mod_eq_of_lt h, Nat.add_comm p, Nat.mod_eq_of_lt (by omega : f.signBit + p < 2 * f.signBit)]
    rfl
  · obtain ⟨m, rfl⟩ := Nat.exists_eq_add_of_le h
    have hm : m < f.signBit := by omega
    rw [Nat.add_div_left m hpos, Nat.div_eq_of_lt hm, Nat.add_mod_left, Nat.mod_eq_of_lt hm,
      show f.signBit + m + f.signBit = m + 2 * f.signBit by omega, Nat.add_mod_right,
      Nat.mod_eq_of_lt (by omega : m < 2 * f.signBit)]
    rfl

theorem fabsE_eq {t : Tag} (h : t.isFloat = true) (p : Nat) : fabsE (fmtOf t) p = (p % 2 ^ (t.width - 1), 0) := by
  rw [fabsE, Fmt.mag, signBit_fmtOf h]

theorem fnegE_eq {t : Tag} (h : t.isFloat = true) {p : Nat} (hp : p < 2 ^ t.width) :
    fnegE (fmtOf t) p = ((p + 2 ^ (t.width - 1)) % 2 ^ t.width, 0) := by
  rw [← two_mul_two_pow_pred_width t, ← signBit_fmtOf h] at hp ⊢
  rw [fnegE, signed_not_isNeg hp]

/-- Settles O8: each word but `fscale` is by definition `floatWord` of its function of elements. -/
theorem floatArithmetic : Obligations.FloatArithmetic := by
  refine ⟨fun w => registerWord_of_floatWord fun _ => rfl,
    fun w => registerWord_of_floatWord fun _ => rfl,
    fun w => registerWord_of_floatWord fun _ => rfl,
    fun w => registerWord_of_floatWord fun _ => rfl,
    fun w => registerWord_of_floatWord fun _ => rfl,
    fun w => registerWord_of_floatWord fun _ => rfl,
    fun w => registerWord_of_floatWord fun _ => rfl,
    fun w => registerWord_of_floatWord fun _ => rfl,
    fun w ht => (registerWord_of_floatWord (f := fun p _ _ => fabsE (fmtOf w.tag) p) fun _ => rfl).congr
      (floatwise_congr fun p _ _ _ => fabsE_eq ht p),
    fun w ht => (registerWord_of_floatWord (f := fun p _ _ => fnegE (fmtOf w.tag) p) fun _ => rfl).congr
      (floatwise_congr fun _ _ _ hp => fnegE_eq ht hp),
    fun w => registerWord_of_floats fun _ => rfl,
    fun w => registerWord_of_floatWord fun _ => rfl⟩

/-! #### Compare, classify, dot products and conversions (R327, R328, R330 to R333) -/

/-- Result element k of `dot2` or `dot4` as the model computes it (R330). -/
def dotElem (n : Nat) (w : Rounded) (x : Thread) (k : Nat) : FRes :=
  if n * k + n ≤ w.tag.ne then
    dotSum (fmtOf w.tag) w.rnd ((span (n * k) n).map fun i => ((w.elemsAt x i).1, (w.elemsAt x i).2.1))
      (if w.sub % 2 == 1 then some (elem 32 (x.vreg w.c).val k) else none)
  else (0, 0)

theorem floats_dotElem (n : Nat) (w : Rounded) (x : Thread) :
    Eff.floats w.d .f32x2 [dotElem n w x 0, dotElem n w x 1] = dotResult n w x := by
  have hflags : flagsOf [dotElem n w x 0, dotElem n w x 1] = (dotElem n w x 0).2 ||| (dotElem n w x 1).2 :=
    congrArg (· ||| _) (Nat.zero_or _)
  rw [Eff.floats, hflags]
  rfl

theorem registerWord_of_dotWord {i : Instr} {op n : Nat} {w : Rounded} (hi : ∀ s, exec i s = dotWord op n w s) :
    RegisterWord i [w.form op ([srcExact 0 w.a w.tag, srcExact 1 w.b w.tag] ++ if w.sub % 2 == 1 then [srcExact 2 w.c .f32x2] else [])]
      1 fun _ _ _ x => dotResult n w x :=
  (registerWord_of_floats (rs := fun x => [dotElem n w x 0, dotElem n w x 1]) hi).congr fun x => floats_dotElem n w x

/-- Settles O9: each word is by definition its function on the threads that pass. -/
theorem floatOther : Obligations.FloatOther := by
  refine ⟨fun w => registerWord_of_lane (fun _ => rfl) (fun _ _ _ _ => rfl) fun _ => ⟨rfl, rfl, rfl⟩,
    fun w => registerWord_of_vecWord fun _ => rfl,
    fun w => registerWord_of_dotWord fun _ => rfl,
    fun w => registerWord_of_dotWord fun _ => rfl,
    fun w => registerWord_of_floats fun _ => rfl,
    fun w => registerWord_of_floats fun _ => rfl,
    fun w => registerWord_of_floats fun _ => rfl,
    fun w => registerWord_of_floats fun _ => rfl,
    fun w => ?_⟩
  have hmax : ((2 ^ (w.tag.width - 1) - 1 : Nat) : Int) = 2 ^ (w.tag.width - 1) - 1 := by
    rw [Nat.cast_sub Nat.one_le_two_pow, Nat.cast_pow]
    rfl
  rw [← hmax]
  exact registerWord_of_floats fun _ => rfl

end Sys2Proof.Machine

/-! ### Cross-lane words (R336 to R343) -/

namespace Sys2Proof.Machine

open Sys2Proof

/-- Where every active thread passes the checks of the word, all of them take part (R336). -/
theorem participants_of_passes {fs : List Form} {act : List Thread} (h : Passes fs act) : participants fs act = act :=
  List.filter_eq_self.2 fun x hx => Option.isNone_iff_eq_none.2 (h x hx)

/-- A word built by `crossWord` has the effect that its function gives from the active threads. -/
theorem registerWord_of_crossWord {i : Instr} {f : Form} {lane : List Thread → Thread → Eff}
    (hi : ∀ s, exec i s = crossWord f lane s) (hin : ∀ act x, (lane act x).inner) :
    RegisterWord i [f] 1 fun _ _ act x => lane act x := by
  intro s g b hc hu hp
  refine (hi s).trans (laneWord_register hc hu hp (fun x _ => ?_) fun x => hin (actives f.guard g b) x)
  rw [participants_of_passes (act := actives f.guard g b) hp]
  rfl

/-- The same word with its effect written in another way. -/
theorem RegisterWord.congr_act {i : Instr} {fs : List Form} {kind : Nat} {e e' : List Thread → Thread → Eff}
    (h : RegisterWord i fs kind fun _ _ act x => e act x) (he : ∀ act x, e act x = e' act x) :
    RegisterWord i fs kind fun _ _ act x => e' act x := by
  rwa [← show e = e' from funext fun act => funext (he act)]

/-- A word that applies a function to spans gives each participant its results (R342). -/
theorem registerWord_of_spanWord {i : Instr} {op : Nat} {t : Tag} {f : List Nat → List Nat × Nat} {w : Plain}
    (hi : ∀ s, exec i s = spanWord op t f w s) :
    RegisterWord i [w.form op [spanSrc w]] 1 fun _ _ act x => spanResult w t f act x :=
  registerWord_of_crossWord hi fun _ _ => ⟨rfl, rfl, rfl⟩

/-- A vote that is neither `all` nor `any` passes where all the participants agree (R340). -/
theorem voteOf_uni {mode : Nat} (h0 : mode ≠ 0) (h1 : mode ≠ 1) (act : List Thread) (p : Thread → Bool) :
    voteOf mode (act.map p) = (act.all p || act.all fun y => !p y) := by
  rw [voteOf, List.all_map, List.any_map, List.all_eq_not_any_not (p := fun y => !p y)]
  · simp only [Function.id_comp, Bool.not_not]
  · exact h0
  · exact h1

theorem execVote_register (w : Plain) : RegisterWord (.vote w) [{ w.form 0x83 [] with dV := [], dP := [w.d] }] 1
    fun _ _ act _ => predResult w.d (voteOf w.opx (act.map fun y => y.pred w.a)) :=
  registerWord_of_crossWord (fun _ => rfl) fun _ _ => Eff.inner_pred _ _

/-- Settles O11: each word is by definition `crossWord` of its function of the participants. -/
theorem laneWords : Obligations.LaneWords := by
  refine ⟨fun w => registerWord_of_crossWord (fun _ => rfl) fun _ _ => Eff.inner_vec _ _ _,
    fun w => registerWord_of_crossWord (fun _ => rfl) fun _ _ => Eff.inner_vec _ _ _,
    fun w => registerWord_of_crossWord (fun _ => rfl) fun _ _ => Eff.inner_vec _ _ _,
    fun w => (execVote_register w).congr_act fun act _ => ?_,
    fun w => registerWord_of_crossWord (fun _ => rfl) fun _ _ => Eff.inner_vec _ _ _,
    fun w => registerWord_of_spanWord fun _ => rfl,
    fun w => registerWord_of_spanWord fun _ => rfl,
    fun w => registerWord_of_spanWord fun _ => rfl,
    fun w => registerWord_of_spanWord fun _ => rfl⟩
  split
  case h_1 e => rw [e, voteOf, List.all_map]; rfl
  case h_2 e => rw [e, voteOf, List.any_map]; rfl
  case h_3 h0 h1 => rw [voteOf_uni h0 h1]

end Sys2Proof.Machine

/-! ### Lane-matrix words (R364 to R371) -/

namespace Sys2Proof.Machine

open Sys2Proof

/-- STEP of %mstat for a failing step, and 0 where no step fails (R366). -/
theorem stepOf_eq (k : Option Nat) : stepOf k = (k.map fun k => k + 1).getD 0 := by
  cases k <;> rfl

/-- A word built by `matWord` has the matrix of results of its function of element positions (R368). -/
theorem registerWord_of_matWord {i : Instr} {op : Nat} {srcs : List Src} {f : Thread → Nat → Nat → FRes} {w : MatrixW}
    (hi : ∀ s, exec i s = matWord op (fun _ => srcs) (fun _ => f) w s) :
    RegisterWord i [matForm op w srcs (runNums w.d (mRun w)) []] 3 fun _ _ _ x => matrixResult w (f x) :=
  registerWord_of_lane hi (fun _ _ _ _ => rfl) fun _ => ⟨rfl, rfl, rfl⟩

/-- Settles O12: each word is by definition its function on the threads that pass. -/
theorem matrices : Obligations.Matrices := by
  refine ⟨fun w => registerWord_of_matWord fun _ => rfl,
    fun w => registerWord_of_matWord fun _ => rfl,
    fun w => registerWord_of_matWord fun _ => rfl,
    fun w => registerWord_of_matWord fun _ => rfl,
    fun w => registerWord_of_matWord fun _ => rfl,
    fun w => registerWord_of_lane (fun _ => rfl) (fun _ _ _ _ => rfl) fun _ => ⟨rfl, rfl, rfl⟩,
    fun w => registerWord_of_lane (fun _ => rfl) (fun _ _ _ _ => ?_) fun _ => ⟨rfl, rfl, rfl⟩,
    fun w => registerWord_of_lane (fun _ => rfl) (fun _ _ _ _ => ?_) fun _ => ⟨rfl, rfl, rfl⟩,
    fun w => registerWord_of_lane (fun _ => rfl) (fun _ _ _ _ => rfl) fun _ => ⟨rfl, rfl, rfl⟩⟩
  · dsimp only; rw [stepOf_eq]
  · dsimp only; rw [stepOf_eq]

end Sys2Proof.Machine

/-! ### Loads, stores, transfers and reductions (R346, R349 to R357) -/

namespace Sys2Proof.Machine

open Sys2Proof

section
variable {i : Instr} {f : Form} {w : MemW} {n : Nat}

/-- A lane whose access passes does its part with the pieces (R346). -/
theorem capLane_of_access {op : AccOp} {eff : Thread → List Piece → Eff} {s s1 : State} {b : Block} {act : List Thread}
    {x : Thread} {ps : List Piece} (h : s.access b (x.creg w.cap) (MemW.offset w x true) n n op = (s1, .ok ps)) :
    capLane w n op eff s b act x = (s1, .ok (eff x ps)) := by
  simp only [capLane, h, LaneRes.map]

/-- A scratch lane does its part with its place, or is switched off where it has none (R346). -/
theorem spadLane_of_access {eff : Thread → Piece → Eff} {s : State} {b : Block} {act : List Thread} {x : Thread}
    {q : Option Piece} (h : s.scratchAccess b (MemW.offset w x false) n n = .ok q) :
    spadLane w n n eff s b act x = (s, .ok (inScratch (fun _ => q) eff x)) := by
  simp only [spadLane, h, LaneRes.map]
  rfl

theorem memoryWord_of_capLane {op : AccOp} {eff : Thread → List Piece → Eff}
    (hi : ∀ s, exec i s = laneWord [f] true 1 (capLane w n op eff) s) :
    MemoryWord i f true (fun _ => op) (throughCap w n) fun x _ ps => eff x ps :=
  memoryWord_of _ hi fun _ _ _ _ _ _ => capLane_of_access

theorem scratchWord_of_spadLane {eff : Thread → Piece → Eff}
    (hi : ∀ s, exec i s = laneWord [f] true 1 (spadLane w n n eff) s) : ScratchWord i f (throughScratch w n) eff :=
  scratchWord_of _ hi fun _ _ _ _ _ => spadLane_of_access

theorem commitMemoryWord_of_capLane {op : AccOp} {eff : Thread → List Piece → Eff}
    (hi : ∀ s, exec i s = commitWord [f] drainNone (capLane w n op eff) performPlain s) :
    CommitMemoryWord i f (fun _ => op) (throughCap w n) fun x _ ps => eff x ps :=
  commitMemoryWord_of _ hi fun _ _ _ _ _ _ => capLane_of_access

theorem commitScratchWord_of_spadLane {eff : Thread → Piece → Eff}
    (hi : ∀ s, exec i s = commitWord [f] drainNone (spadLane w n n eff) performPlain s) :
    CommitScratchWord i f (throughScratch w n) eff :=
  commitScratchWord_of _ hi fun _ _ _ _ _ => spadLane_of_access

end

/-- Settles O14: the lanes of each word are by definition those of its access. -/
theorem loadsAndStores : Obligations.LoadsAndStores :=
  ⟨fun _ => memoryWord_of_capLane fun _ => rfl, fun _ => memoryWord_of_capLane fun _ => rfl,
    fun _ => memoryWord_of_capLane fun _ => rfl, fun _ => scratchWord_of_spadLane fun _ => rfl,
    fun _ => scratchWord_of_spadLane fun _ => rfl⟩

/-! #### Lane matrices and capabilities (R115, R356, R357) -/

theorem memoryWord_of_matLane {i : Instr} {f : Form} {w : MemW} {op : AccOp} {eff : Thread → List Piece → Eff}
    (hi : ∀ s, exec i s = laneWord [f] true 1 (matLane w op eff) s) :
    MemoryWord i f true (fun _ => op) (fun x => (x.creg w.cap, laneOffset w x, laneBytes w, 8)) fun x _ ps => eff x ps :=
  memoryWord_of _ hi fun s s1 b act x ps hacc => by
    simp only [matLane, hacc, LaneRes.map]

/-- An access that passes has passed the check of its capability (R14, R238). -/
theorem check_of_access_ok {s s1 : State} {b : Block} {c : CapReg} {o : Int} {n align : Nat} {op : AccOp} {ps : List Piece}
    (h : s.access b c o n align op = (s1, .ok ps)) : c.check o n op.rights op.any = none := by
  rw [State.access] at h
  split at h
  · simp at h
  · assumption

/-- The check of R14 for several rights passes where the capability is well formed, has them all, and holds the range. -/
theorem CapReg.check_eq_none_iff {c : CapReg} {o : Int} {n : Nat} {rights : List Nat} :
    c.check o n rights = none ↔ c.tag = true ∧ Machine.bits c.nat 48 16 = 0 ∧ c.expo ≤ 39
      ∧ (∀ r ∈ rights, bitAt c.rights (r - 24) = true) ∧ ¬ (o < 0 ∨ o < (c.base : Int) ∨ o + (n : Int) > (c.top : Int)) := by
  have hmissing : (rights.filter fun r => !(bitAt c.rights (r - 24))) = [] ↔ ∀ r ∈ rights, bitAt c.rights (r - 24) = true := by
    simp [List.filter_eq_nil_iff]
  rw [check, ← hmissing]
  generalize (rights.filter fun r => !(bitAt c.rights (r - 24))) = missing
  cases c.tag
  case false => simp
  rcases Decidable.em (Machine.bits c.nat 48 16 = 0) with h0 | h0
  case inr => simp [h0]
  rcases Nat.lt_or_ge 39 c.expo with he | he
  · simp [h0, he]
  · cases missing <;> simp [h0, he, Nat.not_lt.2 he]

/-- A `stcap` that passes with the rights of its value passes with that of a store (R15, R357). -/
theorem check_store_of_stcap {c : CapReg} {o : Int} {n : Nat} {tag : Bool}
    (h : c.check o n (opStcap tag).rights (opStcap tag).any = none) : c.check o n opStore.rights = none := by
  cases tag
  · exact h
  · obtain ⟨htag, hreserved, hexpo, hrights, hrange⟩ := CapReg.check_eq_none_iff.1 h
    exact CapReg.check_eq_none_iff.2 ⟨htag, hreserved, hexpo, fun r hr => hrights r (List.mem_append_left [28] hr), hrange⟩

theorem execStcap_memoryWord (w : MemW) : MemoryWord (.stcap w)
    { w.form 0x35 (w.width != 0) true [] [] with caps := [w.cap, w.data] } true (fun x => opStcap (x.creg w.data).tag)
    (throughCap w 16) fun x _ ps => { effects := (ps.take 1).map fun p => .cap p (x.creg w.data).nat (x.creg w.data).tag } :=
  memoryWord_of _ (fun _ => rfl) fun s s1 b act x ps hacc => by
    simp only [throughCap] at hacc
    simp only [check_store_of_stcap (check_of_access_ok hacc), capLane_of_access hacc]
    cases ps <;> rfl

/-- Settles O15: each word's lanes are by definition those of its access; those of `stcap` check for the store right first. -/
theorem matrixAndCapabilityTransfers : Obligations.MatrixAndCapabilityTransfers :=
  ⟨fun _ => memoryWord_of_matLane fun _ => rfl, fun _ => memoryWord_of_matLane fun _ => rfl,
    fun _ => memoryWord_of_capLane fun _ => rfl, execStcap_memoryWord⟩

/-! #### Reductions, wide sums, atomics and releases (R117, R352 to R355) -/

theorem redWord_memoryWord {i : Instr} {k : Nat} {w : MemW} (hi : ∀ s, exec i s = redWord k w s) :
    MemoryWord i (w.form (0x18 + k) (w.width != 0) true (atomSrcs k w) []) true (fun _ => opAtomic)
      (throughCap w (sizeBytes w.size)) fun x _ ps => redEff k w x ps :=
  memoryWord_of_capLane hi

theorem execWsum_of_memory {w : MemW} (h : w.size = 0) (s : State) : exec (.wsum w) s =
    laneWord [w.form 0x30 (w.width != 0) true [srcExact 3 w.data w.type] []] true 1 (capLane w 16 opAtomic (wsumEff w)) s := by
  show execWsum w s = _
  simp only [execWsum, h, decide_true, if_true]

theorem execWsum_of_scratch {w : MemW} (h : w.size ≠ 0) (s : State) : exec (.wsum w) s =
    laneWord [w.form 0x30 (w.width != 0) false [srcExact 3 w.data w.type] []] true 1
      (spadLane w 16 16 fun x p => wsumEff w x [p]) s := by
  show execWsum w s = _
  simp only [execWsum, h, decide_false, if_false]

/-- What `wrd` asks for: the cell, rounded to the type of the word (R355). -/
def wrdEff (w : MemW) (ps : List Piece) : Eff := { req := some (.wide w.data w.type, w.scope, ps) }

theorem execWrd_of_memory {w : MemW} (h : w.size = 0) (s : State) : exec (.wrd w) s =
    laneWord [w.form 0x31 (w.width != 0) true [] [w.data]] true 1 (capLane w 16 opLoad fun _ => wrdEff w) s := by
  show execWrd w s = _
  simp only [execWrd, h, decide_true, if_true]
  rfl

theorem execWrd_of_scratch {w : MemW} (h : w.size ≠ 0) (s : State) : exec (.wrd w) s =
    laneWord [w.form 0x31 (w.width != 0) false [] [w.data]] true 1 (spadLane w 16 16 fun _ p => wrdEff w [p]) s := by
  show execWrd w s = _
  simp only [execWrd, h, decide_false, if_false]
  rfl

/-- Settles O16: a reduction is by definition `redWord` of its operation, and a word on cells one of memory or of scratch by its
size field. -/
theorem reductionsAndWideSums : Obligations.ReductionsAndWideSums := by
  refine ⟨fun w => forall_pair_mem ?_,
    fun w h => memoryWord_of_capLane (execWsum_of_memory h), fun w h => scratchWord_of_spadLane (execWsum_of_scratch h),
    fun w h => memoryWord_of_capLane (execWrd_of_memory h), fun w h => scratchWord_of_spadLane (execWrd_of_scratch h)⟩
  and_intros
  all_goals exact redWord_memoryWord fun _ => rfl

theorem atomWord_commitMemoryWord {i : Instr} {k : Nat} {w : MemW} (hi : ∀ s, exec i s = atomWord k w s) :
    CommitMemoryWord i (w.form (0x10 + k) (w.width != 0) true (atomSrcs k w) []) (fun _ => opAtomic)
      (throughCap w (sizeBytes w.size)) fun x _ ps => atomEff k w x ps :=
  commitMemoryWord_of_capLane hi

/-- A scratch atomic is commit-class where it returns a value, and else a buffered reduction (R353). -/
theorem atomsWord_scratchWord {i : Instr} {k : Nat} {w : MemW} (hi : ∀ s, exec i s = atomsWord k w s) :
    (w.cap % 2 = 0 → CommitScratchWord i (w.form (0x28 + k) (w.width != 0) false (atomSrcs k w) [])
      (throughScratch w (sizeBytes w.size)) fun x p => atomEff k w x [p])
    ∧ (w.cap % 2 = 1 → ScratchWord i (w.form (0x28 + k) (w.width != 0) false (atomSrcs k w) [])
      (throughScratch w (sizeBytes w.size)) fun x p => redEff k w x [p]) :=
  ⟨fun h => commitScratchWord_of_spadLane fun s => (hi s).trans (atomsWord_of_returning h s),
    fun h => scratchWord_of_spadLane fun s => (hi s).trans (atomsWord_of_reduction h s)⟩

/-- Settles O17: each word is by definition `atomWord` or `atomsWord` of its operation, and `strel` a commit-class word. -/
theorem atomicsAndReleases : Obligations.AtomicsAndReleases := by
  refine ⟨fun w => commitMemoryWord_of_capLane fun _ => rfl, fun w => forall_pair_mem ?_, fun w => forall_pair_mem ?_⟩
  · and_intros
    all_goals exact atomWord_commitMemoryWord fun _ => rfl
  · exact ⟨atomsWord_scratchWord fun _ => rfl, atomsWord_scratchWord fun _ => rfl, atomsWord_scratchWord fun _ => rfl,
      atomsWord_scratchWord fun _ => rfl, atomsWord_scratchWord fun _ => rfl, atomsWord_scratchWord fun _ => rfl,
      atomsWord_scratchWord fun _ => rfl, atomsWord_scratchWord fun _ => rfl⟩

end Sys2Proof.Machine

/-! ### Counters and lookups (R187, R381 to R384) -/

namespace Sys2Proof.Machine

open Sys2Proof

theorem execLbarm_scratchWord (w : Plain) : ScratchWord (.lbarm w)
    { guard := w.guard, regs := (w.view 0xC8).regs, srcs := [srcWord 0 w.a, srcWord 1 w.b],
      values := fun x => tooWide x w.a 21 2 ++ tooWide x w.b 32 3 }
    (fun x => ((regNat x w.a : Nat), 16, 16)) fun x p => { effects := [.arm p (regNat x w.b)] } :=
  scratchWord_of _ (fun _ => rfl) fun s b act x q hacc => by
    simp only [hacc, LaneRes.map]
    rfl

/-- Settles O20: the lanes of each word are by definition its effect, in the state that it is issued in. -/
theorem countersAndLookups : Obligations.CountersAndLookups :=
  ⟨execLbarm_scratchWord, fun _ => plainWord_of (fun _ => _) (fun _ => rfl) fun _ _ _ _ _ _ => rfl,
    fun _ => plainWord_of (fun _ => _) (fun _ => rfl) fun _ _ _ _ _ _ => rfl,
    fun _ => plainWord_of (fun _ => _) (fun _ => rfl) fun _ _ _ _ _ _ => rfl,
    fun _ => plainWord_of (fun _ => _) (fun _ => rfl) fun _ _ _ _ _ _ => rfl⟩

end Sys2Proof.Machine

/-! ### Status registers (R66, R265, R366, R398 to R400, R465) -/

namespace Sys2Proof.Machine

open Sys2Proof

/-- The beats of a die that clocks bring: its step, in sixteenths, for each (R465). -/
theorem State.pass_beats {s : State} {n d : Nat} (h : d < s.power.beats.length) :
    (s.pass n).power.beats.getD d 0 = s.power.beats.getD d 0 + n * (8 + clockStep s.power.clkstep d) := by
  have hbeats : (s.pass n).power.beats = s.power.beats.mapIdx fun d k => k + n * (8 + clockStep s.power.clkstep d) := rfl
  rw [hbeats, List.getD_eq_getElem _ _ h, List.getD_eq_getElem _ _ (by rwa [List.length_mapIdx]), List.getElem_mapIdx]

/-- An effect that sets no flag leaves the flags alone (R266). -/
theorem Thread.orFlags_zero (x : Thread) : x.orFlags 0 = x := by
  exact congrArg (fun fl => { x with fpflags := fl }) BitVec.or_zero

/-- Settles O21: the lanes of `getsr` and `setsr` are by definition their effects, and `setsr` writes what its register takes. -/
theorem statusRegisters : Obligations.StatusRegisters := by
  refine ⟨fun w => plainWord_of (fun _ => _) (fun _ => rfl) fun _ _ _ _ _ _ => rfl, fun _ _ => rfl, fun _ _ _ => State.pass_beats,
    fun w => plainWord_of (fun _ => _) (fun _ => rfl) fun _ _ _ _ _ _ => rfl, ?_, ?_, ?_⟩
  · intro x v
    show setFpflags (x.orFlags 0) v = _
    rw [x.orFlags_zero, setFpflags, BitVec.ofNat_toNat]
    split <;> rfl
  · intro x v
    show setMstat (x.orFlags 0) v = _
    rw [x.orFlags_zero, setMstat, BitVec.ofNat_toNat]
    split <;> rfl
  · intro x v
    show setScratchfault (x.orFlags 0) v = _
    rw [x.orFlags_zero, setScratchfault]
    split <;> rfl

end Sys2Proof.Machine

/-! ### Reservations, register blocks, waits, yields and exits (R229, R233, R234, R376, R390, R395) -/

namespace Sys2Proof.Machine

open Sys2Proof

/-- The same word with its form written in another way. -/
theorem CommitWord.congr_form {i : Instr} {f f' : State → Form} {drain : Item → Bool}
    {perform : State → Group → Block → List (Thread × Eff) → State} (h : CommitWord i f drain perform) (hf : ∀ s, f s = f' s) :
    CommitWord i f' drain perform := by
  rwa [← show f = f' from funext hf]

/-- What refuses an `rbrel` is told of the active threads of the group that issues (R229). -/
theorem releaseViols_of_current {s : State} {g : Group} {b : Block} (hc : s.current = some (g, b)) (w : Plain) (x : Thread) :
    releaseViols s w x = if (actives w.guard g b).any fun y => decide (w.opx ≥ y.h) then [rangeViol 10] else [] := by
  simp only [releaseViols, hc, actives, List.any_filter]

theorem releaseViols_of_no_group {s : State} (hc : s.current = none) (w : Plain) (x : Thread) : releaseViols s w x = [] := by
  simp only [releaseViols, hc]

/-- The form of an `rbrel`, with what refuses it. -/
def releaseForm (w : Plain) (viols : Thread → List Viol) : Form := { guard := w.guard, values := viols }

theorem execRbrel_commitWord (w : Plain) : CommitWord (.rbrel w) (fun s => releaseForm w (releaseViols s w))
    drainNone fun s _ b oks => oks.foldl (fun s o => s.updThread b.uid o.1.tid fun y => y.shrink w.opx) s :=
  commitWord_of fun _ => rfl

/-- Settles O22: each word is by definition a commit-class word that performs what the statement says. -/
theorem reservationsWaitsAndEnds : Obligations.ReservationsWaitsAndEnds := by
  refine ⟨fun w => commitWord_of fun _ => rfl, fun w => commitWord_of fun _ => rfl, fun w => commitWord_of fun _ => rfl,
    fun w => (execRbrel_commitWord w).congr_form fun s => congrArg (releaseForm w) (funext fun x => ?_),
    fun w => commitWord_of fun _ => rfl, fun w => commitWord_of fun _ => rfl, fun w => commitWord_of fun _ => rfl⟩
  split
  case h_1 hc => exact releaseViols_of_current hc w x
  case h_2 hc => exact releaseViols_of_no_group hc w x

end Sys2Proof.Machine

/-! ### Barriers (R396, R397) -/

namespace Sys2Proof.Machine

open Sys2Proof

/-- A form that names no operand refuses no thread that its values do not refuse. -/
theorem checkAll_of_values {x : Thread} {gd : Guard} {viols : Thread → List Viol} (h : viols x = []) :
    checkAll x [{ guard := gd, values := viols }] = none := by
  simp [checkAll, Form.check, allocViols, h, leastViol, firstRefused, Form.liveWrite]

/-- What refuses a barrier: a handler, and a gang's barrier in a block that has no gang (R387, R397). -/
def barrierViols (gang : Bool) (s : State) (x : Thread) : List Viol :=
  inHandler x ++ match s.current with
    | some (_, b) => if gang && b.gangSize ≤ 1 then [plainViol 0x0C] else []
    | none => []

theorem barrierViols_eq_nil {gang : Bool} {s : State} {g : Group} {b : Block} {x : Thread} (hc : s.current = some (g, b))
    (hx : x.handler = none) (hgang : gang = true → b.gangSize > 1) : barrierViols gang s x = [] := by
  have halone : ¬ ((gang && decide (b.gangSize ≤ 1)) = true) := by
    simpa only [Bool.and_eq_true, decide_eq_true_eq, not_and, not_le] using hgang
  simp only [barrierViols, inHandler, hx, hc, Option.isSome_none, Bool.false_eq_true, if_false, if_neg halone, List.append_nil]

/-- The performance of a barrier word: the threads arrive, and the last arrival completes the phase (R396, R397). -/
def barrierPerform (gang : Bool) : PerformFn := fun s g b oks =>
  let arrived := oks.foldl (fun u o => u.arriveAt b.uid o.1.tid (if gang then .atGbar else .atBar) (s.rgnAt b g.space (g.pc + 8))) s
  (((arrived.barrier b.uid gang fun k x => s.rgnAt k x.space (x.pc + 8)).drawAll g.core g.part).settleSave b.uid, false)

theorem exec_barrier (w : Plain) (gang : Bool) (s : State) : exec (if gang then .gbar w else .bar w) s =
    commitWord [{ values := barrierViols gang s }] drainAll (fun s _ _ _ => (s, .ok {})) (barrierPerform gang) s := by
  cases gang <;> rfl

theorem each_req (act : List Thread) : ∀ o ∈ each act (fun _ => {}), o.2.req = none := by
  intro o ho
  obtain ⟨x, -, rfl⟩ := List.mem_map.1 ho
  rfl

/-- Settles O23: the word is by definition a commit-class word whose performance is the arrival of its threads. -/
theorem barriers : Obligations.Barriers := by
  intro w gang s g b b2 hc hmay hhandler hgang oks hdrained hb2 t arrived
  obtain ⟨hmid, hout, hglitch, hne⟩ := hmay
  have hscreened : ∀ x ∈ actives .always g b, Screened [{ values := barrierViols gang s }] (actives .always g b) x := fun x hx =>
    .of_check (checkAll_of_values (barrierViols_eq_nil hc (hhandler x hx) hgang))
  rw [exec_barrier, commitWord_done (f := { values := barrierViols gang s }) hc hmid hout hglitch hscreened
    (lanesPass_pure (e := fun _ => {}) fun x _ => rfl) (each_ne hne) hdrained hb2 (.inl ⟨each_req _, rfl⟩)]
  rfl

end Sys2Proof.Machine

/-! ### `fpop` (R100, R139, R192, R406) -/

namespace Sys2Proof.Machine

open Sys2Proof

theorem fpopLane_of_access {w : Plain} {s s1 : State} {b : Block} {act : List Thread} {x : Thread} {ps : List Piece}
    (h : s.access b (x.creg w.a) ((x.creg w.a).cursor : Nat) 256 128 opFeed = (s1, .ok ps)) :
    fpopLane w s b act x = (s1, .ok { kept := { pieces := ps } }) := by
  simp only [fpopLane, h, LaneRes.map]

/-- What an `fpop` makes its core's later loads miss (R100, R139). -/
def feedMisses (w : Plain) (core : Nat) (s : State) : State :=
  if feedAcquires w then s.missAfter core (feedScope w) false else s.missOlder core

/-- The scopes that acquire are those of the codes 3 and 4 (R406). -/
theorem feedMisses_eq (w : Plain) (core : Nat) (t : State) : feedMisses w core t =
    if w.opx % 8 = 3 then t.dropL1 core [1] none
    else if w.opx % 8 = 4 then
      { t.dropL1 core [1, 2] none with caches := { (t.dropL1 core [1, 2] none).caches with
        rdc := (t.dropL1 core [1, 2] none).caches.rdc.filter fun r => r.die != dieOf core } }
    else t.missOlder core := by
  have hlt : w.opx % 8 < 8 := Nat.mod_lt _ (by decide)
  rw [feedMisses, feedAcquires, feedScope]
  generalize w.opx % 8 = k at hlt
  interval_cases k <;> rfl

/-- An `fpop` whose lanes are all served delivers their records once its loads miss what they must (R192, R406). -/
theorem fpopPerform_of_served {w : Plain} {s t : State} {g : Group} {b : Block} {oks : List (Thread × Eff)}
    {ks : List (Nat × Kept)} (h : State.serveFeed w b oks s = (t, ks, [], none)) :
    fpopPerform w s g b oks = (ks.foldl (fun u k => u.updThread b.uid k.1 fun y => y.takeRecord w k.2.nums)
      (feedMisses w b.core t), true) := by
  simp only [fpopPerform, h]
  rfl

theorem accessesPass_threads {op : Thread → AccOp} {at1 : Thread → CapReg × Int × Nat × Nat} {b : Block} :
    ∀ {xs : List Thread} {s s' : State} {qs : List (Thread × State × List Piece)},
      accessesPass op at1 b xs s = some (s', qs) → qs.map Prod.fst = xs
  | [], s, s', qs, h => by
    obtain ⟨-, rfl⟩ : s = s' ∧ [] = qs := by simpa [accessesPass] using h
    rfl
  | x :: xs, s, s', qs, h => by
    simp only [accessesPass] at h
    split at h
    · obtain ⟨⟨s2, rest⟩, hrest, heq⟩ := Option.map_eq_some_iff.1 h
      obtain ⟨-, rfl⟩ := Prod.mk.inj heq
      rw [List.map_cons, accessesPass_threads hrest]
    · cases h

/-- What the threads of an `fpop` keep until it is performed: the places of their headers (R406). -/
def headerPlace (ps : List Piece) : Eff := { kept := { pieces := ps } }

/-- Settles O25: the lanes keep their headers' places, and the performance serves them. -/
theorem feedPop : Obligations.FeedPop := by
  intro w s s' t g b b2 qs ks hc hmay hp hacc oks hdrained hb2 hserved l u
  obtain ⟨hmid, hout, hglitch, hne⟩ := hmay
  have hqs : qs ≠ [] := fun h => hne (by rw [← accessesPass_threads hacc, h]; rfl)
  have hoks : oks ≠ [] := fun h => hqs (List.map_eq_nil_iff.1 h)
  have hreq : ∀ o ∈ oks, o.2.req = none := by
    intro o ho
    obtain ⟨q, -, rfl⟩ := List.mem_map.1 ho
    rfl
  have hlanes : lanesPass (fpopLane w) b (actives w.guard g b) (actives w.guard g b) s = some (s', oks) :=
    lanesPass_access (e := fun _ _ ps => headerPlace ps) (fun x _ t t1 ps h => fpopLane_of_access h) hacc
  have hu : u = feedMisses w b2.core t := (feedMisses_eq w b2.core t).symm
  show execFpop w s = _
  rw [execFpop, commitWord_done hc hmid hout hglitch (screened_all hp) hlanes hoks hdrained hb2 (.inl ⟨hreq, rfl⟩)]
  rw [hu]
  exact congrArg (fun r : State × Bool => Host.Outcome.next (if r.2 then r.1.afterCommits g b2 (g.issuers b) (standing b2 oks) else r.1))
    (fpopPerform_of_served hserved)

end Sys2Proof.Machine

/-! ### `trap`, `brk` and `assert` (R246, R391 to R393) -/

namespace Sys2Proof.Machine

open Sys2Proof

/-- A word that nothing holds back has the outcomes of its lanes, combined (R239). -/
theorem laneWord_of_unhindered {f : Form} {fs : List Form} {mem : Bool} {kind : Nat} {lane : LaneFn} {s : State} {g : Group} {b : Block}
    (hc : s.current = some (g, b)) (hu : Unhindered s b (f :: fs) mem kind (actives f.guard g b)) :
    laneWord (f :: fs) mem kind lane s =
      (runLanes (f :: fs) lane b (actives f.guard g b) (actives f.guard g b) s).1.combine ((f :: fs).any Form.leader) g b (g.issuers b)
        (runLanes (f :: fs) lane b (actives f.guard g b) (actives f.guard g b) s).2 fun s xs oks => s.complete g b xs oks := by
  have hfree : ((actives f.guard g b).any fun x => ((f :: fs).any fun f => s.hazard b.uid x.tid f)
      || (mem && s.acquiring b.uid x.tid) || s.awaiting b.uid x.tid) = false := by
    refine List.any_eq_false.2 fun x hx => ?_
    obtain ⟨hhazard, hacquiring, hawaiting⟩ := hu.1 x hx
    have hforms : ((f :: fs).any fun f => s.hazard b.uid x.tid f) = false :=
      List.any_eq_false.2 fun f' hf' => by simp [hhazard f' hf']
    cases mem
    · simp [hforms, hawaiting]
    · simp [hforms, hawaiting, hacquiring rfl]
  rw [laneWord, hc]
  exact (if_neg (by rw [Bool.not_eq_true]; exact hfree)).trans (compared_clear hu.2 _)

/-- Lanes that pass their checks and take an exception each, and leave the state alone. -/
theorem runLanes_traps {fs : List Form} {lane : LaneFn} {b : Block} {act : List Thread} {s : State} {why : Thread → Nat × Nat} :
    ∀ {xs : List Thread}, (∀ x ∈ xs, Screened fs act x) → (∀ x ∈ xs, lane s b act x = (s, .trap (why x).1 (why x).2)) →
      runLanes fs lane b act xs s = (s, allTraps xs why)
  | [], _, _ => rfl
  | x :: xs, hp, hl => by
    have hrest := runLanes_traps (fun y hy => hp y (List.mem_cons_of_mem _ hy)) fun y hy => hl y (List.mem_cons_of_mem _ hy)
    have hx : (if x.mid || (fs.any Form.leader && !(isLeader act x)) then none else checkAll x fs) = none := hp x List.mem_cons_self
    simp only [runLanes, hx, hl x List.mem_cons_self, hrest]
    rfl

section
variable {gd : Guard} {cause aux : Nat} {s : State} {g : Group} {b : Block}

/-- A `trap` or `brk` that PASS lets no thread by traps in every active thread (R246). -/
theorem trapWord_of_not_passes (hc : s.current = some (g, b)) (hu : Unhindered s b [{ guard := gd }] false 1 (actives gd g b))
    (hp : Passes [{ guard := gd }] (actives gd g b)) (hne : actives gd g b ≠ []) (hpass : ∀ x ∈ actives gd g b, x.passes = false) :
    trapWord gd cause aux s = .next (s.allTrap g b (actives gd g b) cause aux) := by
  have hlane : ∀ x ∈ actives gd g b,
      (s, if x.passes then (.ok { passed := true } : LaneRes Eff) else .trap cause aux) = (s, .trap cause aux) := fun x hx => by
    rw [hpass x hx]
    rfl
  rw [trapWord, laneWord_of_unhindered hc hu]
  dsimp only
  rw [runLanes_traps (why := fun _ => (cause, aux)) (screened_all hp) hlane]
  exact combine_allTraps hne

/-- One that PASS lets every thread by acts as `nop`, and PASS is used up (R246). -/
theorem trapWord_of_passes (hc : s.current = some (g, b)) (hu : Unhindered s b [{ guard := gd }] false 1 (actives gd g b))
    (hp : Passes [{ guard := gd }] (actives gd g b)) (hpass : ∀ x ∈ actives gd g b, x.passes = true) :
    trapWord gd cause aux s = .next (s.wordDone g b (each (actives gd g b) fun _ => { passed := true })) :=
  laneWord_register (f := { guard := gd }) hc hu hp (fun x hx => by rw [hpass x hx]; rfl) fun _ => ⟨rfl, rfl, rfl⟩

/-- A word that names no register completes as `nop` (R176). -/
theorem laneWord_of_nop (hc : s.current = some (g, b)) (hu : Unhindered s b [{ guard := gd }] false 1 (actives gd g b))
    (hp : Passes [{ guard := gd }] (actives gd g b)) :
    laneWord [{ guard := gd }] false 1 (fun s _ _ _ => (s, .ok {})) s = .next (s.wordDone g b (each (actives gd g b) fun _ => {})) :=
  laneWord_register (f := { guard := gd }) hc hu hp (fun _ _ => rfl) fun _ => ⟨rfl, rfl, rfl⟩

/-- A group that nothing holds back is clear to take a word that names no register. -/
theorem clear_of_unhindered {fs : List Form} {mem : Bool} (hu : Unhindered s b fs mem 1 (actives gd g b)) :
    s.clear b (actives gd g b) = true := by
  have hawaiting : ((actives gd g b).any fun x => s.awaiting b.uid x.tid) = false :=
    List.any_eq_false.2 fun x hx => by simp [(hu.1 x hx).2.2]
  rw [State.clear, hawaiting, hu.2]
  rfl

/-- Without a debug unit, or with no thread active, a `brk` is a word that traps (R392). -/
theorem exec_brk_of_unattached {w : Plain} (hc : s.current = some (g, b)) (h : s.attached b.ctx = false ∨ actives w.guard g b = []) :
    exec (.brk w) s = trapWord w.guard cBreak 0 s := by
  have hcond : ¬ ((s.attached b.ctx && !(actives w.guard g b).isEmpty) = true) := by
    rcases h with h | h <;> simp [h]
  show execBrk w s = _
  rw [execBrk, hc]
  exact if_neg hcond

/-- A debug unit halts the block once the `brk` is done (R392). -/
theorem exec_brk_of_attached {w : Plain} {t : State} (hc : s.current = some (g, b)) (ha : s.attached b.ctx = true)
    (hne : actives w.guard g b ≠ []) (hclear : s.clear b (actives w.guard g b) = true)
    (ht : laneWord [{ guard := w.guard }] false 1 (fun s _ _ _ => (s, .ok {})) s = .next t) :
    exec (.brk w) s = .next (t.haltBlock b.uid 2 (lowestLane ((actives w.guard g b).map Thread.tid)) (0, 0)) := by
  have hcond : (s.attached b.ctx && !(actives w.guard g b).isEmpty) = true := by simp [ha, hne]
  show execBrk w s = _
  rw [execBrk, hc]
  refine (if_pos hcond).trans ?_
  simp only [ht]
  exact congrArg Host.Outcome.next (if_pos hclear)

end

/-- Settles O27: `trap` is by definition a word that traps, and so is `brk` where no debug unit takes it. -/
theorem trapAndBreak : Obligations.TrapAndBreak := by
  refine ⟨fun w s g b hc _ hu hp hne hpass => trapWord_of_not_passes hc hu hp hne hpass,
    fun w s g b hc ha hu hp hne hpass => (exec_brk_of_unattached hc (.inl ha)).trans (trapWord_of_not_passes hc hu hp hne hpass),
    fun w s g b hc hu hp hpass => trapWord_of_passes hc hu hp hpass,
    fun w s g b hc ha hu hp hpass => (exec_brk_of_unattached hc ha).trans (trapWord_of_passes hc hu hp hpass),
    fun w s g b hc ha hu hp hne => exec_brk_of_attached hc ha hne (clear_of_unhindered hu) (laneWord_of_nop hc hu hp)⟩

/-! #### Assertions (R393) -/

/-- The least of a list is its member that none is below. -/
theorem leastOf_eq {d m : Nat} : ∀ {l : List Nat}, m ∈ l → (∀ k ∈ l, m ≤ k) → leastOf d l = m
  | k :: ks, hm, hle => by
    have hmin : leastOf d (k :: ks) = ks.foldl min k := by
      rw [leastOf, show (fun m y : Nat => if y < m then y else m) = min from funext₂ fun m y => by rw [min_comm, min_def_lt]]
    exact hmin.trans (Option.some.inj (List.min?_cons'.symm.trans (List.min?_eq_some_iff.2 ⟨hm, hle⟩)))

/-- An assertion that no active thread fails acts as `nop` (R393). -/
theorem exec_assert_of_holding {w : Imm} {s : State} {g : Group} {b : Block} (hc : s.current = some (g, b))
    (hholds : ∀ x ∈ actives w.guard g b, x.pred w.d = true) :
    exec (.assert w) s = laneWord [{ guard := w.guard }] false 1 (fun s _ _ _ => (s, .ok {})) s := by
  have hfails : (if s.clear b (actives w.guard g b) then (actives w.guard g b).filter fun x => !(x.pred w.d) else []) = [] := by
    rw [List.filter_eq_nil_iff.2 fun x hx => by simp [hholds x hx], ite_self]
  show execAssert w s = _
  rw [execAssert, hc]
  unfold actives at hfails
  simp only [hfails]

/-- One that some active threads fail stops the context, as the failing thread of least number tells (R393). -/
theorem exec_assert_of_failing {w : Imm} {s : State} {g : Group} {b : Block} {z : Thread} {zs : List Thread}
    (hc : s.current = some (g, b)) (hclear : s.clear b (actives w.guard g b) = true)
    (hfails : ((actives w.guard g b).filter fun x => !(x.pred w.d)) = z :: zs) :
    exec (.assert w) s = .next (s.stopContext b.ctx
      { cause := cAssert, nested := z.handler.isSome, core := b.core, tid := leastOf 0 ((z :: zs).map Thread.tid), pc := pc48 g.pc,
        blk := b.blk, msg := w.imm }) := by
  show execAssert w s = _
  rw [execAssert, hc]
  unfold actives at hfails hclear
  simp only [hclear, if_true, hfails]

/-- Settles O28: the threads that fail are the active ones whose predicate is false. -/
theorem assertions : Obligations.Assertions := by
  refine ⟨fun w s g b hc hu hp hholds => (exec_assert_of_holding hc hholds).trans (laneWord_of_nop hc hu hp), ?_⟩
  intro w s g b y hc hu hy hfail hleast
  have hmem : ∀ x, x ∈ (actives w.guard g b).filter (fun x => !(x.pred w.d)) ↔ x ∈ actives w.guard g b ∧ x.pred w.d = false := by
    simp [List.mem_filter]
  cases hfails : (actives w.guard g b).filter fun x => !(x.pred w.d) with
  | nil => exact absurd ((hmem y).2 ⟨hy, hfail⟩) (by rw [hfails]; exact List.not_mem_nil)
  | cons z zs =>
    rw [hfails] at hmem
    obtain ⟨hz, hzfail⟩ := (hmem z).1 List.mem_cons_self
    have hleastOf : leastOf 0 ((z :: zs).map Thread.tid) = y.tid := by
      refine leastOf_eq (List.mem_map_of_mem ((hmem y).2 ⟨hy, hfail⟩)) fun k hk => ?_
      obtain ⟨x, hx, rfl⟩ := List.mem_map.1 hk
      obtain ⟨hact, hxfail⟩ := (hmem x).1 hx
      exact hleast x hact hxfail
    refine ⟨z.handler.isSome, ⟨z, hz, hzfail, rfl⟩, ?_⟩
    rw [exec_assert_of_failing hc (clear_of_unhindered hu) hfails, hleastOf]

end Sys2Proof.Machine

/-! ### `rte` (R126, R245, R394, R452) -/

namespace Sys2Proof.Machine

open Sys2Proof

/-- A thread in a handler may return from it once nothing of it is outstanding or to be performed, and in group mode nothing of
its group is to be performed (R126, R245). -/
def rteLane (g : Group) : LaneFn := fun s b _ x =>
  if x.handler.isNone then (s, .trap cIllegal (plainViol 0x0D).aux)
  else if s.outstanding b.uid x.tid || s.pendingOf b.uid x.tid || (g.runner.isSome && g.tids.any (s.pendingOf b.uid)) then (s, .wait)
  else (s, .ok {})

theorem rteLane_of_ready {g : Group} {s : State} {b : Block} {act : List Thread} {x : Thread} (hhandler : x.handler ≠ none)
    (hout : s.outstanding b.uid x.tid = false) (hpend : s.pendingOf b.uid x.tid = false)
    (hgroup : g.runner ≠ none → ∀ u ∈ g.tids, s.pendingOf b.uid u = false) : rteLane g s b act x = (s, .ok {}) := by
  have hframe : ¬ (x.handler.isNone = true) := by simpa using hhandler
  have hall : (g.runner.isSome && g.tids.any (s.pendingOf b.uid)) = false := by
    cases hr : g.runner with
    | none => rfl
    | some r =>
      have hnone : g.tids.any (s.pendingOf b.uid) = false :=
        List.any_eq_false.2 fun u hu => by simp [hgroup (by simp [hr]) u hu]
      rw [hnone, Bool.and_false]
  simp only [rteLane, if_neg hframe, hout, hpend, hall, Bool.or_self, Bool.false_eq_true, if_false]

/-- Settles O29: the lanes of the active threads pass, and each returns from its frame. -/
theorem returnFromTrap : Obligations.ReturnFromTrap := by
  intro w s t g b hc act hready hgroup hglitch tids hreturn
  have hlanes : runLanes [] (rteLane g) b act act s = (s, allOk (each act fun _ => {})) :=
    runLanes_pass (fun _ _ => .of_check rfl) (lanesPass_pure fun x hx => by
      obtain ⟨-, hhandler, hout, hpend⟩ := hready x hx
      exact rteLane_of_ready hhandler hout hpend hgroup)
  have htids : (each act fun _ => {}).map (fun o => o.1.tid) = tids := List.map_map
  show execRte w s = _
  rw [execRte, hc]
  refine (compared_clear hglitch _).trans ?_
  change (runLanes [] (rteLane g) b act act s).1.combine false g b (g.issuers b) (runLanes [] (rteLane g) b act act s).2 _ = _
  rw [hlanes, combine_allOk]
  simp only [htids, hreturn]

end Sys2Proof.Machine

/-! ### Registers of other threads (R408) -/

namespace Sys2Proof.Machine

open Sys2Proof

section
variable {w : Plain} {s : State} {g : Group} {b : Block}

/-- The forms of `xget` and `xput`: a value that `xput` moves with its poison is no source that consumes it (R408). -/
def xgetForm (w : Plain) (s : State) : Form :=
  { guard := w.guard, regs := (w.view 0xEE).regs, srcs := [srcWord 1 w.b], values := reachViols s w }
def xputForm (w : Plain) (s : State) : Form :=
  { guard := w.guard, regs := (w.view 0xEF).regs, srcs := [srcWord 1 w.b], values := reachViols s w,
    moved := if w.opx = 1 ∨ w.opx = 3 then [srcWord 2 w.c] else [] }

/-- A thread's effect on the thread of its group on the lane that its operand names, where there is one (R408). -/
def reachedBy (s : State) (w : Plain) (x : Thread) (f : Thread → Eff) : Eff := match s.frozenOn (x.vreg w.b).val.toNat with
  | some y => f y
  | none => {}

theorem reachedBy_inner {x : Thread} {f : Thread → Eff} (h : ∀ y, (f y).inner) : (reachedBy s w x f).inner := by
  rw [reachedBy]
  split
  · exact h _
  · exact ⟨rfl, rfl, rfl⟩

theorem getOther_inner (y : Thread) : (getOther w y).inner := by
  rw [getOther]
  split <;> exact ⟨rfl, rfl, rfl⟩

/-- An `xget` with no load due in its registers reads what it names. -/
theorem exec_xget_of_due (hc : s.current = some (g, b)) (hu : Unhindered s b [xgetForm w s] false 1 (actives w.guard g b))
    (hp : Passes [xgetForm w s] (actives w.guard g b))
    (hdue : ∀ x ∈ actives w.guard g b, ∀ y, s.frozenOn (x.vreg w.b).val.toNat = some y → s.dueOther b.uid w x y w.d = false) :
    exec (.xget w) s = .next (s.wordDone g b (each (actives w.guard g b) fun x => reachedBy s w x (getOther w))) := by
  show execXget w s = _
  refine laneWord_register (e := fun x => reachedBy s w x (getOther w)) hc hu hp (fun x hx => ?_) fun x => reachedBy_inner getOther_inner
  cases hy : s.frozenOn (x.vreg w.b).val.toNat with
  | none => simp only [reachedBy, hy]
  | some y => simp only [reachedBy, hy, hdue x hx y hy, Bool.false_eq_true, if_false]

/-- An `xput` with no load due in its registers writes what it names. -/
theorem exec_xput_of_due (hc : s.current = some (g, b)) (hu : Unhindered s b [xputForm w s] false 1 (actives w.guard g b))
    (hp : Passes [xputForm w s] (actives w.guard g b))
    (hdue : ∀ x ∈ actives w.guard g b, ∀ y, s.frozenOn (x.vreg w.b).val.toNat = some y → s.dueOther b.uid w x y w.c = false)
    (hroom : RoomFor s g b (each (actives w.guard g b) fun x => reachedBy s w x fun y => { acts := [putOther w x y g.pmask] })) :
    exec (.xput w) s = .next (s.wordDone g b (each (actives w.guard g b) fun x =>
      reachedBy s w x fun y => { acts := [putOther w x y g.pmask] })) := by
  show execXput w s = _
  refine laneWord_done hc hu hp (lanesPass_pure fun x hx => ?_) hroom
  cases hy : s.frozenOn (x.vreg w.b).val.toNat with
  | none => simp only [reachedBy, hy, hc]
  | some y => simp only [reachedBy, hy, hc, hdue x hx y hy, Bool.false_eq_true, if_false]

end

/-- Settles O31: the lane of a thread reaches the thread that its operand names. -/
theorem otherLanes : Obligations.OtherLanes :=
  ⟨fun _ _ _ _ hc hu hp hdue => exec_xget_of_due hc hu hp hdue,
    fun _ _ _ _ hc hu hp hdue hroom => exec_xput_of_due hc hu hp hdue hroom⟩

end Sys2Proof.Machine

/-! ### Commands of the ring (R18, R51, R53, R95, R96, R250, R427 to R431, R435, R471) -/

namespace Sys2Proof.Machine

open Sys2Proof

section
variable {s : State} {cmd : Command} {c : Ctx}

/-- CTXLOAD loads a good descriptor where no block of the context is resident or saved (R429). -/
theorem exec_ctxload_of_good (hin : commandWithin cmd 1 1 1 1 = true)
    (hfree : ∀ b ∈ s.blocks, b.ctx = cmd.ctx → b.st ≠ .resident ∧ b.st ≠ .saved ∧ b.slots = [])
    (hmem : s.hbmHas (s.link.ctxtb + 256 * cmd.ctx) 256 = true)
    (hgood : badContext ((List.range 32).map fun i => s.mem.read (s.link.ctxtb + 256 * cmd.ctx + 8 * i) 8) = false) :
    exec (.ctxload cmd) s = State.finishCommand { s with ctxs := (s.ctxs.filter fun (k : Ctx) => k.n != cmd.ctx)
      ++ [loadContext cmd.ctx ((List.range 32).map fun i => s.mem.read (s.link.ctxtb + 256 * cmd.ctx + 8 * i) 8)
        (s.mem.tagAt (s.link.ctxtb + 256 * cmd.ctx + 32)) (s.ctx? cmd.ctx)] } s.cmdIdx 0x01 0 0 := by
  have hblocks : (s.blocks.any fun b => b.ctx == cmd.ctx && (b.st == .resident || b.st == .saved || !b.slots.isEmpty)) = false := by
    refine List.any_eq_false.2 fun b hb => ?_
    simp only [Bool.and_eq_true, beq_iff_eq, not_and]
    intro hctx
    obtain ⟨hres, hsaved, hslots⟩ := hfree b hb hctx
    simp [hres, hsaved, hslots]
  show execCtxload cmd s = _
  simp only [execCtxload, hin, hblocks, hmem, hgood, Bool.true_eq_false, Bool.false_eq_true, if_false]

/-- CTXLOAD is BUSY while a block of the context is resident or saved (R427). -/
theorem exec_ctxload_of_busy {b : Block} (hin : commandWithin cmd 1 1 1 1 = true) (hb : b ∈ s.blocks) (hctx : b.ctx = cmd.ctx)
    (hst : b.st = .resident ∨ b.st = .saved) : exec (.ctxload cmd) s = s.finishCommand s.cmdIdx 0x01 4 0 := by
  have hblocks : (s.blocks.any fun b => b.ctx == cmd.ctx && (b.st == .resident || b.st == .saved || !b.slots.isEmpty)) = true :=
    List.any_eq_true.2 ⟨b, hb, by rcases hst with h | h <;> simp [hctx, h]⟩
  show execCtxload cmd s = _
  simp only [execCtxload, hin, hblocks, Bool.true_eq_false, if_false, if_true]

/-- OBJCREATE writes the root capability of a valid entry into a granule of HBM (R18). -/
theorem exec_objcreate_of_valid (hc : s.ctx? cmd.ctx = some c) (hin : commandWithin cmd (2 ^ 32) (2 ^ 52) 1 1 = true)
    (hobj : cmd.w1 ≠ 0) (halign : cmd.w2 % 16 = 0) (hmem : s.hbmHas cmd.w2 16 = true) (htable : cmd.w1 < c.otn)
    (hentry : s.hbmHas (c.otb + 32 * cmd.w1) 32 = true) (hvalid : entryInvalid (readEntry s.mem (c.otb + 32 * cmd.w1)) = false) :
    let e := readEntry s.mem (c.otb + 32 * cmd.w1)
    let root := rootCap cmd.w1 (entryRights e) (entryLen e)
    exec (.objcreate cmd) s
      = (s.writePiece none (devPiece cmd.w2 16) (natToBytes 16 root.nat) root.tag).finishCommand s.cmdIdx 0x02 0 0 := by
  show execObjcreate cmd s = _
  simp only [execObjcreate, hc, hin, hobj, halign, hmem, ge_iff_le, Nat.not_le.2 htable, hentry, hvalid, ne_eq, not_true_eq_false,
    Bool.true_eq_false, Bool.false_eq_true, or_self, if_false]

/-- OBJINV begins an invalidation (R53). -/
theorem exec_objinv_of_context (hc : s.ctx? cmd.ctx = some c)
    (hin : commandWithin cmd (2 ^ 32) (2 ^ 32) (2 ^ 32) 2 = true) :
    exec (.objinv cmd) s = .next (s.invalidate { id := s.sched.nextId, cmd := s.cmdIdx, ctx := cmd.ctx, obj := cmd.w1,
                                                 first := cmd.w2, count := cmd.w3, flush := cmd.w4 == 1 }) := by
  show execObjinv cmd s = _
  simp only [execObjinv, hin, hc, Option.isNone_some, Bool.true_eq_false, Bool.false_eq_true, or_self, if_false]

/-- What an invalidation leaves once everything that it has found is performed (R53 step 4). -/
def State.invDone (s : State) (v : ObjInv) : State :=
  let u := ({ s with invs := s.invs.filter fun w => w.id != v.id }.flushLines
    (if v.flush then distinct (v.lines ++ s.linesNamed v) else [])).dropNamed v
  (if v.flush then u.dropWalked v else u).regained v

theorem exec_objinvComplete_of_performed {v : ObjInv} (hv : (s.invs.find? fun v => v.id == s.sched.args.id) = some v)
    (hdone : s.invalidated v = true) : exec .objinvComplete s =
      if v.ats then .next { s.invDone v with link := { (s.invDone v).link with atsDone := (s.invDone v).link.atsDone ++ [v.cmd] } }
      else (s.invDone v).finishCommand v.cmd 0x03 0 0 := by
  show execObjinvComplete s = _
  simp only [execObjinvComplete, hv, hdone, Bool.true_eq_false, if_false]
  rfl

/-- FAULTANS answers a record that has been written (R51). -/
theorem exec_faultans_of_record {r : FaultRec} (hin : commandWithin cmd (2 ^ 32) 2 1 1 = true)
    (hr : (s.faults.find? fun r => r.ctx == cmd.ctx && r.seq == cmd.w1 && r.written) = some r) :
    exec (.faultans cmd) s = (s.answerRecord r (cmd.w2 == 1)).finishCommand s.cmdIdx 0x04 0 0 := by
  show execFaultans cmd s = _
  simp only [execFaultans, hin, hr, Bool.true_eq_false, if_false]

/-- PREEMPT asks for a save of every resident block of its context (R250). -/
theorem exec_preempt_of_context (hc : s.ctx? cmd.ctx = some c) (hin : commandWithin cmd 1 1 1 1 = true) :
    let t := s.updCtx cmd.ctx fun c =>
      { c with preempted := true, preempts := c.preempts ++ [s.cmdIdx], saved := if c.preempts.isEmpty then 0 else c.saved }
    exec (.preempt cmd) s
      = .next ((t.blocks.filter fun b => b.ctx == cmd.ctx && b.st == .resident).foldl (fun s b => s.beginSave b.uid .preempt) t) := by
  show execPreempt cmd s = _
  simp only [execPreempt, hin, hc, Option.isNone_some, Bool.true_eq_false, Bool.false_eq_true, or_self, if_false]

/-- RESUME returns the saved blocks of its context to PENDING (R250). -/
theorem exec_resume_of_context (hc : s.ctx? cmd.ctx = some c) (hin : commandWithin cmd 1 1 1 1 = true) :
    let t := s.updCtx cmd.ctx fun c => { c with preempted := false }
    let bs := t.blocks.filter fun b => b.ctx == cmd.ctx && b.st == .saved && b.save == some .preempt
      && (t.gangOf b).all fun k => k.st == .saved || k.ended
    exec (.resume cmd) s = (bs.foldl (fun (u : State) b => u.toPending b.uid) { t with blocks := t.blocks.map fun (b : Block) =>
      if b.ctx = cmd.ctx ∧ b.st = BState.pending then { b with pendSince := s.sched.now } else b }).finishCommand
        s.cmdIdx 0x06 0 bs.length := by
  show execResume cmd s = _
  simp only [execResume, hin, hc, Option.isNone_some, Bool.true_eq_false, Bool.false_eq_true, or_self, if_false]

/-- SLOTBIND binds a free slot to a queue whose QCB is good (R431). -/
theorem exec_slotbind_of_free (hrun : s.fw.running = true) (hin : commandWithin cmd 64 4096 8 1 = true)
    (hfree : (s.queues.slots.getD cmd.w1 {}).bound = false) (hmem : s.hbmHas (s.qcbAt cmd.w2) 64 = true)
    (hlog : (s.boundSlot cmd.w2 cmd.w3).log2n ≥ 4) : exec (.slotbind cmd) s =
      ((s.updSlot cmd.w1 fun _ => s.boundSlot cmd.w2 cmd.w3).setMap cmd.w2 cmd.w1).finishCommand s.cmdIdx 0x07 0 0 := by
  show execSlotbind cmd s = _
  simp only [execSlotbind, hrun, hin, hfree, hmem, Nat.not_lt.2 hlog, Bool.true_eq_false, Bool.false_eq_true, if_false]

/-- SLOTUNBIND unbinds a slot that is bound, and tells its HEAD (R431). -/
theorem exec_slotunbind_of_within (hin : commandWithin cmd 64 1 1 1 = true) :
    let q := s.queues.slots.getD cmd.w1 {}
    exec (.slotunbind cmd) s = (if q.bound then s.unbindSlot cmd.w1 else s).finishCommand s.cmdIdx 0x08 0 q.head := by
  show execSlotunbind cmd s = _
  simp only [execSlotunbind, hin, Bool.true_eq_false, if_false]
  cases (s.queues.slots.getD cmd.w1 {}).bound <;> rfl

/-- PGM enters the order of its die (R95). -/
theorem exec_pgm_of_within (hin : commandWithin cmd (2 ^ 30) (2 ^ 52) 1 1 = true) (halign : cmd.w2 % 65536 = 0)
    (hmem : s.hbmHas cmd.w2 16384 = true) (hchannel : bitAt s.presence.channels (cmd.w1 % 64) = true) :
    exec (.pgm cmd) s = .next (s.startFlash true cmd.w1 cmd.w2) := by
  show execPgm cmd s = _
  simp only [execPgm, hin, halign, hmem, hchannel, ne_eq, not_true_eq_false, Bool.true_eq_false, or_self, if_false]

/-- ERASE enters the order of its die (R95). -/
theorem exec_erase_of_within (hin : commandWithin cmd 64 (2 ^ 16) 1 1 = true) (hchannel : bitAt s.presence.channels cmd.w1 = true) :
    exec (.erase cmd) s = .next (s.startFlash false (cmd.w1 + 64 * cmd.w2) 0) := by
  show execErase cmd s = _
  simp only [execErase, hin, hchannel, Bool.true_eq_false, or_self, if_false]

/-- PGREAD starts the read of a page (R96, R428). -/
theorem exec_pgread_of_within (hin : commandWithin cmd (2 ^ 30) (2 ^ 52) 1 1 = true) (halign : cmd.w2 % 16384 = 0)
    (hmem : s.hbmHas cmd.w2 16384 = true) (hchannel : bitAt s.presence.channels (cmd.w1 % 64) = true) :
    exec (.pgread cmd) s = .next (s.startRead cmd.w1 0 fun r => { r with pgread := some (s.cmdIdx, cmd.w2) }).1 := by
  show execPgread cmd s = _
  simp only [execPgread, hin, halign, hmem, hchannel, ne_eq, not_true_eq_false, Bool.true_eq_false, or_self, if_false]

/-- FEEDMAP binds a feed page to a header, and keeps what is staged there (R435). -/
theorem exec_feedmap_of_context (hc : s.ctx? cmd.ctx = some c) (hin : commandWithin cmd 4096 (2 ^ 32) (2 ^ 48) 1 = true)
    (halign : cmd.w3 % 128 = 0) :
    let f : Feed := { page := cmd.w1, ctx := cmd.ctx, obj := cmd.w2, off := cmd.w3,
                      stage := ((s.link.feeds.find? fun f => f.page == cmd.w1).map Feed.stage).getD [] }
    exec (.feedmap cmd) s = State.finishCommand
      { s with link := { s.link with feeds := (s.link.feeds.filter fun (f : Feed) => f.page != cmd.w1) ++ [f] } } s.cmdIdx 0x0B 0 0 := by
  show execFeedmap cmd s = _
  simp only [execFeedmap, hin, hc, halign, Option.isNone_some, ne_eq, not_true_eq_false, Bool.true_eq_false, Bool.false_eq_true,
    or_self, if_false]

end

/-- Settles O39, command by command. -/
theorem hostCommands : Obligations.HostCommands := by
  refine ⟨?_, ?_, ?_, ?_, ?_, ?_, ?_, ?_, ?_, ?_, ?_, ?_, ?_, ?_⟩
  · intro s cmd hin hfree hmem d hgood c t hroom
    exact (exec_ctxload_of_good hin hfree hmem hgood).trans (State.finishCommand_of_room hroom _ _ _)
  · intro s cmd b hin hb hctx hst hroom
    exact (exec_ctxload_of_busy hin hb hctx hst).trans (State.finishCommand_of_room hroom _ _ _)
  · intro s cmd c hc hin hobj halign hmem htable hentry e hvalid root t hroom
    exact (exec_objcreate_of_valid hc hin hobj halign hmem htable hentry hvalid).trans (State.finishCommand_of_room hroom _ _ _)
  · intro s cmd c hc hin
    exact exec_objinv_of_context hc hin
  · intro s v hv hdone lines u t
    have hexec := exec_objinvComplete_of_performed hv hdone
    exact ⟨fun hats => hexec.trans (if_pos hats),
      fun hats hroom => (hexec.trans (if_neg (by simp [hats]))).trans (State.finishCommand_of_room hroom _ _ _)⟩
  · intro s cmd r hin hr fail t u hroom
    exact (exec_faultans_of_record hin hr).trans (State.finishCommand_of_room hroom _ _ _)
  · intro s cmd c hin hc
    exact exec_preempt_of_context hc hin
  · intro s cmd c hin hc t bs u hroom
    exact (exec_resume_of_context hc hin).trans (State.finishCommand_of_room hroom _ _ _)
  · intro s cmd hrun hin hfree hmem hlog t hroom
    exact (exec_slotbind_of_free hrun hin hfree hmem hlog).trans (State.finishCommand_of_room hroom _ _ _)
  · intro s cmd hin q t hroom
    exact (exec_slotunbind_of_within hin).trans (State.finishCommand_of_room hroom _ _ _)
  · intro s cmd hin halign hmem hchannel
    exact exec_pgm_of_within hin halign hmem hchannel
  · intro s cmd hin hchannel
    exact exec_erase_of_within hin hchannel
  · intro s cmd hin halign hmem hchannel
    exact exec_pgread_of_within hin halign hmem hchannel
  · intro s cmd c hin halign hc stage f t hroom
    exact (exec_feedmap_of_context hc hin halign).trans (State.finishCommand_of_room hroom _ _ _)

/-! #### Malformed commands (R427, R428) -/

/-- A command beyond its limits is turned away before anything else is looked at; SLOTBIND, once the firmware core runs (R471). -/
theorem exec_of_exceeding (s : State) (cmd : Command) : [(0x01, Instr.ctxload cmd, 1, 1, 1, 1), (0x03, .objinv cmd, 2 ^ 32, 2 ^ 32, 2 ^ 32, 2),
    (0x04, .faultans cmd, 2 ^ 32, 2, 1, 1), (0x05, .preempt cmd, 1, 1, 1, 1), (0x06, .resume cmd, 1, 1, 1, 1), (0x07, .slotbind cmd, 64, 4096, 8, 1),
    (0x08, .slotunbind cmd, 64, 1, 1, 1), (0x09, .pgm cmd, 2 ^ 30, 2 ^ 52, 1, 1), (0x0A, .erase cmd, 64, 2 ^ 16, 1, 1),
    (0x0B, .feedmap cmd, 4096, 2 ^ 32, 2 ^ 48, 1), (0x0C, .pgread cmd, 2 ^ 30, 2 ^ 52, 1, 1)].Forall fun p =>
      commandWithin cmd p.2.2.1 p.2.2.2.1 p.2.2.2.2.1 p.2.2.2.2.2 = false → (p.1 = 0x07 → s.fw.running = true) →
      exec p.2.1 s = s.malformedCmd p.1 := by
  refine ⟨fun h _ => if_pos h, fun h _ => if_pos (.inl h), fun h _ => if_pos h, fun h _ => if_pos (.inl h), fun h _ => if_pos (.inl h),
    fun h hrun => ?_, fun h _ => if_pos h, fun h _ => if_pos (.inl h), fun h _ => if_pos (.inl h), fun h _ => if_pos (.inl h),
    fun h _ => if_pos (.inl h)⟩
  exact (if_neg (by simp [hrun rfl])).trans (if_pos h)

/-- Settles O40: what turns a malformed command away completes it with status 1. -/
theorem malformedCommands : Obligations.MalformedCommands := by
  intro s cmd op i b1 b2 b3 b4 hmem hout hrun hroom
  exact (List.forall_iff_forall_mem.1 (exec_of_exceeding s cmd) _ hmem hout hrun).trans (State.finishCommand_of_room hroom op 1 0)

end Sys2Proof.Machine

/-! ### Power, boot, attestation and the apertures (R425, R426, R434 to R436, R462 to R474) -/

namespace Sys2Proof.Machine

open Sys2Proof

/-! #### Power (R464 to R469) -/

section

variable {s : State}

/-- A hot die is held at the lowest step (R464). -/
theorem exec_thermalThrottle_of_powered (hpow : s.diePowered s.sched.args.id = true)
    (hfree : bitAt s.power.throttled s.sched.args.id = false) : exec .thermalThrottle s =
      .next ({ s with power := { s.power with throttled := setBit s.power.throttled s.sched.args.id } }.setStep s.sched.args.id 0) := by
  show execThermalThrottle s = _
  simp only [execThermalThrottle, hpow, hfree, Bool.true_eq_false, Bool.false_eq_true, or_self, if_false]

/-- A throttled die is released (R464). -/
theorem exec_throttleRelease_of_throttled (h : bitAt s.power.throttled s.sched.args.id = true) : exec .throttleRelease s =
    .next { s with power := { s.power with throttled := clearBit s.power.throttled s.sched.args.id } } :=
  if_pos h

/-- A thermal trip stops every context (R252, R464). -/
theorem exec_thermalTrip_of_untripped (h : s.power.tripped = false) :
    let t := s.ctxs.foldl (fun (u : State) c => u.stopContext c.n { cause := 0x11 }) s
    exec .thermalTrip s = .next { t with power := { t.power with tripped := true } } :=
  if_neg (by simp [h])

/-- A sag of the supply lowers the step of its die by 4 (R465). -/
theorem exec_supplySag_of_powered (h : s.diePowered s.sched.args.id = true) :
    exec .supplySag s = .next (s.setStep s.sched.args.id (clockStep s.power.clkstep s.sched.args.id - 4)) :=
  if_pos h

/-- The step of a die rises by 1 below KMAX (R465). -/
theorem exec_clockStepRise_of_below (hpow : s.diePowered s.sched.args.id = true)
    (hfree : bitAt s.power.throttled s.sched.args.id = false)
    (hlt : clockStep s.power.clkstep s.sched.args.id < clockStep s.power.kmax s.sched.args.id) :
    exec .clockStepRise s = .next (s.setStep s.sched.args.id (clockStep s.power.clkstep s.sched.args.id + 1)) :=
  if_pos (by simp [hpow, hfree, hlt])

/-- The end of a power window sets KMAX (R467). -/
theorem exec_powerWindow_of_running (h : s.fw.running = true) : exec .powerWindow s = .next (s.writeKmax s.sched.args.value) :=
  if_pos h

/-- A quad that was being ungated is available (R469). -/
theorem exec_quadUngateComplete_of_ungating (h : s.power.ungating.contains s.sched.args.id = true) : exec .quadUngateComplete s =
    .next { s with power := { s.power with ungating := eraseNat s.sched.args.id s.power.ungating } } :=
  if_pos h

/-! #### Boot and attestation (R471, R473) -/

/-- The boot ROM starts a good image of a version that is not below the least, and any other fails (R471). -/
theorem exec_resetBoot_of_inReset {u : State} (hu : u = if s.sched.args.alt then s.deviceReset else s) (h : u.fw.inReset = true) :
    exec .resetBoot s = .next
      (if s.sched.args.ok = true ∧ u.fw.minVersion ≤ s.sched.args.value then
        u.startFirmware (s.sched.args.value % 2 ^ 32) (s.sched.args.data % 2 ^ 384)
      else { u with fw := { u.fw with verified := false, failed := true, rollback := s.sched.args.ok } }) := by
  subst hu
  show execResetBoot s = _
  simp only [execResetBoot, h, Bool.true_eq_false, if_false]
  exact (apply_ite Host.Outcome.next _ _ _).symm

/-- An attestation that is under way writes its report and ends (R473). -/
theorem exec_attestDone_of_busy (hbusy : s.fw.attbusy = true) (hmem : s.hbmHas s.fw.attbuf 224 = true) :
    let sign := (List.range 12).flatMap fun i => natToBytes 8 (Config.freeSignature s.sched.fresh i).toNat
    let t := s.tick.devWrite s.fw.attbuf (s.report ++ sign)
    exec .attestDone s = .next { t with fw := { t.fw with attbusy := false, attdone := true },
                                        link := { t.link with msix := t.link.msix ++ [1] } } := by
  show execAttestDone s = _
  simp only [execAttestDone, hbusy, hmem, Bool.true_eq_false, if_false]

end

/-- Settles O44, move by move. -/
theorem powerAndBoot : Obligations.PowerAndBoot := by
  refine ⟨?_, ?_, ?_, ?_, ?_, ?_, ?_, ?_, ?_, ?_⟩
  · exact fun s hpow hfree => exec_thermalThrottle_of_powered hpow hfree
  · exact fun s h => exec_throttleRelease_of_throttled h
  · exact fun s h => exec_thermalTrip_of_untripped h
  · exact fun s h => exec_supplySag_of_powered h
  · intro s d hpow hfree hlt
    exact exec_clockStepRise_of_below hpow hfree hlt
  · exact fun s h => exec_powerWindow_of_running h
  · exact fun s h => exec_quadUngateComplete_of_ungating h
  · exact fun s u hu h => exec_resetBoot_of_inReset hu h
  · exact fun s => rfl
  · exact fun s hbusy hmem => exec_attestDone_of_busy hbusy hmem

/-! #### The apertures (R425, R426, R434 to R436) -/

section

variable (s : State) {off len v : Nat}

/-- A write of 16 bytes to the residency table (R434). -/
theorem State.writeBar_exres (hmod : off % 16 = 0) (hlo : 0x1000000 ≤ off) (hhi : off < 0x1100000) :
    s.writeBar 0 off 16 v = .next (s.writeExres ((off - 0x1000000) / 16) (v % 2 ^ 64) (v / 2 ^ 64 % 2 ^ 64)) :=
  if_pos ⟨rfl, hmod, hlo, hhi⟩

/-- A write of 8 bytes to the control aperture (R426). -/
theorem State.writeBar_control (hmod : off % 8 = 0) : s.writeBar 0 off 8 v = .next (s.writeControl off (v % 2 ^ 64)) := by
  simp [State.writeBar, hmod]

/-- A kick of a gated device is caught (R430, R436). -/
theorem State.writeBar_notify_of_gated (hmod : off % 4096 = 0) (hpage : off / 4096 < 4096) (hgate : s.link.gated = true) :
    s.writeBar 2 off 8 v = .next { s with link := s.link.catchKick (off / 4096) (v % 2 ^ 64) } :=
  (if_pos ⟨rfl, hmod, hpage⟩).trans (if_pos hgate)

/-- A write of 8 bytes at 0x800 of a feed page appends (R435). -/
theorem State.writeBar_append (hpage : off / 4096 < 4096) (hplace : off % 4096 = 0x800)
    (hgo : s.appendWaits (off / 4096) v = false) : s.writeBar 4 off 8 v = .next (s.append (off / 4096) (v % 2 ^ 64)) := by
  simp [State.writeBar, hplace, Nat.not_le.2 hpage, hgo]

variable {s}

/-- An access of CXL.mem to a line of HBM that is not locked out from a write (R39, R121). -/
theorem exec_hostCxlMemAccess_of_line (hlen : s.sched.args.len ≠ 0)
    (hline : s.sched.args.value % 64 + s.sched.args.len ≤ 64) (hmem : s.hbmHas s.sched.args.value s.sched.args.len = true)
    (hgo : s.sched.args.ok = true → s.lockedOut 0 (devPiece s.sched.args.value s.sched.args.len) = false) :
    exec .hostCxlMemAccess s = .next (if s.sched.args.ok then s.devStore s.sched.args.value s.sched.args.len s.sched.args.data
      else s.touchHome (devPiece s.sched.args.value s.sched.args.len) s.sched.args.value s.sched.args.len false) := by
  show execHostCxlMemAccess s = _
  have hin : ¬(s.sched.args.len = 0 ∨ s.sched.args.value % 64 + s.sched.args.len > 64
      ∨ s.hbmHas s.sched.args.value s.sched.args.len = false) := by simp [hlen, hmem]; omega
  have hfree : ¬((s.sched.args.ok && s.lockedOut 0 (devPiece s.sched.args.value s.sched.args.len)) = true) := by simpa using hgo
  exact (if_neg hin).trans ((if_neg hfree).trans (apply_ite Host.Outcome.next _ _ _).symm)

end

/-- Settles O45: a write of the aperture by its BAR, and an access of CXL.mem. -/
theorem apertureAccesses : Obligations.ApertureAccesses := by
  refine ⟨?_, ?_⟩
  · intro s a
    have hexec : exec .registerWrite s = s.writeBar a.id a.sub a.len a.data := rfl
    refine ⟨?_, ?_, ?_, ?_⟩
    · intro hid hlen hmod hlo hhi
      rw [hexec, hid, hlen]
      exact s.writeBar_exres hmod hlo hhi
    · intro hid hlen hmod
      rw [hexec, hid, hlen]
      exact s.writeBar_control hmod
    · intro hid hlen hmod hpage hgate
      rw [hexec, hid, hlen]
      exact s.writeBar_notify_of_gated hmod hpage hgate
    · intro hid hpage hplace hlen hgo
      rw [hexec, hid, hlen]
      exact s.writeBar_append hpage hplace hgo
  · intro s a hlen hline hmem hgo
    exact exec_hostCxlMemAccess_of_line hlen hline hmem hgo

end Sys2Proof.Machine

/-! ### Debug and replay (R448 to R459), and the registers at reset -/

namespace Sys2Proof.Machine

open Sys2Proof

/-! #### DBGCMD (R450) -/

/-- A value of DBGCMD: its operation, ALL and BLK. -/
def dbgcmdWord (op : Nat) (all : Bool) (blk : Nat) : Nat := op + bit all * 4 + blk % 2 ^ 32 * 2 ^ 32

section

variable {op : Nat} (all : Bool) (blk : Nat)

theorem bits_dbgcmdWord_blk (hop : op < 4) : bits (dbgcmdWord op all blk) 32 32 = blk % 2 ^ 32 := by
  unfold bits dbgcmdWord bit
  split <;> omega

theorem bits_dbgcmdWord_reserved (hop : op < 4) : bits (dbgcmdWord op all blk) 3 29 = 0 := by
  unfold bits dbgcmdWord bit
  split <;> omega

theorem bits_dbgcmdWord_op (hop : op < 4) : bits (dbgcmdWord op all blk) 0 2 = op := by
  unfold bits dbgcmdWord bit
  split <;> omega

theorem bitAt_dbgcmdWord_all (hop : op < 4) : bitAt (dbgcmdWord op all blk) 2 = all := by
  have hbit : dbgcmdWord op all blk / 2 ^ 2 % 2 = bit all := by
    unfold dbgcmdWord bit
    split <;> omega
  rw [bitAt, hbit]
  cases all <;> rfl

variable (s : State)

/-- OP 1 of DBGCMD halts the blocks that it commands. -/
theorem State.writeDbgcmd_stop : s.writeDbgcmd (dbgcmdWord 1 all blk) =
    (s.commanded all (blk % 2 ^ 32)).foldl (fun (u : State) b => u.haltBlock b.uid 1 0 (0, 0))
      { s with dbg := { s.dbg with dbgblk := blk % 2 ^ 32 } } := by
  have hop : 1 < 4 := by decide
  simp [State.writeDbgcmd, bits_dbgcmdWord_blk all blk hop, bits_dbgcmdWord_reserved all blk hop,
    bits_dbgcmdWord_op all blk hop, bitAt_dbgcmdWord_all all blk hop]

/-- OP 2 of DBGCMD resumes the blocks that it commands, where they are halted. -/
theorem State.writeDbgcmd_resume : s.writeDbgcmd (dbgcmdWord 2 all blk) =
    ((s.commanded all (blk % 2 ^ 32)).filter fun b => b.halt.isSome).foldl State.resumeBlock
      { s with dbg := { s.dbg with dbgblk := blk % 2 ^ 32 } } := by
  have hop : 2 < 4 := by decide
  simp [State.writeDbgcmd, bits_dbgcmdWord_blk all blk hop, bits_dbgcmdWord_reserved all blk hop,
    bits_dbgcmdWord_op all blk hop, bitAt_dbgcmdWord_all all blk hop]

end

section

variable {s : State}

/-! #### Stop records and the trace ring (R449, R451, R454) -/

/-- A halted block files its stop record once its groups have finished the word they are in (R450, R451). -/
theorem exec_haltComplete_of_halted {b : Block} {reason : Nat} (hb : s.block? s.sched.args.id = some b)
    (hhalt : b.halt = some (reason, false)) (hres : b.st = .resident) (hfin : s.finishing b = false) :
    let x := (b.thread? b.haltTid).getD { tid := 0 }
    let own := reason == 3 || reason == 4
    let at1 (st : TState) : List Nat := (b.threads.filter fun t => t.st == st).map Thread.tid
    let words := s.recordHead b (if reason = 1 then 0 else b.haltTid) 0x01 reason
      ++ [b.haltLog.1, b.haltLog.2, if own then x.retired else 0, if own then x.shash else 0] ++ mask1024 (at1 .atBar) ++ mask1024 (at1 .atGbar)
    let t := s.updBlock b.uid fun k => { k with halt := some (reason, true) }
    exec .haltComplete s = .next { t with dbg := { t.dbg with buffer := t.dbg.buffer ++ [{ quad := quadOf b.core, words := words, stop := true }] } } := by
  show execHaltComplete s = _
  simp only [execHaltComplete, hb, hhalt, hres, hfin, ne_eq, not_true_eq_false, Bool.false_eq_true, if_false]

/-- Dwords are written to the trace ring where it has its place in memory. -/
theorem State.ringWrite_of_room {ws : List Nat} (h : s.traceRoom ws) : s.ringWrite ws = .next (s.traced ws) :=
  if_neg (by rw [h]; decide)

/-- A gap record of a quad where records were lost (R454, R455). -/
theorem exec_traceDrain_of_lost (hlost : lookupD 0 s.sched.args.id s.dbg.lost ≠ 0) (hfree : s.dbg.ringFree ≠ 0)
    (hgate : bitAt s.power.qgate s.sched.args.id = false ∨ ∃ t ∈ s.dbg.buffer, t.quad = s.sched.args.id) :
    let r := s.numbered [0x30, 0, 0, 0, lookupD 0 s.sched.args.id s.dbg.lost + s.sched.args.id * 2 ^ 32, 0, 0, 0]
    exec .traceDrain s = State.ringWrite { r.1 with dbg := { r.1.dbg with
      lost := s.dbg.lost.filter fun l => l.1 != s.sched.args.id } } r.2 :=
  if_pos ⟨hlost, hfree, by simpa using hgate⟩

/-- While the trace ring is full a record that is no stop record is lost (R454). -/
theorem exec_traceDrain_of_full {t : TraceRec} {rest : List TraceRec}
    (htake : takeRecord s.sched.args.id s.dbg.buffer = some (t, rest)) (hfull : s.dbg.ringFree = 0) (hstop : t.stop = false) :
    let lost := lookupD 0 s.sched.args.id s.dbg.lost
    exec .traceDrain s = .next { s with dbg := { s.dbg with
      buffer := rest, lost := setAt s.sched.args.id (if lost < 2 ^ 32 - 1 then lost + 1 else lost) s.dbg.lost } } := by
  show execTraceDrain s = _
  simp only [execTraceDrain, htake, hfull, hstop, ne_eq, not_true_eq_false, false_and, and_false, Bool.false_eq_true, if_false, if_true]

/-- The next record of a quad, where none was lost: it goes to the ring with the next number (R449). -/
theorem exec_traceDrain_of_record {t : TraceRec} {rest : List TraceRec}
    (htake : takeRecord s.sched.args.id s.dbg.buffer = some (t, rest)) (hfree : s.dbg.ringFree ≠ 0)
    (hlost : lookupD 0 s.sched.args.id s.dbg.lost = 0) (hstop : t.stop = false) :
    let r := s.numbered t.words
    exec .traceDrain s = State.ringWrite { r.1 with dbg := { r.1.dbg with buffer := rest } } r.2 := by
  show execTraceDrain s = _
  simp only [execTraceDrain, htake, hfree, hlost, hstop, ne_eq, not_true_eq_false, false_and, Bool.false_eq_true, if_false]

/-- A stop record that does not pass the ring's end (R449, R451). -/
theorem exec_traceDrain_of_stop {t : TraceRec} {rest : List TraceRec}
    (htake : takeRecord s.sched.args.id s.dbg.buffer = some (t, rest)) (hfree : s.dbg.ringFree ≥ 5)
    (hlost : lookupD 0 s.sched.args.id s.dbg.lost = 0) (hstop : t.stop = true)
    (hleft : s.dbg.ringSize - s.dbg.trprod % s.dbg.ringSize ≥ 5) :
    let r := s.numbered t.words
    exec .traceDrain s = State.ringWrite { r.1 with dbg := { r.1.dbg with buffer := rest } } r.2 := by
  show execTraceDrain s = _
  have hne : s.dbg.ringFree ≠ 0 := by omega
  simp only [execTraceDrain, htake, hne, hlost, hstop, Nat.not_lt.2 hleft, Nat.not_lt.2 hfree, Nat.zero_add, ne_eq,
    not_true_eq_false, false_and, if_false, if_true]

/-! #### The log and its gate (R457 to R459) -/

/-- The first closed chunk goes to its place in the log ring, which has room (R457, R459). -/
theorem exec_rrChunkWrite_of_room {c : Chunk} {rest : List Chunk} (htake : takeChunk s.dbg.chunks = some (c, rest))
    (hroom : s.dbg.full = false) (hmem : s.memHas s.dbg.chunkAt 256 = true) (hup : s.poolDown s.dbg.chunkAt 256 = false) :
    exec .rrChunkWrite s = .next (s.writeChunk c rest) := by
  show execRrChunkWrite s = _
  simp only [execRrChunkWrite, htake, hroom, hmem, hup, Bool.true_eq_false, Bool.false_eq_true, if_false]

variable {k : LogKey} {since lo bl t at1 ret hash : Nat} {done : State}

/-- An atomic that differs from what its run's first entry logged stops the replay (R457). -/
theorem exec_replayGateRelease_of_differing (hwait : s.waitingAtom s.sched.args.id = some (k, since, done))
    (hhead : s.gateHead k = true) (hlog : s.logHead k.ctx k.obj = some (lo, bl, t, 0, ret, hash))
    (hdiff : ¬(k.ret = ret ∧ k.hash = hash)) : exec .replayGateRelease s = .next (s.replayStop k 3 (ret, hash)) := by
  show execReplayGateRelease s = _
  simp only [execReplayGateRelease, hwait, hhead, hlog, hdiff, Bool.true_eq_false, if_false]

/-- An atomic that heads its object's log is performed where it agrees with the log, or stands within its run (R457). -/
theorem exec_replayGateRelease_of_agreeing (hwait : s.waitingAtom s.sched.args.id = some (k, since, done))
    (hhead : s.gateHead k = true) (hlog : s.logHead k.ctx k.obj = some (lo, bl, t, at1, ret, hash))
    (hagree : at1 ≠ 0 ∨ k.ret = ret ∧ k.hash = hash) : exec .replayGateRelease s = .next done := by
  show execReplayGateRelease s = _
  simp only [execReplayGateRelease, hwait, hhead, hlog, Bool.true_eq_false, if_false]
  cases at1 with
  | zero => exact if_pos (hagree.resolve_left (fun h => h rfl))
  | succ n => rfl

/-- An atomic that has waited at the gate beyond the limit stops the replay (R457). -/
theorem exec_replayGateTimeout_of_overdue (hwait : s.waitingAtom s.sched.args.id = some (k, since, done))
    (hmode : s.rrMode k.ctx = 2) (hhold : s.gateHolds k = true) (hover : s.sched.now > since + 2 ^ s.dbg.rrwait) :
    exec .replayGateTimeout s = .next (s.replayStop k 4 (0, 0)) := by
  show execReplayGateTimeout s = _
  simp only [execReplayGateTimeout, hwait, hmode, hhold, Nat.not_le.2 hover, ne_eq, not_true_eq_false, Bool.true_eq_false,
    or_self, if_false]

end

/-- Settles O43, move by move. -/
theorem debugAndReplay : Obligations.DebugAndReplay := by
  refine ⟨?_, ?_, ?_, ?_, ?_, ?_, ?_, ?_, ?_, ?_⟩
  · exact fun s => rfl
  · intro s blk
    exact congrArg Host.Outcome.next (State.writeDbgcmd_stop s.sched.args.ok s.sched.args.id s)
  · intro s blk
    exact congrArg Host.Outcome.next (State.writeDbgcmd_resume s.sched.args.ok s.sched.args.id s)
  · exact fun s => rfl
  · intro s b reason hb hhalt hres hfin
    exact exec_haltComplete_of_halted hb hhalt hres hfin
  · intro s quad lost gap g hlost hfree hgate hroom
    exact (exec_traceDrain_of_lost hlost hfree hgate).trans (State.ringWrite_of_room hroom)
  · intro s t rest htake quad lost n u
    refine ⟨?_, ?_, ?_⟩
    · intro hfull hstop
      exact exec_traceDrain_of_full htake hfull hstop
    · intro hfree hlost hstop hroom
      exact (exec_traceDrain_of_record htake hfree hlost hstop).trans (State.ringWrite_of_room hroom)
    · intro hfree hlost hstop hleft hroom
      exact (exec_traceDrain_of_stop htake hfree hlost hstop hleft).trans (State.ringWrite_of_room hroom)
  · intro s c rest htake hroom a hmem hup t
    exact exec_rrChunkWrite_of_room htake hroom hmem hup
  · intro s done k since hwait hhead lo bl t at1 ret hash hlog
    refine ⟨?_, fun hagree => exec_replayGateRelease_of_agreeing hwait hhead hlog hagree⟩
    rintro rfl hdiff
    exact exec_replayGateRelease_of_differing hwait hhead hlog hdiff
  · exact fun s done k since hwait hmode hhold hover => exec_replayGateTimeout_of_overdue hwait hmode hhold hover

/-- Settles O58: each register is read from the state at reset. -/
theorem resetRegisters : Obligations.ResetRegisters := by
  unfold Obligations.ResetRegisters
  decide

end Sys2Proof.Machine
